-- ==== Sys2Proof/Word.lean ====
section
/-! DEFINITION. Word.lean: the words of the machine and the plainest operations on them. -/

namespace Sys2Proof

/-- A register, an instruction word or a memory word (R2, R52). -/
abbrev Word := BitVec 32
/-- An address or a 64-bit value. -/
abbrev DWord := BitVec 64
/-- The unit of memory (R2). -/
abbrev Byte := BitVec 8
/-- Number of a vector register inside a word, window-relative (R54). -/
abbrev VReg := BitVec 6

/-- Field NAME[lo + len - 1 : lo] of a word (R2). -/
def fld {n : Nat} (w : BitVec n) (lo len : Nat) : BitVec len := w.extractLsb' lo len

/-- A single bit NAME[i] of a word (R2). -/
def bit {n : Nat} (w : BitVec n) (i : Nat) : Bool := w.getLsbD i

/-- A Bool as the number 0 or 1. -/
def b2n (b : Bool) : Nat := if b then 1 else 0

end Sys2Proof
end

