-- ==== Sys2Proof/Syntax.lean ====
section
/-! DEFINITION. Syntax.lean: the instructions of the opcode table, and the steps of the device that it lists
without a word, as one inductive type. Coded fields are named values (R302, R308); a register number stays the
bits of its field. -/

namespace Sys2Proof

/-- The guard of a P-class or Q-class instruction: G[30] negates, G[29:27] selects (R299). -/
structure Guard where
  neg : Bool
  idx : BitVec 3
  deriving DecidableEq, Repr

/-- Operand b of the VR format: V0 to V63 window-relative, or S0 to S63 broadcast (R301). -/
inductive Src where
  | v (n : BitVec 6)
  | s (n : BitVec 6)
  deriving DecidableEq, Repr

/-- How a comparison joins the old predicate (R307, R358). -/
inductive Comb where
  | set | and | or | xor
  deriving DecidableEq, Repr

/-- Integer conditions (R308). -/
inductive ICond where
  | eq | ne | lt | le | gt | ge | lo | hs
  deriving DecidableEq, Repr

/-- FP32 conditions (R308). -/
inductive FCond where
  | eq | ne | lt | le | gt | ge | num | nan
  deriving DecidableEq, Repr

/-- Functions of SFU (R307); codes 7 to 127 are reserved. -/
inductive SfuFn where
  | rcp | rsq | sqrt | ex2 | lg2 | sin | cos
  deriving DecidableEq, Repr

/-- Rounding codes of CVT and FRND (R308). -/
inductive Rnd where
  | rn | rz | rd | ru
  deriving DecidableEq, Repr

/-- Source codes of CVT (R76); 0xC to 0xF are reserved. -/
inductive CvtSrc where
  | f32 | f16 | bf16 | e4m3 | e5m2 | tp8 | e2m3 | e3m2 | e2m1 | s8 | s32 | u32
  deriving DecidableEq, Repr

/-- Destination codes of CVT (R76). -/
inductive CvtDst where
  | f32 | f16 | bf16 | e4m3 | e5m2 | tp8 | s32 | u32
  deriving DecidableEq, Repr

/-- Modes of SHFL (R399). -/
inductive ShflMode where
  | idx | up | down | xor
  deriving DecidableEq, Repr

/-- Modes of VOTE (R415). -/
inductive VoteMode where
  | ballot | any | all | eq
  deriving DecidableEq, Repr

/-- Operations of REDUX (R389). -/
inductive ReduxOp where
  | add | min | max | or
  deriving DecidableEq, Repr

/-- Size field of VM (R302); 5 to 7 are reserved. -/
inductive MemSize where
  | b8 | b16 | b32 | b64 | b128
  deriving DecidableEq, Repr

/-- Operations of ATOM (R302); 9 to 15 are reserved. -/
inductive AtomOp where
  | add | min | max | and | or | xor | exch | ld | st
  deriving DecidableEq, Repr

/-- Orders of ATOM (R302). -/
inductive AtomOrd where
  | rlx | acq | rel | ar
  deriving DecidableEq, Repr

/-- Scopes (R112, R302). -/
inductive Scope where
  | core | team | dev | sys
  deriving DecidableEq, Repr

/-- Operations of AMSG (R323); 8 to 15 are reserved. -/
inductive AmsgOp where
  | add | min | max | and | or | xor | st | fadd
  deriving DecidableEq, Repr

/-- Sizes of AMSG (R323). -/
inductive AmsgSize where
  | b8 | b16 | b32 | b64
  deriving DecidableEq, Repr

/-- Levels of CAD (R241); 3 is reserved. -/
inductive CadLevel where
  | team | die | device
  deriving DecidableEq, Repr

/-- Answers of CBACK (R193); 3 to 7 are reserved. -/
inductive CbackCode where
  | accept | ignore | terminate
  deriving DecidableEq, Repr

/-- m of TRAPRET (R249); 2 and 3 are reserved. -/
inductive RetMode where
  | again | after
  deriving DecidableEq, Repr

/-- Index registers X1 to X3 (R57, R413); 0 is reserved. -/
inductive XReg where
  | x1 | x2 | x3
  deriving DecidableEq, Repr

/-- Orders of FENCE (R125); 0 is reserved. -/
inductive FenceOrd where
  | acq | rel | ar
  deriving DecidableEq, Repr

/-- What a peer asks for over UALink (R286). -/
inductive PeerKind where
  | load | store | atomic (op : AtomOp)
  deriving DecidableEq, Repr

/-- One constructor for each row of the opcode table. The first 136 have a word; the rest are steps of the device
that an entry of the agenda or a pending piece of work brings about (95_what_each_step_holds.md). -/
inductive Instr where
  /-- IADD: Adds a and b modulo 2^32 in each active lane. (R365) -/
  | iadd (y : Bool) (g : Guard) (d : BitVec 6) (a : BitVec 6) (b : Src)
  /-- ISUB: Subtracts b from a modulo 2^32 in each active lane. (R365) -/
  | isub (y : Bool) (g : Guard) (d : BitVec 6) (a : BitVec 6) (b : Src)
  /-- IMIN: Writes the signed minimum of a and b. (R365) -/
  | imin (y : Bool) (g : Guard) (d : BitVec 6) (a : BitVec 6) (b : Src)
  /-- IMAX: Writes the signed maximum of a and b. (R365) -/
  | imax (y : Bool) (g : Guard) (d : BitVec 6) (a : BitVec 6) (b : Src)
  /-- IMUL: Writes the low 32 bits of a times b. (R367) -/
  | imul (y : Bool) (g : Guard) (d : BitVec 6) (a : BitVec 6) (b : Src)
  /-- IMULH: Writes the high 32 bits of the 64-bit product, signed or unsigned under HX.z. (R367) -/
  | imulh (y : Bool) (g : Guard) (d : BitVec 6) (a : BitVec 6) (b : Src)
  /-- IMAD: Writes a times b plus d modulo 2^32. (R367) -/
  | imad (y : Bool) (g : Guard) (d : BitVec 6) (a : BitVec 6) (b : Src)
  /-- IDOT4: Adds to d the four byte products of a and b. (R367) -/
  | idot4 (y : Bool) (g : Guard) (d : BitVec 6) (a : BitVec 6) (b : Src)
  /-- AND: Bitwise AND of a and b. (R325) -/
  | and (y : Bool) (g : Guard) (d : BitVec 6) (a : BitVec 6) (b : Src)
  /-- OR: Bitwise OR of a and b. (R325) -/
  | or (y : Bool) (g : Guard) (d : BitVec 6) (a : BitVec 6) (b : Src)
  /-- XOR: Bitwise XOR of a and b. (R325) -/
  | xor (y : Bool) (g : Guard) (d : BitVec 6) (a : BitVec 6) (b : Src)
  /-- ANDN: Bitwise a AND NOT b. (R325) -/
  | andn (y : Bool) (g : Guard) (d : BitVec 6) (a : BitVec 6) (b : Src)
  /-- SHL: Shifts a left by b, giving 0 for shifts of 32 or more. (R392) -/
  | shl (y : Bool) (g : Guard) (d : BitVec 6) (a : BitVec 6) (b : Src)
  /-- SHR: Shifts a right with zero fill. (R392) -/
  | shr (y : Bool) (g : Guard) (d : BitVec 6) (a : BitVec 6) (b : Src)
  /-- SAR: Shifts a right with sign fill. (R392) -/
  | sar (y : Bool) (g : Guard) (d : BitVec 6) (a : BitVec 6) (b : Src)
  /-- ROTL: Rotates a left by b mod 32. (R392) -/
  | rotl (y : Bool) (g : Guard) (d : BitVec 6) (a : BitVec 6) (b : Src)
  /-- POPC: Counts the 1 bits of a. (R338) -/
  | popc (y : Bool) (g : Guard) (d : BitVec 6) (a : BitVec 6)
  /-- CLZ: Counts the leading zeros of a. (R338) -/
  | clz (y : Bool) (g : Guard) (d : BitVec 6) (a : BitVec 6)
  /-- BREV: Reverses the bits of a. (R338) -/
  | brev (y : Bool) (g : Guard) (d : BitVec 6) (a : BitVec 6)
  /-- IABS: Writes the signed absolute value of a. (R338) -/
  | iabs (y : Bool) (g : Guard) (d : BitVec 6) (a : BitVec 6)
  /-- BFX: Extracts a bit field of a, signed or unsigned. (R335) -/
  | bfx (y : Bool) (g : Guard) (d : BitVec 6) (a : BitVec 6) (b : Src)
  /-- BFI: Inserts the low bits of a into a field of d. (R335) -/
  | bfi (y : Bool) (g : Guard) (d : BitVec 6) (a : BitVec 6) (b : Src)
  /-- PRMT: Permutes bytes of a and old d under a control word. (R335) -/
  | prmt (y : Bool) (g : Guard) (d : BitVec 6) (a : BitVec 6) (b : Src)
  /-- MOV: Copies a to d. (R335) -/
  | mov (y : Bool) (g : Guard) (d : BitVec 6) (a : BitVec 6)
  /-- ISETP: Sets a predicate from an integer comparison, combined with its old value. (R370) -/
  | isetp (y : Bool) (g : Guard) (p : BitVec 3) (c : ICond) (a : BitVec 6) (b : Src) (m : Comb)
  /-- SEL: Selects a or b per lane by predicate P1-P4. (R395) -/
  | sel (y : Bool) (g : Guard) (d : BitVec 6) (a : BitVec 6) (b : Src) (k : BitVec 2)
  /-- IADDI: Adds an immediate to a. (R366) -/
  | iaddi (y : Bool) (g : Guard) (d : BitVec 6) (a : BitVec 6) (i : BitVec 9)
  /-- MOVI: Writes an immediate to d. (R382) -/
  | movi (y : Bool) (g : Guard) (d : BitVec 6) (i : BitVec 9)
  /-- FADD: FP32 addition rounded RNE. (R354) -/
  | fadd (y : Bool) (g : Guard) (d : BitVec 6) (a : BitVec 6) (b : Src)
  /-- FMUL: FP32 multiplication rounded RNE. (R354) -/
  | fmul (y : Bool) (g : Guard) (d : BitVec 6) (a : BitVec 6) (b : Src)
  /-- FMIN: FP32 minimum by R82. (R354) -/
  | fmin (y : Bool) (g : Guard) (d : BitVec 6) (a : BitVec 6) (b : Src)
  /-- FMAX: FP32 maximum by R82. (R354) -/
  | fmax (y : Bool) (g : Guard) (d : BitVec 6) (a : BitVec 6) (b : Src)
  /-- FFMA: Fused a times b plus d with one rounding. (R356) -/
  | ffma (y : Bool) (g : Guard) (d : BitVec 6) (a : BitVec 6) (b : Src)
  /-- FFNMA: Fused minus a times b plus d with one rounding. (R356) -/
  | ffnma (y : Bool) (g : Guard) (d : BitVec 6) (a : BitVec 6) (b : Src)
  /-- FFMS: Fused a times b minus d with one rounding. (R356) -/
  | ffms (y : Bool) (g : Guard) (d : BitVec 6) (a : BitVec 6) (b : Src)
  /-- FSETP: Sets a predicate from an FP32 comparison, combined with its old value. (R359) -/
  | fsetp (y : Bool) (g : Guard) (p : BitVec 3) (c : FCond) (a : BitVec 6) (b : Src) (m : Comb)
  /-- SFU: Computes a special function of a within the bounds of R85. (R398) -/
  | sfu (y : Bool) (g : Guard) (d : BitVec 6) (a : BitVec 6) (f : SfuFn)
  /-- HFMA2: Packed FP16 fused multiply-add per half. (R336) -/
  | hfma2 (y : Bool) (g : Guard) (d : BitVec 6) (a : BitVec 6) (b : Src)
  /-- BFMA2: Packed BF16 fused multiply-add per half. (R336) -/
  | bfma2 (y : Bool) (g : Guard) (d : BitVec 6) (a : BitVec 6) (b : Src)
  /-- HADD2: Packed FP16 addition per half. (R336) -/
  | hadd2 (y : Bool) (g : Guard) (d : BitVec 6) (a : BitVec 6) (b : Src)
  /-- HMUL2: Packed FP16 multiplication per half. (R336) -/
  | hmul2 (y : Bool) (g : Guard) (d : BitVec 6) (a : BitVec 6) (b : Src)
  /-- CVT: Converts one value per lane between formats under a rounding mode. (R348) -/
  | cvt (y : Bool) (g : Guard) (d : BitVec 6) (a : BitVec 6) (s : CvtSrc) (t : CvtDst) (r : Rnd)
  /-- FRND: Rounds a to an integral FP32 value. (R357) -/
  | frnd (y : Bool) (g : Guard) (d : BitVec 6) (a : BitVec 6) (r : Rnd)
  /-- QNT: Quantises a block of FP32 values to narrow codes and a scale. (R80) -/
  | qnt (y : Bool) (g : Guard) (d : BitVec 6) (a : BitVec 6) (b : Src)
  /-- DQN: Dequantises a block of codes to FP32. (R80) -/
  | dqn (y : Bool) (g : Guard) (d : BitVec 6) (a : BitVec 6) (b : Src)
  /-- HAD: Applies a Hadamard transform to h FP32 values. (R81) -/
  | had (y : Bool) (g : Guard) (d : BitVec 6) (a : BitVec 6)
  /-- SHFL: Reads a from another active lane of the split by index, up, down or xor. (R399) -/
  | shfl (y : Bool) (g : Guard) (d : BitVec 6) (a : BitVec 6) (b : Src) (m : ShflMode)
  /-- VOTE: Ballot, any, all or eq over a predicate of the active lanes. (R415) -/
  | vote (y : Bool) (g : Guard) (d : BitVec 6) (a : BitVec 6) (b : BitVec 7) (m : VoteMode)
  /-- REDUX: Reduces a over the active lanes into a scalar register. (R389) -/
  | redux (y : Bool) (g : Guard) (d : BitVec 6) (a : BitVec 6) (b : BitVec 7) (m : ReduxOp)
  /-- V2S: Copies one lane's register into a scalar register. (R411) -/
  | v2s (y : Bool) (g : Guard) (d : BitVec 6) (a : BitVec 6) (b : BitVec 7)
  /-- VMOVX: Reads the vector register indexed by Xn plus an immediate. (R413) -/
  | vmovx (y : Bool) (g : Guard) (d : BitVec 6) (x : XReg) (i : BitVec 9)
  /-- VMOVX_TO_X: Sets Xn from the low byte of Vd plus an immediate. (R413) -/
  | vmovxToX (y : Bool) (g : Guard) (d : BitVec 6) (x : XReg) (i : BitVec 9)
  /-- VMOVX_FROM_X: Copies Xn zero-extended into Vd. (R413) -/
  | vmovxFromX (y : Bool) (g : Guard) (d : BitVec 6) (x : XReg)
  /-- VSTX: Writes Vd into the vector register indexed by Xn plus an immediate. (R413) -/
  | vstx (y : Bool) (g : Guard) (d : BitVec 6) (x : XReg) (i : BitVec 9)
  /-- VSTX_ADD: Adds an immediate to Xn modulo 256. (R413) -/
  | vstxAdd (y : Bool) (g : Guard) (x : XReg) (i : BitVec 9)
  /-- SADD: Scalar addition, 32-bit or pair under HX.w. (R393) -/
  | sadd (y : Bool) (g : Guard) (d : BitVec 7) (a : BitVec 7) (b : BitVec 7)
  /-- SSUB: Scalar subtraction. (R393) -/
  | ssub (y : Bool) (g : Guard) (d : BitVec 7) (a : BitVec 7) (b : BitVec 7)
  /-- SMUL: Scalar multiplication, low bits. (R393) -/
  | smul (y : Bool) (g : Guard) (d : BitVec 7) (a : BitVec 7) (b : BitVec 7)
  /-- SAND: Scalar bitwise AND. (R393) -/
  | sand (y : Bool) (g : Guard) (d : BitVec 7) (a : BitVec 7) (b : BitVec 7)
  /-- SOR: Scalar bitwise OR. (R393) -/
  | sor (y : Bool) (g : Guard) (d : BitVec 7) (a : BitVec 7) (b : BitVec 7)
  /-- SXOR: Scalar bitwise XOR. (R393) -/
  | sxor (y : Bool) (g : Guard) (d : BitVec 7) (a : BitVec 7) (b : BitVec 7)
  /-- SSHL: Scalar left shift. (R393) -/
  | sshl (y : Bool) (g : Guard) (d : BitVec 7) (a : BitVec 7) (b : BitVec 7)
  /-- SSHR: Scalar logical right shift. (R393) -/
  | sshr (y : Bool) (g : Guard) (d : BitVec 7) (a : BitVec 7) (b : BitVec 7)
  /-- SSETP: Sets a group predicate from a scalar comparison. (R403) -/
  | ssetp (y : Bool) (g : Guard) (q : BitVec 3) (c : ICond) (a : BitVec 7) (b : BitVec 7)
  /-- SMOV: Copies one scalar register. (R402) -/
  | smov (y : Bool) (g : Guard) (d : BitVec 9) (a : BitVec 9)
  /-- SMOV_B64: Copies a scalar register pair. (R402) -/
  | smovB64 (y : Bool) (g : Guard) (d : BitVec 9) (a : BitVec 9)
  /-- SADDI: Adds an immediate to a scalar register or pair. (R394) -/
  | saddi (y : Bool) (g : Guard) (d : BitVec 9) (i : BitVec 12)
  /-- BRA: Relative branch, dividing the split as lanes disagree. (R337) -/
  | bra (y : Bool) (g : Guard) (o : BitVec 21)
  /-- CALL: Relative call writing the return address into V63. (R341) -/
  | call (y : Bool) (g : Guard) (o : BitVec 21)
  /-- LD: Loads from global memory into vector registers. (R374) -/
  | ld (y : Bool) (g : Guard) (d : BitVec 6) (a : BitVec 6) (b : BitVec 5) (n : MemSize) (x : Bool)
  /-- ST: Stores vector registers to global memory. (R404) -/
  | st (y : Bool) (g : Guard) (d : BitVec 6) (a : BitVec 6) (b : BitVec 5) (n : MemSize)
  /-- ATOM: Atomic read-modify-write at the place of R118 with order and scope. (R328) -/
  | atom (y : Bool) (g : Guard) (d : BitVec 6) (a : BitVec 6) (o : AtomOp) (r : AtomOrd) (s : Scope) (z : Bool)
  /-- ATOMC: Atomic compare-and-swap, an acquire and on success a release. (R330) -/
  | atomc (y : Bool) (g : Guard) (d : BitVec 6) (a : BitVec 6) (n : BitVec 6) (s : Scope) (z : Bool)
  /-- LDA: Loads from the A-store window. (R374) -/
  | lda (y : Bool) (g : Guard) (d : BitVec 6) (a : BitVec 6) (b : BitVec 5) (n : MemSize) (x : Bool)
  /-- STA: Stores to the A-store window. (R404) -/
  | sta (y : Bool) (g : Guard) (d : BitVec 6) (a : BitVec 6) (b : BitVec 5) (n : MemSize)
  /-- LDC: Loads from the C-store. (R374) -/
  | ldc (y : Bool) (g : Guard) (d : BitVec 6) (a : BitVec 6) (b : BitVec 5) (n : MemSize) (x : Bool)
  /-- STC: Stores to the C-store. (R404) -/
  | stc (y : Bool) (g : Guard) (d : BitVec 6) (a : BitVec 6) (b : BitVec 5) (n : MemSize)
  /-- LDM: Loads 1-16 consecutive words per lane, register by register with recorded progress. (R378) -/
  | ldm (y : Bool) (g : Guard) (d : BitVec 6) (a : BitVec 6) (b : BitVec 5) (c : BitVec 4)
  /-- STM: Stores 1-16 consecutive registers per lane with recorded progress. (R406) -/
  | stm (y : Bool) (g : Guard) (d : BitVec 6) (a : BitVec 6) (b : BitVec 5) (c : BitVec 4)
  /-- SLD: Scalar load from global memory. (R400) -/
  | sld (y : Bool) (g : Guard) (d : BitVec 9) (b : BitVec 5) (i : BitVec 6) (z : Bool)
  /-- SST: Scalar store to global memory. (R400) -/
  | sst (y : Bool) (g : Guard) (d : BitVec 9) (b : BitVec 5) (i : BitVec 6) (z : Bool)
  /-- MMA: Posts one Yoke request per segment with A rows from registers. (R169) -/
  | mma (y : Bool) (g : Guard) (a : BitVec 6) (s : BitVec 5) (c : BitVec 6) (n : Bool) (k : Bool)
  /-- MMA_AS: Posts one Yoke request per segment with A rows from an A-store shape record. (R169) -/
  | mmaAs (y : Bool) (g : Guard) (a : BitVec 6) (s : BitVec 5) (c : BitVec 6) (n : Bool) (k : Bool)
  /-- LDSTN: Loads a stencil from the W-store into a slot's plane. (R163) -/
  | ldstn (y : Bool) (g : Guard) (s : BitVec 5) (p : BitVec 9)
  /-- WASH: Posts a filtered texture or hash-grid lookup per lane to a Wash engine. (R198) -/
  | wash (y : Bool) (g : Guard) (c : BitVec 6) (d : BitVec 6) (s : BitVec 9)
  /-- RAYSEND: Sends one ray message per active lane to the Courser of the root treelet. (R185) -/
  | raysend (y : Bool) (g : Guard) (a : BitVec 6) (s : BitVec 9) (o : Bool) (c : Bool) (f : Bool)
  /-- DRAY: Collective arrival at a Dray box copy, starting it at the last arrival. (R351) -/
  | dray (y : Bool) (d : BitVec 9) (e : BitVec 5) (c : BitVec 2) (p : Bool) (k : Bool)
  /-- GATH: Posts a Stipple gather of indexed elements into the A-store. (R361) -/
  | gath (y : Bool) (g : Guard) (d : BitVec 9) (c : Bool) (p : Bool)
  /-- HIMM: Hint supplying immediate bits to its consumer. (R303) -/
  | himm (i : BitVec 21)
  /-- HX: Hint carrying cache policy, read count, z, sat, had, sched and w modifiers. (R304) -/
  | hx (r : BitVec 4) (p : BitVec 3) (z : Bool) (s : Bool) (h : BitVec 2) (c : BitVec 4) (w : Bool)
  /-- HFWD: Hint forwarding slot s of item i - k as the consumer's b operand. (R362) -/
  | hfwd (k : BitVec 4) (s : BitVec 2)
  /-- NOP: Advances the PC; with Y parks until long results are written. (R384) -/
  | nop (y : Bool) (g : Guard)
  /-- EXIT: Retires the active lanes. (R352) -/
  | exit (y : Bool) (g : Guard)
  /-- RET: Indirect return to per-lane targets. (R391) -/
  | ret (y : Bool) (g : Guard) (a : BitVec 6)
  /-- BRX: Indirect branch in table or landing-pad mode. (R340) -/
  | brx (y : Bool) (g : Guard) (a : BitVec 6)
  /-- CALLX: Indirect call writing a link register. (R340) -/
  | callx (y : Bool) (g : Guard) (a : BitVec 6) (d : BitVec 6)
  /-- SETJ: Sets the split's join register. (R38) -/
  | setj (y : Bool) (o : BitVec 13)
  /-- REGANG: Parks the split at the fork's join until the fork is covered, then merges. (R36) -/
  | regang (y : Bool)
  /-- LPAD: Landing pad that executes as NOP. (R380) -/
  | lpad (y : Bool) (l : BitVec 12)
  /-- TRAP: Raises the breakpoint trap when any lane is active. (R410) -/
  | trap (y : Bool) (g : Guard) (c : BitVec 13)
  /-- TRAPRET: Restores the resume state and leaves trap state. (R410) -/
  | trapret (y : Bool) (m : RetMode)
  /-- SLEEP: Sleeps until a ring's WIDX is written, a timeout or a restore. (R156) -/
  | sleep (y : Bool) (g : Guard) (p : BitVec 6) (q : BitVec 6)
  /-- FENCE: Release and/or acquire fence at a scope. (R126) -/
  | fence (y : Bool) (q : BitVec 3) (s : Scope) (o : FenceOrd)
  /-- FENCER: Fence limited to an address range. (R126) -/
  | fencer (y : Bool) (p : BitVec 7) (s : Scope) (o : FenceOrd)
  /-- VFENCE: Releases master writes in a range and waits until its views are fresh. (R215) -/
  | vfence (y : Bool) (p : BitVec 6) (q : BitVec 3)
  /-- OPRDY: Parks until the group's register and A-store writes are performed, releasing them to the Yoke. (R175) -/
  | oprdy (y : Bool)
  /-- MWAIT: Parks until at most n requests of each segment are outstanding. (R176) -/
  | mwait (y : Bool) (n : BitVec 6)
  /-- BINIT: Initialises a byte barrier. (R136) -/
  | binit (y : Bool) (g : Guard) (p : BitVec 6) (s : Bool) (c : BitVec 6)
  /-- BEXP: Adds an expected byte count to a barrier. (R136) -/
  | bexp (y : Bool) (g : Guard) (p : BitVec 6) (s : Bool) (b : BitVec 5)
  /-- BARR: Posts one arrival to a byte barrier. (R136) -/
  | barr (y : Bool) (g : Guard) (p : BitVec 6) (s : Bool)
  /-- BWAIT: Waits while a barrier's phase equals ph. (R136) -/
  | bwait (y : Bool) (g : Guard) (p : BitVec 6) (s : Bool) (h : Bool)
  /-- BAR: Workgroup barrier arrival. (R331) -/
  | bar (y : Bool)
  /-- CAD: Cadence tree barrier arrival at team, die or device level. (R331) -/
  | cad (y : Bool) (l : CadLevel)
  /-- WAITPH: Waits until the group's phase counter reaches n. (R243) -/
  | waitph (y : Bool) (n : BitVec 10) (q : BitVec 3)
  /-- RDPTR: Reads a channel write pointer into a scalar pair. (R147) -/
  | rdptr (y : Bool) (g : Guard) (d : BitVec 6) (c : BitVec 3)
  /-- TPF: Starts Palette fills of the Vellum folios of a range. (R218) -/
  | tpf (y : Bool) (g : Guard) (n : BitVec 6)
  /-- TPF_BIND: Starts Palette fills counted at a byte barrier. (R218) -/
  | tpfBind (y : Bool) (g : Guard) (n : BitVec 6) (b : BitVec 5) (s : Bool)
  /-- INSTALL: Posts an install of DRAM folios into Vellum. (R220) -/
  | install (y : Bool) (g : Guard) (d : BitVec 6)
  /-- CKPT: Posts an incremental checkpoint to the Blotters. (R344) -/
  | ckpt (y : Bool) (g : Guard) (d : BitVec 6) (f : Bool)
  /-- CPOLL: Takes the next record of a completion ring if present. (R155) -/
  | cpoll (y : Bool) (g : Guard) (p : BitVec 6) (b : BitVec 3) (q : BitVec 3)
  /-- AMSG: Posts active messages to home op units. (R324) -/
  | amsg (y : Bool) (g : Guard) (a : BitVec 5) (o : AmsgOp) (s : AmsgSize)
  /-- PUB: Publishes a slot of each active lane's item. (R386) -/
  | pub (y : Bool) (g : Guard) (n : BitVec 6) (s : BitVec 2)
  /-- ITEM: Writes the lane's item index or chain status. (R371) -/
  | item (y : Bool) (g : Guard) (d : BitVec 6) (t : Bool)
  /-- CBACK: Posts an answer to a ray callback. (R193) -/
  | cback (y : Bool) (g : Guard) (b : BitVec 3) (c : CbackCode)
  /-- ASPUB: Publishes the next generation of an acceleration structure. (R196) -/
  | aspub (y : Bool) (g : Guard) (p : BitVec 6) (q : BitVec 3)
  /-- VQRY: Queries the state of a view block. (R215) -/
  | vqry (y : Bool) (g : Guard) (p : BitVec 6) (b : BitVec 3) (q : BitVec 3)
  /-- VQRY_ST: Reads and clears the group's VSTALE bit. (R215) -/
  | vqrySt (y : Bool) (g : Guard) (b : BitVec 3) (q : BitVec 3)
  /-- SETFMT: Writes the split's FMT register. (R396) -/
  | setfmt (y : Bool) (g : Guard) (a : BitVec 7)
  /-- SETSPARE: Writes the group's SPA register. (R396) -/
  | setspare (y : Bool) (g : Guard) (a : BitVec 7)
  /-- SETWB: Sets the group's window base from an immediate. (R396) -/
  | setwb (y : Bool) (g : Guard) (w : BitVec 5)
  /-- SETWB_REG: Sets the group's window base from a scalar register. (R396) -/
  | setwbReg (y : Bool) (g : Guard) (a : BitVec 7)
  /-- PLOP: Combines two predicates through a lookup table. (R385) -/
  | plop (y : Bool) (g : Guard) (d : BitVec 3) (a : BitVec 3) (b : BitVec 3) (l : BitVec 4)
  /-- SYSRD: Reads a system register. (R407) -/
  | sysrd (y : Bool) (g : Guard) (d : BitVec 7) (n : BitVec 6)
  /-- SYSWR: Writes a system register with its own effect. (R408) -/
  | syswr (y : Bool) (g : Guard) (d : BitVec 7) (n : BitVec 6)
  /-- LAUNCH: Appends a launch descriptor to a queue from device code. (R239) -/
  | launch (y : Bool) (g : Guard) (p : BitVec 6) (q : BitVec 3)
  /-- CLOCK: Reads the core cycle counter or device time. (R345) -/
  | clock (y : Bool) (g : Guard) (d : BitVec 6) (n : Bool)
  /-- AGE_LIMIT_REACHED: A ready split's ageing counter reaches AGE_LIMIT and it is taken first. (R42) -/
  | ageLimitReached (core : Nat)
  /-- LONG_RESULT_WRITTEN: An outstanding long result is written, releasing Y parks. (R300) -/
  | longResultWritten (grp sp k : Nat)
  /-- DEFERRED_PUBLICATION: An exited lane's unpublished slot is published once item i-1 publishes. (R48) -/
  | deferredPublication (k : Nat)
  /-- LATE_TRAP: A load's returning data reveals poison or a view condition and the holding split traps. (R375) -/
  | lateTrap (grp sp : Nat)
  /-- FAULT_RESOLVE_RETRY: FAULT_RESOLVE retry replays every waiter of the page. (R259) -/
  | faultResolveRetry (die : Nat) (v : DWord)
  /-- FAULT_RESOLVE_FAIL: FAULT_RESOLVE fail gives waiters the permission trap or an engine stop. (R259) -/
  | faultResolveFail (die : Nat) (v : DWord)
  /-- PIN_PROMOTION: An outside access reaching a pin is retried while the owner's dirty bytes are written home. (R122) -/
  | pinPromotion (atom : Nat)
  /-- READ_COUNT_EXPIRY: A read-count line's count reaches 0 and it is invalidated. (R102) -/
  | readCountExpiry (team line : Nat)
  /-- HARDWARE_PREFETCH: A stride or next-line prefetcher fetches a line. (R106) -/
  | hardwarePrefetch (core line : Nat) (toTeam : Bool)
  /-- AMSG_EXECUTE: The home op unit executes one arriving active message. (R324) -/
  | amsgExecute (k : Nat)
  /-- VELLUM_FOLIO_FILL: A Vellum folio fill into the Palette completes. (R110) -/
  | vellumFolioFill (folio : Nat) (failed : Bool)
  /-- BARRIER_UPDATE: An update reaches a byte barrier's place and is applied indivisibly. (R134) -/
  | barrierUpdate (k : Nat)
  /-- DRAY_CHUNK_DELIVERY: A channel writes a chunk, decrements the barrier and moves its pointer. (R142) -/
  | drayChunkDelivery (core ch : Nat)
  /-- PEER_CHUNK_ACK: A peer acknowledges a chunk, which then counts as written. (R144) -/
  | peerChunkAck (k : Nat)
  /-- STIPPLE_ELEMENT_DELIVERY: A Stipple channel delivers one gathered element. (R146) -/
  | stippleElementDelivery (core ch : Nat)
  /-- DECOMPRESS_BLOCK: A decompressing copy decodes and delivers one block. (R148) -/
  | decompressBlock (core ch : Nat)
  /-- RING_RECORD_WRITE: A producer takes a ring index and writes its record once there is room. (R152) -/
  | ringRecordWrite (k : Nat)
  /-- SLEEP_TIMEOUT: A SLEEP's timeout expires. (R156) -/
  | sleepTimeout (grp sp : Nat)
  /-- FENCE_COMPLETION: A fence's release and acquire actions finish and held accesses proceed. (R126) -/
  | fenceCompletion (k : Nat)
  /-- LINK_RETRAIN_LIMIT_EXPIRY: The link-retrain limit passes while a peer link retrains. (R287) -/
  | linkRetrainLimitExpiry (port : Nat)
  /-- YOKE_GRANT: The arbiter grants up to two candidates to free panes. (R174) -/
  | yokeGrant (team : Nat)
  /-- YOKE_PASS_COMPLETE: A granted pass ends and writes its accumulator tile. (R169) -/
  | yokePassComplete (team k : Nat)
  /-- STENCIL_PLANE_WRITTEN: A granted LDSTN finishes writing its plane. (R163) -/
  | stencilPlaneWritten (team k : Nat)
  /-- RAY_MESSAGE_ARRIVAL: A ray message arrives at a Courser and joins a paddock, spill chain or waiting chain. (R190) -/
  | rayMessageArrival (k : Nat)
  /-- COURSER_ROUND: A Courser selects a paddock and traverses its in-core messages. (R191) -/
  | courserRound (stack : Nat)
  /-- CALLBACK_ANSWER_ARRIVAL: A CBACK answer reaches the Courser and is applied to the waiting ray. (R193) -/
  | callbackAnswerArrival (k : Nat)
  /-- INFLIGHT_SUBTRACTION: An op-unit subtraction of INFLIGHT arrives at the descriptor's home. (R197) -/
  | inflightSubtraction (k : Nat)
  /-- WASH_REQUEST: A Wash engine serves one lane's texture or grid request. (R200) -/
  | washRequest (k : Nat)
  /-- ENG_JOB_RESUME: ENG_JOB OP 1 resumes a stopped engine job at its step. (R204) -/
  | engJobResume (stack : Nat) (v : DWord)
  /-- ENG_JOB_ABORT: ENG_JOB OP 2 aborts a stopped engine job. (R204) -/
  | engJobAbort (stack : Nat) (v : DWord)
  /-- SETTLE_INTERVAL_EXPIRY: A dirty master block has received no mark for the settle interval. (R210) -/
  | settleIntervalExpiry (block : Nat)
  /-- VIEW_BLOCK_RECOMPUTE: A view block's elements, scales and tag are written. (R210) -/
  | viewBlockRecompute (k : Nat)
  /-- INSTALL_FOLIO: One folio of an install is programmed and switched. (R220) -/
  | installFolio (stack : Nat) (fail1 fail2 : Bool)
  /-- CHECKPOINT_BLOCK: A Blotter reads and hashes a block and streams it if changed. (R222) -/
  | checkpointBlock (stack : Nat)
  /-- CHECKPOINT_ENTRY_ACK: A stream entry is acknowledged and the new hash written to HTAB. (R222) -/
  | checkpointEntryAck (k : Nat)
  /-- REG_REGION: Registers a region control block, resolving inheritance. (R225) -/
  | regRegion (die : Nat) (v : DWord)
  /-- QUEUE_HDR: Registers a launch queue under QUEUE_ASID. (R228) -/
  | queueHdr (die : Nat) (v : DWord)
  /-- DOORBELL: Writes a queue's new TAIL, releasing the host's earlier writes. (R228) -/
  | doorbell (q : Nat) (v : DWord)
  /-- DISPATCH_ROUND: The dispatchers serve restores and ready queues in one round. (R235) -/
  | dispatchRound
  /-- FIT_WAIT_EXPIRY: A fit wait reaches 4,096 cycles and a span is drained for it. (R237) -/
  | fitWaitExpiry (q : Nat)
  /-- WAITPH_RELEASE: A group's phase counter reaches n and the WAITPH split is picked first. (R243) -/
  | waitphRelease (grp sp : Nat)
  /-- PREEMPT: A PREEMPT request record stops the named workgroups and drains them. (R261) -/
  | preempt (die : Nat) (v : DWord)
  /-- PREEMPTION_DEADLINE: The deadline passes and outstanding engine work is aborted for re-issue. (R261) -/
  | preemptionDeadline (k : Nat)
  /-- PREEMPT_SAVE_WRITE: After the drain, pins are promoted, the save area written and resources released. (R264) -/
  | preemptSaveWrite (k : Nat)
  /-- RESTORE: A RESTORE request record is checked and left pending for placement. (R265) -/
  | restore (die : Nat) (v : DWord)
  /-- PREEMPT_STATUS_READ: Reading PREEMPT_STATUS returns and removes the oldest result. (R281) -/
  | preemptStatusRead (die : Nat)
  /-- PARTITION: Writes the per-class core reservations, discarding sums above 96. (R282) -/
  | partition (die : Nat) (v : DWord)
  /-- INVAL: Starts invalidation of translations in every TLB and MMU. (R255) -/
  | inval (die : Nat) (v : DWord)
  /-- INVALIDATION_COMPLETE: Every structure has dropped the entries and INVAL reads 0. (R255) -/
  | invalidationComplete (die : Nat)
  /-- DRAM_RETRAIN: A DRAM data-rate change retrains a stack, waiting for a save or its deadline. (R267) -/
  | dramRetrain (stack : Nat)
  /-- ROW_PRECHARGE: A precharge updates the row's activation count. (R271) -/
  | rowPrecharge (stack bank row : Nat)
  /-- BACKOFF_COMPLETE: Refresh-management ends, the count is cleared and held requests released. (R272) -/
  | backoffComplete (stack bank : Nat)
  /-- REFRESH_DUE: A refresh falls due and is issued or postponed. (R273) -/
  | refreshDue (stack bank : Nat)
  /-- SCRUB_PASS_START: A patrol pass starts every PERIOD hours and clears the scrubbed bits. (R274) -/
  | scrubPassStart (stack : Nat)
  /-- SCRUB_ROW_READ: The patrol reads and corrects one row. (R274) -/
  | scrubRowRead (stack : Nat)
  /-- ECC_STATUS_READ: Reading ECC_STATUS returns and clears its counters. (R270) -/
  | eccStatusRead (stack : Nat)
  /-- DRAM_EVENTS_READ: Reading DRAM_EVENTS returns and clears its counters. (R272) -/
  | dramEventsRead (stack : Nat)
  /-- MIGRATION_START: MIG_CTL OP 1 starts migrating a page. (R277) -/
  | migrationStart (stack : Nat) (v : DWord)
  /-- MIGRATION_PASS: A copy pass ends and the next pass, final pass or CONTENDED follows. (R277) -/
  | migrationPass (stack : Nat)
  /-- MIGRATION_END_FORWARDING: MIG_CTL OP 2 writes back dirty bytes and ends forwarding. (R278) The write whose SIZE is the one the
  register holds; one of another SIZE is a registerWrite of MIG_CTL. -/
  | migrationEndForwarding (stack : Nat)
  /-- ASID_BIND: ASID_BIND OP 1 binds an address space to its root table. (R430) -/
  | asidBind (die : Nat) (isSealed : Bool) (v : DWord)
  /-- ASID_UNBIND: ASID_BIND OP 2 unbinds an address space. (R430) -/
  | asidUnbind (die : Nat) (isSealed : Bool) (v : DWord)
  /-- BIAS_TO_HOST: BIAS_CTL OP 1 flips pages to host bias. (R284) -/
  | biasToHost (stack : Nat) (v : DWord)
  /-- BIAS_TO_DEVICE: BIAS_CTL OP 2 flips pages to device bias. (R284) -/
  | biasToDevice (stack : Nat) (v : DWord)
  /-- BIAS_FLIP_COMPLETE: A bias flip completes once the host has given back every line. (R284) -/
  | biasFlipComplete (stack : Nat)
  /-- HOST_CXL_MEM_ACCESS: A host CXL.mem access to device DRAM is served under the page's bias. (R284) -/
  | hostCxlMemAccess (write : Bool) (addr : Nat) (data : List Byte)
  /-- HOST_SNOOP: A host snoop reaches die 0's CXL.cache agent. (R285) -/
  | hostSnoop (addr : Nat)
  /-- PEER_REQUEST: A peer's load, store or atomic arrives over UALink. (R286) -/
  | peerRequest (peer : Nat) (kind : PeerKind) (addr : Nat) (data : List Byte)
  /-- LINK_DOWN: A UALink port goes down. (R286) -/
  | linkDown (port : Nat)
  /-- LINK_UP: A UALink port trains and comes up. (R287) -/
  | linkUp (port : Nat)
  /-- DEVICE_START: A start runs the six stages in order. (R292) -/
  | deviceStart (passed reason unit : Nat)
  /-- WARM_RESET: A warm reset keeps the Colophon and restarts the device. (R294) -/
  | warmReset
  /-- FULL_RETRY: Clears the failed-start count and makes a full start. (R293) -/
  | fullRetry (passed reason unit : Nat)
  /-- SPDM_SESSION_OPEN: The host opens the single SPDM secure session. (R291) -/
  | spdmSessionOpen
  /-- SPDM_ATTESTATION: Reports measurements over the DOE mailbox. (R290) -/
  | spdmAttestation
  /-- COLOPHON_READOUT: The Gremund controller delivers Colophon records. (R294) -/
  | colophonReadout (die : Nat)
  /-- POWER_TELEMETRY: Reports power telemetry over MCTP. (R290) -/
  | powerTelemetry
  /-- POWER_WINDOW: A 1 ms power window ends and the clock is lowered or raised. (R296) -/
  | powerWindow (watts : Nat)
  /-- REGISTER_WRITE: A management write to a register that has no row of its own. (R279) -/
  | registerWrite (offset : Nat) (viaSession : Bool) (v : DWord)
  /-- SPDM_SESSION_CLOSE: The host's SPDM secure session ends, and sealed-register access ends with it. (R291) -/
  | spdmSessionClose
  /-- REGION_TEARDOWN: System software tears down or removes a region, and its installs and checkpoints end with STATUS ABORTED. (R220) -/
  | regionTeardown (addr : Nat)
  /-- ERASE_AND_RETIRE_UNIT: A Vellum stack erases or retires a 32 MiB erase unit by itself, changing its count of free places. (R220) -/
  | eraseAndRetireUnit (stack freed retired : Nat)
  /-- SEALED_PHYSICAL_RANGES_SET: The Gremund controller sets the sealed physical ranges of device DRAM. (R288) -/
  | sealedPhysicalRangesSet (ranges : List (Nat × Nat))
  deriving DecidableEq, Repr

end Sys2Proof
end

