-- ==== Sys2Proof/WellFormed.lean ====
section
/-! DEFINITION. WellFormed.lean: the checks an instruction's own word must pass (R311). A word that fails one raises
the illegal-instruction trap, or the illegal-hint trap for a hint; what depends on the machine's state is checked
by the instruction's meaning instead. -/

namespace Sys2Proof

/-- A field that names a pair by its even register (R55). -/
def even {n : Nat} (r : BitVec n) : Bool := !r.getLsbD 0

/-- Operand b names a vector register. -/
def Src.isV : Src → Bool
  | .v _ => true
  | .s _ => false

/-- G = 0b1000 is reserved in every class (R299). -/
def Guard.ok (g : Guard) : Bool := !(g.neg && g.idx == 0)

/-- The op and size pairs of AMSG (R323). -/
def amsgSizeOk : AmsgOp → AmsgSize → Bool
  | .st, _ => true
  | .fadd, z => z == .b32
  | _, z => z == .b32 || z == .b64

/-- The system registers: number, width 64, read only (R63). -/
def SysReg.table : List (Nat × Bool × Bool) :=
  [(0x00, false, true), (0x01, false, true), (0x02, false, true), (0x03, false, true), (0x04, false, true),
   (0x05, false, true), (0x06, false, true), (0x10, true, false), (0x11, false, true), (0x12, true, true),
   (0x13, true, true), (0x14, true, true), (0x15, true, true), (0x16, false, true), (0x17, true, true),
   (0x20, false, false), (0x21, false, false), (0x22, false, false)]

/-- n is an assigned register number (R62). -/
def SysReg.known (n : BitVec 6) : Bool := SysReg.table.any (fun r => r.1 == n.toNat)
/-- Register n is 64 bits wide (R63). -/
def SysReg.wide (n : BitVec 6) : Bool := SysReg.table.any (fun r => r.1 == n.toNat && r.2.1)
/-- Register n is marked RO (R63). -/
def SysReg.readOnly (n : BitVec 6) : Bool := SysReg.table.any (fun r => r.1 == n.toNat && r.2.2)

/-- The guard an instruction carries; the fixed class, the hints and the steps without a word carry none. -/
def Instr.guard? : Instr → Option Guard
  | .iadd _ g _ _ _ => some g
  | .isub _ g _ _ _ => some g
  | .imin _ g _ _ _ => some g
  | .imax _ g _ _ _ => some g
  | .imul _ g _ _ _ => some g
  | .imulh _ g _ _ _ => some g
  | .imad _ g _ _ _ => some g
  | .idot4 _ g _ _ _ => some g
  | .and _ g _ _ _ => some g
  | .or _ g _ _ _ => some g
  | .xor _ g _ _ _ => some g
  | .andn _ g _ _ _ => some g
  | .shl _ g _ _ _ => some g
  | .shr _ g _ _ _ => some g
  | .sar _ g _ _ _ => some g
  | .rotl _ g _ _ _ => some g
  | .popc _ g _ _ => some g
  | .clz _ g _ _ => some g
  | .brev _ g _ _ => some g
  | .iabs _ g _ _ => some g
  | .bfx _ g _ _ _ => some g
  | .bfi _ g _ _ _ => some g
  | .prmt _ g _ _ _ => some g
  | .mov _ g _ _ => some g
  | .isetp _ g _ _ _ _ _ => some g
  | .sel _ g _ _ _ _ => some g
  | .iaddi _ g _ _ _ => some g
  | .movi _ g _ _ => some g
  | .fadd _ g _ _ _ => some g
  | .fmul _ g _ _ _ => some g
  | .fmin _ g _ _ _ => some g
  | .fmax _ g _ _ _ => some g
  | .ffma _ g _ _ _ => some g
  | .ffnma _ g _ _ _ => some g
  | .ffms _ g _ _ _ => some g
  | .fsetp _ g _ _ _ _ _ => some g
  | .sfu _ g _ _ _ => some g
  | .hfma2 _ g _ _ _ => some g
  | .bfma2 _ g _ _ _ => some g
  | .hadd2 _ g _ _ _ => some g
  | .hmul2 _ g _ _ _ => some g
  | .cvt _ g _ _ _ _ _ => some g
  | .frnd _ g _ _ _ => some g
  | .qnt _ g _ _ _ => some g
  | .dqn _ g _ _ _ => some g
  | .had _ g _ _ => some g
  | .shfl _ g _ _ _ _ => some g
  | .vote _ g _ _ _ _ => some g
  | .redux _ g _ _ _ _ => some g
  | .v2s _ g _ _ _ => some g
  | .vmovx _ g _ _ _ => some g
  | .vmovxToX _ g _ _ _ => some g
  | .vmovxFromX _ g _ _ => some g
  | .vstx _ g _ _ _ => some g
  | .vstxAdd _ g _ _ => some g
  | .sadd _ g _ _ _ => some g
  | .ssub _ g _ _ _ => some g
  | .smul _ g _ _ _ => some g
  | .sand _ g _ _ _ => some g
  | .sor _ g _ _ _ => some g
  | .sxor _ g _ _ _ => some g
  | .sshl _ g _ _ _ => some g
  | .sshr _ g _ _ _ => some g
  | .ssetp _ g _ _ _ _ => some g
  | .smov _ g _ _ => some g
  | .smovB64 _ g _ _ => some g
  | .saddi _ g _ _ => some g
  | .bra _ g _ => some g
  | .call _ g _ => some g
  | .ld _ g _ _ _ _ _ => some g
  | .st _ g _ _ _ _ => some g
  | .atom _ g _ _ _ _ _ _ => some g
  | .atomc _ g _ _ _ _ _ => some g
  | .lda _ g _ _ _ _ _ => some g
  | .sta _ g _ _ _ _ => some g
  | .ldc _ g _ _ _ _ _ => some g
  | .stc _ g _ _ _ _ => some g
  | .ldm _ g _ _ _ _ => some g
  | .stm _ g _ _ _ _ => some g
  | .sld _ g _ _ _ _ => some g
  | .sst _ g _ _ _ _ => some g
  | .mma _ g _ _ _ _ _ => some g
  | .mmaAs _ g _ _ _ _ _ => some g
  | .ldstn _ g _ _ => some g
  | .wash _ g _ _ _ => some g
  | .raysend _ g _ _ _ _ _ => some g
  | .gath _ g _ _ _ => some g
  | .nop _ g => some g
  | .exit _ g => some g
  | .ret _ g _ => some g
  | .brx _ g _ => some g
  | .callx _ g _ _ => some g
  | .trap _ g _ => some g
  | .sleep _ g _ _ => some g
  | .binit _ g _ _ _ => some g
  | .bexp _ g _ _ _ => some g
  | .barr _ g _ _ => some g
  | .bwait _ g _ _ _ => some g
  | .rdptr _ g _ _ => some g
  | .tpf _ g _ => some g
  | .tpfBind _ g _ _ _ => some g
  | .install _ g _ => some g
  | .ckpt _ g _ _ => some g
  | .cpoll _ g _ _ _ => some g
  | .amsg _ g _ _ _ => some g
  | .pub _ g _ _ => some g
  | .item _ g _ _ => some g
  | .cback _ g _ _ => some g
  | .aspub _ g _ _ => some g
  | .vqry _ g _ _ _ => some g
  | .vqrySt _ g _ _ => some g
  | .setfmt _ g _ => some g
  | .setspare _ g _ => some g
  | .setwb _ g _ => some g
  | .setwbReg _ g _ => some g
  | .plop _ g _ _ _ _ => some g
  | .sysrd _ g _ _ => some g
  | .syswr _ g _ _ => some g
  | .launch _ g _ _ => some g
  | .clock _ g _ _ => some g
  | _ => none

/-- The operand checks of each row, the guard apart: an odd number where a pair is named, a reserved pairing of coded
fields, a register the entry does not admit. -/
def Instr.operandsOk : Instr → Bool
  | .qnt _ _ _ _ b => b.isV
  | .dqn _ _ _ _ b => b.isV
  | .smovB64 _ _ d a => even d && even a
  | .ld _ _ _ _ _ n x => (!x || n == .b8 || n == .b16)
  | .atom _ _ d a o r _ z => even a && (!z || even d) && !(r == .acq && o == .st) && !(r == .rel && o == .ld)
  | .atomc _ _ d a n _ z => even a && (!z || (even d && even n))
  | .lda _ _ _ _ _ n x => (!x || n == .b8 || n == .b16)
  | .ldc _ _ _ _ _ n x => (!x || n == .b8 || n == .b16)
  | .sld _ _ d _ _ z => (!z || even d)
  | .sst _ _ d _ _ z => (!z || even d)
  | .mmaAs _ _ a _ _ _ _ => even a
  | .ldstn _ _ _ p => even p
  | .wash _ _ _ _ s => even s
  | .raysend _ _ _ s _ _ _ => even s
  | .dray _ d e _ _ _ => even d && even e
  | .gath _ _ d _ _ => even d
  | .hx _ p _ _ _ _ _ => p.toNat < 5
  | .fence _ q s _ => (s == .sys || q == 0)
  | .fencer _ p s _ => even p && s != .sys
  | .rdptr _ _ _ c => c.toNat < 6
  | .amsg _ _ _ o s => amsgSizeOk o s
  | .sysrd _ _ d n => SysReg.known n && (!SysReg.wide n || even d)
  | .syswr _ _ d n => SysReg.known n && !SysReg.readOnly n && (!SysReg.wide n || even d)
  | _ => true

/-- A well-formed instruction (R299, R311). -/
def Instr.wf (i : Instr) : Bool := (i.guard?.all Guard.ok) && i.operandsOk

end Sys2Proof
end

