-- ==== Sys2Proof/Decode.lean ====
section
/-! DEFINITION. Decode.lean: from words to instructions and back (R297 to R310). The decoder is total: a word that
is not an instruction is refused by name. The encoder is written from the same tables. -/

namespace Sys2Proof

/-- Why a word, or a list of bytes, is no instruction (R311). -/
inductive DecodeError where
  /-- OP in 0x37 to 0x3B (R307). -/
  | reservedOpcode
  /-- A reserved minor of a major opcode (R307). -/
  | reservedMinor
  /-- A reserved xop of the extended space (R310). -/
  | reservedXop
  /-- A coded field holds a reserved value (R302 and each entry). -/
  | reservedField
  /-- A must-be-zero field is not zero. -/
  | mustBeZero
  /-- A guard on a fixed-class word, or G = 0b1000 (R299). -/
  | badGuard
  /-- A register number or a pairing of fields that the entry refuses. -/
  | badOperand
  /-- A hint with Y = 1, with a guard, with a non-zero must-be-zero field or a reserved policy (R101, R306). -/
  | badHint
  /-- Fewer than four bytes. -/
  | truncated
  deriving DecidableEq, Repr

/-- Answer of the decoder. -/
abbrev Decoded := Except DecodeError Instr

/-- A coded field's value, or the refusal of a reserved code. -/
def need {α : Type} : Option α → Except DecodeError α
  | some x => .ok x
  | none => .error .reservedField

/-- Go on when a check holds, else refuse with the name given. -/
def check (c : Bool) (e : DecodeError) (k : Decoded) : Decoded := if c then k else .error e

namespace Guard
/-- The four bits of the guard field (R299). -/
def code (g : Guard) : BitVec 4 := BitVec.ofBool g.neg ++ g.idx
/-- The guard of four bits. -/
def ofCode (c : BitVec 4) : Guard := ⟨bit c 3, fld c 0 3⟩
end Guard

namespace Src
/-- The seven bits of operand b (R301). -/
def code : Src → BitVec 7
  | .v n => 0#1 ++ n
  | .s n => 1#1 ++ n
/-- The operand of seven bits. -/
def ofCode (c : BitVec 7) : Src := if bit c 6 then .s (fld c 0 6) else .v (fld c 0 6)
end Src

/-- Code of a Comb value. -/
def Comb.code : Comb → BitVec 2
  | .set => 0#2
  | .and => 1#2
  | .or => 2#2
  | .xor => 3#2
/-- Comb value of a code, none for a reserved one. -/
def Comb.ofCode (c : BitVec 2) : Option Comb :=
  ([.set, .and, .or, .xor] : List Comb)[c.toNat]?

/-- Code of a ICond value. -/
def ICond.code : ICond → BitVec 3
  | .eq => 0#3
  | .ne => 1#3
  | .lt => 2#3
  | .le => 3#3
  | .gt => 4#3
  | .ge => 5#3
  | .lo => 6#3
  | .hs => 7#3
/-- ICond value of a code, none for a reserved one. -/
def ICond.ofCode (c : BitVec 3) : Option ICond :=
  ([.eq, .ne, .lt, .le, .gt, .ge, .lo, .hs] : List ICond)[c.toNat]?

/-- Code of a FCond value. -/
def FCond.code : FCond → BitVec 3
  | .eq => 0#3
  | .ne => 1#3
  | .lt => 2#3
  | .le => 3#3
  | .gt => 4#3
  | .ge => 5#3
  | .num => 6#3
  | .nan => 7#3
/-- FCond value of a code, none for a reserved one. -/
def FCond.ofCode (c : BitVec 3) : Option FCond :=
  ([.eq, .ne, .lt, .le, .gt, .ge, .num, .nan] : List FCond)[c.toNat]?

/-- Code of a SfuFn value. -/
def SfuFn.code : SfuFn → BitVec 7
  | .rcp => 0#7
  | .rsq => 1#7
  | .sqrt => 2#7
  | .ex2 => 3#7
  | .lg2 => 4#7
  | .sin => 5#7
  | .cos => 6#7
/-- SfuFn value of a code, none for a reserved one. -/
def SfuFn.ofCode (c : BitVec 7) : Option SfuFn :=
  ([.rcp, .rsq, .sqrt, .ex2, .lg2, .sin, .cos] : List SfuFn)[c.toNat]?

/-- Code of a Rnd value. -/
def Rnd.code : Rnd → BitVec 2
  | .rn => 0#2
  | .rz => 1#2
  | .rd => 2#2
  | .ru => 3#2
/-- Rnd value of a code, none for a reserved one. -/
def Rnd.ofCode (c : BitVec 2) : Option Rnd :=
  ([.rn, .rz, .rd, .ru] : List Rnd)[c.toNat]?

/-- Code of a CvtSrc value. -/
def CvtSrc.code : CvtSrc → BitVec 4
  | .f32 => 0#4
  | .f16 => 1#4
  | .bf16 => 2#4
  | .e4m3 => 3#4
  | .e5m2 => 4#4
  | .tp8 => 5#4
  | .e2m3 => 6#4
  | .e3m2 => 7#4
  | .e2m1 => 8#4
  | .s8 => 9#4
  | .s32 => 10#4
  | .u32 => 11#4
/-- CvtSrc value of a code, none for a reserved one. -/
def CvtSrc.ofCode (c : BitVec 4) : Option CvtSrc :=
  ([.f32, .f16, .bf16, .e4m3, .e5m2, .tp8, .e2m3, .e3m2, .e2m1, .s8, .s32, .u32] : List CvtSrc)[c.toNat]?

/-- Code of a CvtDst value. -/
def CvtDst.code : CvtDst → BitVec 3
  | .f32 => 0#3
  | .f16 => 1#3
  | .bf16 => 2#3
  | .e4m3 => 3#3
  | .e5m2 => 4#3
  | .tp8 => 5#3
  | .s32 => 6#3
  | .u32 => 7#3
/-- CvtDst value of a code, none for a reserved one. -/
def CvtDst.ofCode (c : BitVec 3) : Option CvtDst :=
  ([.f32, .f16, .bf16, .e4m3, .e5m2, .tp8, .s32, .u32] : List CvtDst)[c.toNat]?

/-- Code of a ShflMode value. -/
def ShflMode.code : ShflMode → BitVec 2
  | .idx => 0#2
  | .up => 1#2
  | .down => 2#2
  | .xor => 3#2
/-- ShflMode value of a code, none for a reserved one. -/
def ShflMode.ofCode (c : BitVec 2) : Option ShflMode :=
  ([.idx, .up, .down, .xor] : List ShflMode)[c.toNat]?

/-- Code of a VoteMode value. -/
def VoteMode.code : VoteMode → BitVec 2
  | .ballot => 0#2
  | .any => 1#2
  | .all => 2#2
  | .eq => 3#2
/-- VoteMode value of a code, none for a reserved one. -/
def VoteMode.ofCode (c : BitVec 2) : Option VoteMode :=
  ([.ballot, .any, .all, .eq] : List VoteMode)[c.toNat]?

/-- Code of a ReduxOp value. -/
def ReduxOp.code : ReduxOp → BitVec 2
  | .add => 0#2
  | .min => 1#2
  | .max => 2#2
  | .or => 3#2
/-- ReduxOp value of a code, none for a reserved one. -/
def ReduxOp.ofCode (c : BitVec 2) : Option ReduxOp :=
  ([.add, .min, .max, .or] : List ReduxOp)[c.toNat]?

/-- Code of a MemSize value. -/
def MemSize.code : MemSize → BitVec 3
  | .b8 => 0#3
  | .b16 => 1#3
  | .b32 => 2#3
  | .b64 => 3#3
  | .b128 => 4#3
/-- MemSize value of a code, none for a reserved one. -/
def MemSize.ofCode (c : BitVec 3) : Option MemSize :=
  ([.b8, .b16, .b32, .b64, .b128] : List MemSize)[c.toNat]?

/-- Code of a AtomOp value. -/
def AtomOp.code : AtomOp → BitVec 4
  | .add => 0#4
  | .min => 1#4
  | .max => 2#4
  | .and => 3#4
  | .or => 4#4
  | .xor => 5#4
  | .exch => 6#4
  | .ld => 7#4
  | .st => 8#4
/-- AtomOp value of a code, none for a reserved one. -/
def AtomOp.ofCode (c : BitVec 4) : Option AtomOp :=
  ([.add, .min, .max, .and, .or, .xor, .exch, .ld, .st] : List AtomOp)[c.toNat]?

/-- Code of a AtomOrd value. -/
def AtomOrd.code : AtomOrd → BitVec 2
  | .rlx => 0#2
  | .acq => 1#2
  | .rel => 2#2
  | .ar => 3#2
/-- AtomOrd value of a code, none for a reserved one. -/
def AtomOrd.ofCode (c : BitVec 2) : Option AtomOrd :=
  ([.rlx, .acq, .rel, .ar] : List AtomOrd)[c.toNat]?

/-- Code of a Scope value. -/
def Scope.code : Scope → BitVec 2
  | .core => 0#2
  | .team => 1#2
  | .dev => 2#2
  | .sys => 3#2
/-- Scope value of a code, none for a reserved one. -/
def Scope.ofCode (c : BitVec 2) : Option Scope :=
  ([.core, .team, .dev, .sys] : List Scope)[c.toNat]?

/-- Code of a AmsgOp value. -/
def AmsgOp.code : AmsgOp → BitVec 4
  | .add => 0#4
  | .min => 1#4
  | .max => 2#4
  | .and => 3#4
  | .or => 4#4
  | .xor => 5#4
  | .st => 6#4
  | .fadd => 7#4
/-- AmsgOp value of a code, none for a reserved one. -/
def AmsgOp.ofCode (c : BitVec 4) : Option AmsgOp :=
  ([.add, .min, .max, .and, .or, .xor, .st, .fadd] : List AmsgOp)[c.toNat]?

/-- Code of a AmsgSize value. -/
def AmsgSize.code : AmsgSize → BitVec 2
  | .b8 => 0#2
  | .b16 => 1#2
  | .b32 => 2#2
  | .b64 => 3#2
/-- AmsgSize value of a code, none for a reserved one. -/
def AmsgSize.ofCode (c : BitVec 2) : Option AmsgSize :=
  ([.b8, .b16, .b32, .b64] : List AmsgSize)[c.toNat]?

/-- Code of a CadLevel value. -/
def CadLevel.code : CadLevel → BitVec 2
  | .team => 0#2
  | .die => 1#2
  | .device => 2#2
/-- CadLevel value of a code, none for a reserved one. -/
def CadLevel.ofCode (c : BitVec 2) : Option CadLevel :=
  ([.team, .die, .device] : List CadLevel)[c.toNat]?

/-- Code of a CbackCode value. -/
def CbackCode.code : CbackCode → BitVec 3
  | .accept => 0#3
  | .ignore => 1#3
  | .terminate => 2#3
/-- CbackCode value of a code, none for a reserved one. -/
def CbackCode.ofCode (c : BitVec 3) : Option CbackCode :=
  ([.accept, .ignore, .terminate] : List CbackCode)[c.toNat]?

/-- Code of a RetMode value. -/
def RetMode.code : RetMode → BitVec 2
  | .again => 0#2
  | .after => 1#2
/-- RetMode value of a code, none for a reserved one. -/
def RetMode.ofCode (c : BitVec 2) : Option RetMode :=
  ([.again, .after] : List RetMode)[c.toNat]?

/-- Code of a XReg value. -/
def XReg.code : XReg → BitVec 2
  | .x1 => 1#2
  | .x2 => 2#2
  | .x3 => 3#2
/-- XReg value of a code, none for the reserved 0. -/
def XReg.ofCode (c : BitVec 2) : Option XReg :=
  ([none, some .x1, some .x2, some .x3] : List (Option XReg)).getD c.toNat none

/-- Code of a FenceOrd value. -/
def FenceOrd.code : FenceOrd → BitVec 2
  | .acq => 1#2
  | .rel => 2#2
  | .ar => 3#2
/-- FenceOrd value of a code, none for the reserved 0. -/
def FenceOrd.ofCode (c : BitVec 2) : Option FenceOrd :=
  ([none, some .acq, some .rel, some .ar] : List (Option FenceOrd)).getD c.toNat none

/-- The fields every word shares (R297): Y, G, OP and the body. -/
def word (y : Bool) (g : BitVec 4) (op : BitVec 6) (body : BitVec 21) : Word := BitVec.ofBool y ++ g ++ op ++ body

/-- An XS word (R301): xop, then the thirteen bits of p and q. -/
def xsWord (y : Bool) (g : BitVec 4) (xop : BitVec 8) (pq : BitVec 13) : Word := word y g 0x3F#6 (xop ++ pq)

/-- Y of a word. -/
def wY (w : Word) : Bool := bit w 31
/-- Guard of a word. -/
def wG (w : Word) : Guard := Guard.ofCode (fld w 27 4)
/-- The guard field is 0b0000, as the fixed class and the hints need. -/
def noG (w : Word) : Bool := fld w 27 4 == 0#4

/-- Major opcode 0x00 (R307): IADD, ISUB, IMIN, IMAX. -/
def dec00 (w : Word) : Decoded :=
  if fld w 0 2 == 0#2 then
    .ok (.iadd (wY w) (wG w) (fld w 15 6) (fld w 9 6) (Src.ofCode (fld w 2 7)))
  else if fld w 0 2 == 1#2 then
    .ok (.isub (wY w) (wG w) (fld w 15 6) (fld w 9 6) (Src.ofCode (fld w 2 7)))
  else if fld w 0 2 == 2#2 then
    .ok (.imin (wY w) (wG w) (fld w 15 6) (fld w 9 6) (Src.ofCode (fld w 2 7)))
  else if fld w 0 2 == 3#2 then
    .ok (.imax (wY w) (wG w) (fld w 15 6) (fld w 9 6) (Src.ofCode (fld w 2 7)))
  else .error .reservedMinor

/-- Major opcode 0x01 (R307): IMUL, IMULH, IMAD, IDOT4. -/
def dec01 (w : Word) : Decoded :=
  if fld w 0 2 == 0#2 then
    .ok (.imul (wY w) (wG w) (fld w 15 6) (fld w 9 6) (Src.ofCode (fld w 2 7)))
  else if fld w 0 2 == 1#2 then
    .ok (.imulh (wY w) (wG w) (fld w 15 6) (fld w 9 6) (Src.ofCode (fld w 2 7)))
  else if fld w 0 2 == 2#2 then
    .ok (.imad (wY w) (wG w) (fld w 15 6) (fld w 9 6) (Src.ofCode (fld w 2 7)))
  else if fld w 0 2 == 3#2 then
    .ok (.idot4 (wY w) (wG w) (fld w 15 6) (fld w 9 6) (Src.ofCode (fld w 2 7)))
  else .error .reservedMinor

/-- Major opcode 0x02 (R307): AND, OR, XOR, ANDN. -/
def dec02 (w : Word) : Decoded :=
  if fld w 0 2 == 0#2 then
    .ok (.and (wY w) (wG w) (fld w 15 6) (fld w 9 6) (Src.ofCode (fld w 2 7)))
  else if fld w 0 2 == 1#2 then
    .ok (.or (wY w) (wG w) (fld w 15 6) (fld w 9 6) (Src.ofCode (fld w 2 7)))
  else if fld w 0 2 == 2#2 then
    .ok (.xor (wY w) (wG w) (fld w 15 6) (fld w 9 6) (Src.ofCode (fld w 2 7)))
  else if fld w 0 2 == 3#2 then
    .ok (.andn (wY w) (wG w) (fld w 15 6) (fld w 9 6) (Src.ofCode (fld w 2 7)))
  else .error .reservedMinor

/-- Major opcode 0x03 (R307): SHL, SHR, SAR, ROTL. -/
def dec03 (w : Word) : Decoded :=
  if fld w 0 2 == 0#2 then
    .ok (.shl (wY w) (wG w) (fld w 15 6) (fld w 9 6) (Src.ofCode (fld w 2 7)))
  else if fld w 0 2 == 1#2 then
    .ok (.shr (wY w) (wG w) (fld w 15 6) (fld w 9 6) (Src.ofCode (fld w 2 7)))
  else if fld w 0 2 == 2#2 then
    .ok (.sar (wY w) (wG w) (fld w 15 6) (fld w 9 6) (Src.ofCode (fld w 2 7)))
  else if fld w 0 2 == 3#2 then
    .ok (.rotl (wY w) (wG w) (fld w 15 6) (fld w 9 6) (Src.ofCode (fld w 2 7)))
  else .error .reservedMinor

/-- Major opcode 0x04 (R307): POPC, CLZ, BREV, IABS. -/
def dec04 (w : Word) : Decoded :=
  if fld w 0 2 == 0#2 then
    check (fld w 2 7 == 0#7) .mustBeZero <|
    .ok (.popc (wY w) (wG w) (fld w 15 6) (fld w 9 6))
  else if fld w 0 2 == 1#2 then
    check (fld w 2 7 == 0#7) .mustBeZero <|
    .ok (.clz (wY w) (wG w) (fld w 15 6) (fld w 9 6))
  else if fld w 0 2 == 2#2 then
    check (fld w 2 7 == 0#7) .mustBeZero <|
    .ok (.brev (wY w) (wG w) (fld w 15 6) (fld w 9 6))
  else if fld w 0 2 == 3#2 then
    check (fld w 2 7 == 0#7) .mustBeZero <|
    .ok (.iabs (wY w) (wG w) (fld w 15 6) (fld w 9 6))
  else .error .reservedMinor

/-- Major opcode 0x05 (R307): BFX, BFI, PRMT, MOV. -/
def dec05 (w : Word) : Decoded :=
  if fld w 0 2 == 0#2 then
    .ok (.bfx (wY w) (wG w) (fld w 15 6) (fld w 9 6) (Src.ofCode (fld w 2 7)))
  else if fld w 0 2 == 1#2 then
    .ok (.bfi (wY w) (wG w) (fld w 15 6) (fld w 9 6) (Src.ofCode (fld w 2 7)))
  else if fld w 0 2 == 2#2 then
    .ok (.prmt (wY w) (wG w) (fld w 15 6) (fld w 9 6) (Src.ofCode (fld w 2 7)))
  else if fld w 0 2 == 3#2 then
    check (fld w 2 7 == 0#7) .mustBeZero <|
    .ok (.mov (wY w) (wG w) (fld w 15 6) (fld w 9 6))
  else .error .reservedMinor

/-- Major opcode 0x06 (R307): ISETP. -/
def dec06 (w : Word) : Decoded :=
  (need (ICond.ofCode (fld w 15 3))).bind fun c =>
  (need (Comb.ofCode (fld w 0 2))).bind fun m =>
  .ok (.isetp (wY w) (wG w) (fld w 18 3) c (fld w 9 6) (Src.ofCode (fld w 2 7)) m)

/-- Major opcode 0x07 (R307): SEL. -/
def dec07 (w : Word) : Decoded :=
  .ok (.sel (wY w) (wG w) (fld w 15 6) (fld w 9 6) (Src.ofCode (fld w 2 7)) (fld w 0 2))

/-- Major opcode 0x08 (R307): IADDI. -/
def dec08 (w : Word) : Decoded :=
  .ok (.iaddi (wY w) (wG w) (fld w 15 6) (fld w 9 6) (fld w 0 9))

/-- Major opcode 0x09 (R307): MOVI. -/
def dec09 (w : Word) : Decoded :=
  check (fld w 9 6 == 0#6) .mustBeZero <|
  .ok (.movi (wY w) (wG w) (fld w 15 6) (fld w 0 9))

/-- Major opcode 0x0A (R307): FADD, FMUL, FMIN, FMAX. -/
def dec0A (w : Word) : Decoded :=
  if fld w 0 2 == 0#2 then
    .ok (.fadd (wY w) (wG w) (fld w 15 6) (fld w 9 6) (Src.ofCode (fld w 2 7)))
  else if fld w 0 2 == 1#2 then
    .ok (.fmul (wY w) (wG w) (fld w 15 6) (fld w 9 6) (Src.ofCode (fld w 2 7)))
  else if fld w 0 2 == 2#2 then
    .ok (.fmin (wY w) (wG w) (fld w 15 6) (fld w 9 6) (Src.ofCode (fld w 2 7)))
  else if fld w 0 2 == 3#2 then
    .ok (.fmax (wY w) (wG w) (fld w 15 6) (fld w 9 6) (Src.ofCode (fld w 2 7)))
  else .error .reservedMinor

/-- Major opcode 0x0B (R307): FFMA, FFNMA, FFMS. -/
def dec0B (w : Word) : Decoded :=
  if fld w 0 2 == 0#2 then
    .ok (.ffma (wY w) (wG w) (fld w 15 6) (fld w 9 6) (Src.ofCode (fld w 2 7)))
  else if fld w 0 2 == 1#2 then
    .ok (.ffnma (wY w) (wG w) (fld w 15 6) (fld w 9 6) (Src.ofCode (fld w 2 7)))
  else if fld w 0 2 == 2#2 then
    .ok (.ffms (wY w) (wG w) (fld w 15 6) (fld w 9 6) (Src.ofCode (fld w 2 7)))
  else .error .reservedMinor

/-- Major opcode 0x0C (R307): FSETP. -/
def dec0C (w : Word) : Decoded :=
  (need (FCond.ofCode (fld w 15 3))).bind fun c =>
  (need (Comb.ofCode (fld w 0 2))).bind fun m =>
  .ok (.fsetp (wY w) (wG w) (fld w 18 3) c (fld w 9 6) (Src.ofCode (fld w 2 7)) m)

/-- Major opcode 0x0D (R307): SFU. -/
def dec0D (w : Word) : Decoded :=
  check (fld w 0 2 == 0#2) .mustBeZero <|
  (need (SfuFn.ofCode (fld w 2 7))).bind fun f =>
  .ok (.sfu (wY w) (wG w) (fld w 15 6) (fld w 9 6) f)

/-- Major opcode 0x0E (R307): HFMA2, BFMA2, HADD2, HMUL2. -/
def dec0E (w : Word) : Decoded :=
  if fld w 0 2 == 0#2 then
    .ok (.hfma2 (wY w) (wG w) (fld w 15 6) (fld w 9 6) (Src.ofCode (fld w 2 7)))
  else if fld w 0 2 == 1#2 then
    .ok (.bfma2 (wY w) (wG w) (fld w 15 6) (fld w 9 6) (Src.ofCode (fld w 2 7)))
  else if fld w 0 2 == 2#2 then
    .ok (.hadd2 (wY w) (wG w) (fld w 15 6) (fld w 9 6) (Src.ofCode (fld w 2 7)))
  else if fld w 0 2 == 3#2 then
    .ok (.hmul2 (wY w) (wG w) (fld w 15 6) (fld w 9 6) (Src.ofCode (fld w 2 7)))
  else .error .reservedMinor

/-- Major opcode 0x0F (R307): CVT. -/
def dec0F (w : Word) : Decoded :=
  (need (CvtSrc.ofCode (fld w 5 4))).bind fun s =>
  (need (CvtDst.ofCode (fld w 2 3))).bind fun t =>
  (need (Rnd.ofCode (fld w 0 2))).bind fun r =>
  .ok (.cvt (wY w) (wG w) (fld w 15 6) (fld w 9 6) s t r)

/-- Major opcode 0x10 (R307): FRND. -/
def dec10 (w : Word) : Decoded :=
  check (fld w 2 7 == 0#7) .mustBeZero <|
  (need (Rnd.ofCode (fld w 0 2))).bind fun r =>
  .ok (.frnd (wY w) (wG w) (fld w 15 6) (fld w 9 6) r)

/-- Major opcode 0x11 (R307): QNT, DQN, HAD. -/
def dec11 (w : Word) : Decoded :=
  if fld w 0 2 == 0#2 then
    .ok (.qnt (wY w) (wG w) (fld w 15 6) (fld w 9 6) (Src.ofCode (fld w 2 7)))
  else if fld w 0 2 == 1#2 then
    .ok (.dqn (wY w) (wG w) (fld w 15 6) (fld w 9 6) (Src.ofCode (fld w 2 7)))
  else if fld w 0 2 == 2#2 then
    check (fld w 2 7 == 0#7) .mustBeZero <|
    .ok (.had (wY w) (wG w) (fld w 15 6) (fld w 9 6))
  else .error .reservedMinor

/-- Major opcode 0x12 (R307): SHFL. -/
def dec12 (w : Word) : Decoded :=
  (need (ShflMode.ofCode (fld w 0 2))).bind fun m =>
  .ok (.shfl (wY w) (wG w) (fld w 15 6) (fld w 9 6) (Src.ofCode (fld w 2 7)) m)

/-- Major opcode 0x13 (R307): VOTE. -/
def dec13 (w : Word) : Decoded :=
  (need (VoteMode.ofCode (fld w 0 2))).bind fun m =>
  .ok (.vote (wY w) (wG w) (fld w 15 6) (fld w 9 6) (fld w 2 7) m)

/-- Major opcode 0x14 (R307): REDUX. -/
def dec14 (w : Word) : Decoded :=
  (need (ReduxOp.ofCode (fld w 0 2))).bind fun m =>
  .ok (.redux (wY w) (wG w) (fld w 15 6) (fld w 9 6) (fld w 2 7) m)

/-- Major opcode 0x15 (R307): V2S. -/
def dec15 (w : Word) : Decoded :=
  check (fld w 0 2 == 0#2) .mustBeZero <|
  .ok (.v2s (wY w) (wG w) (fld w 15 6) (fld w 9 6) (fld w 2 7))

/-- Major opcode 0x16 (R307): VMOVX, VMOVX_TO_X, VMOVX_FROM_X. -/
def dec16 (w : Word) : Decoded :=
  if fld w 13 2 == 0#2 then
    check (fld w 11 2 == 0#2) .mustBeZero <|
    (need (XReg.ofCode (fld w 9 2))).bind fun x =>
    .ok (.vmovx (wY w) (wG w) (fld w 15 6) x (fld w 0 9))
  else if fld w 13 2 == 1#2 then
    check (fld w 11 2 == 0#2) .mustBeZero <|
    (need (XReg.ofCode (fld w 9 2))).bind fun x =>
    .ok (.vmovxToX (wY w) (wG w) (fld w 15 6) x (fld w 0 9))
  else if fld w 13 2 == 2#2 then
    check (fld w 0 9 == 0#9) .mustBeZero <|
    check (fld w 11 2 == 0#2) .mustBeZero <|
    (need (XReg.ofCode (fld w 9 2))).bind fun x =>
    .ok (.vmovxFromX (wY w) (wG w) (fld w 15 6) x)
  else .error .reservedMinor

/-- Major opcode 0x17 (R307): VSTX, VSTX_ADD. -/
def dec17 (w : Word) : Decoded :=
  if fld w 13 1 == 0#1 then
    check (fld w 11 2 == 0#2) .mustBeZero <|
    check (fld w 14 1 == 0#1) .mustBeZero <|
    (need (XReg.ofCode (fld w 9 2))).bind fun x =>
    .ok (.vstx (wY w) (wG w) (fld w 15 6) x (fld w 0 9))
  else if fld w 13 1 == 1#1 then
    check (fld w 11 2 == 0#2) .mustBeZero <|
    check (fld w 14 7 == 0#7) .mustBeZero <|
    (need (XReg.ofCode (fld w 9 2))).bind fun x =>
    .ok (.vstxAdd (wY w) (wG w) x (fld w 0 9))
  else .error .reservedMinor

/-- Major opcode 0x18 (R307): SADD. -/
def dec18 (w : Word) : Decoded :=
  .ok (.sadd (wY w) (wG w) (fld w 14 7) (fld w 7 7) (fld w 0 7))

/-- Major opcode 0x19 (R307): SSUB. -/
def dec19 (w : Word) : Decoded :=
  .ok (.ssub (wY w) (wG w) (fld w 14 7) (fld w 7 7) (fld w 0 7))

/-- Major opcode 0x1A (R307): SMUL. -/
def dec1A (w : Word) : Decoded :=
  .ok (.smul (wY w) (wG w) (fld w 14 7) (fld w 7 7) (fld w 0 7))

/-- Major opcode 0x1B (R307): SAND. -/
def dec1B (w : Word) : Decoded :=
  .ok (.sand (wY w) (wG w) (fld w 14 7) (fld w 7 7) (fld w 0 7))

/-- Major opcode 0x1C (R307): SOR. -/
def dec1C (w : Word) : Decoded :=
  .ok (.sor (wY w) (wG w) (fld w 14 7) (fld w 7 7) (fld w 0 7))

/-- Major opcode 0x1D (R307): SXOR. -/
def dec1D (w : Word) : Decoded :=
  .ok (.sxor (wY w) (wG w) (fld w 14 7) (fld w 7 7) (fld w 0 7))

/-- Major opcode 0x1E (R307): SSHL. -/
def dec1E (w : Word) : Decoded :=
  .ok (.sshl (wY w) (wG w) (fld w 14 7) (fld w 7 7) (fld w 0 7))

/-- Major opcode 0x1F (R307): SSHR. -/
def dec1F (w : Word) : Decoded :=
  .ok (.sshr (wY w) (wG w) (fld w 14 7) (fld w 7 7) (fld w 0 7))

/-- Major opcode 0x20 (R307): SSETP. -/
def dec20 (w : Word) : Decoded :=
  check (fld w 20 1 == 0#1) .mustBeZero <|
  (need (ICond.ofCode (fld w 14 3))).bind fun c =>
  .ok (.ssetp (wY w) (wG w) (fld w 17 3) c (fld w 7 7) (fld w 0 7))

/-- Major opcode 0x21 (R307): SMOV, SMOV_B64. -/
def dec21 (w : Word) : Decoded :=
  if fld w 0 1 == 0#1 then
    check (fld w 1 2 == 0#2) .badOperand <|
    .ok (.smov (wY w) (wG w) (fld w 12 9) (fld w 3 9))
  else if fld w 0 1 == 1#1 then
    check (fld w 1 2 == 0#2) .mustBeZero <|
    .ok (.smovB64 (wY w) (wG w) (fld w 12 9) (fld w 3 9))
  else .error .reservedMinor

/-- Major opcode 0x22 (R307): SADDI. -/
def dec22 (w : Word) : Decoded :=
  .ok (.saddi (wY w) (wG w) (fld w 12 9) (fld w 0 12))

/-- Major opcode 0x23 (R307): BRA. -/
def dec23 (w : Word) : Decoded :=
  .ok (.bra (wY w) (wG w) (fld w 0 21))

/-- Major opcode 0x24 (R307): CALL. -/
def dec24 (w : Word) : Decoded :=
  .ok (.call (wY w) (wG w) (fld w 0 21))

/-- Major opcode 0x25 (R307): LD. -/
def dec25 (w : Word) : Decoded :=
  (need (MemSize.ofCode (fld w 1 3))).bind fun n =>
  .ok (.ld (wY w) (wG w) (fld w 15 6) (fld w 9 6) (fld w 4 5) n (bit w 0))

/-- Major opcode 0x26 (R307): ST. -/
def dec26 (w : Word) : Decoded :=
  check (fld w 0 1 == 0#1) .mustBeZero <|
  (need (MemSize.ofCode (fld w 1 3))).bind fun n =>
  .ok (.st (wY w) (wG w) (fld w 15 6) (fld w 9 6) (fld w 4 5) n)

/-- Major opcode 0x27 (R307): ATOM. -/
def dec27 (w : Word) : Decoded :=
  (need (AtomOp.ofCode (fld w 5 4))).bind fun o =>
  (need (AtomOrd.ofCode (fld w 3 2))).bind fun r =>
  (need (Scope.ofCode (fld w 1 2))).bind fun s =>
  .ok (.atom (wY w) (wG w) (fld w 15 6) (fld w 9 6) o r s (bit w 0))

/-- Major opcode 0x28 (R307): ATOMC. -/
def dec28 (w : Word) : Decoded :=
  (need (Scope.ofCode (fld w 1 2))).bind fun s =>
  .ok (.atomc (wY w) (wG w) (fld w 15 6) (fld w 9 6) (fld w 3 6) s (bit w 0))

/-- Major opcode 0x29 (R307): LDA. -/
def dec29 (w : Word) : Decoded :=
  (need (MemSize.ofCode (fld w 1 3))).bind fun n =>
  .ok (.lda (wY w) (wG w) (fld w 15 6) (fld w 9 6) (fld w 4 5) n (bit w 0))

/-- Major opcode 0x2A (R307): STA. -/
def dec2A (w : Word) : Decoded :=
  check (fld w 0 1 == 0#1) .mustBeZero <|
  (need (MemSize.ofCode (fld w 1 3))).bind fun n =>
  .ok (.sta (wY w) (wG w) (fld w 15 6) (fld w 9 6) (fld w 4 5) n)

/-- Major opcode 0x2B (R307): LDC. -/
def dec2B (w : Word) : Decoded :=
  (need (MemSize.ofCode (fld w 1 3))).bind fun n =>
  .ok (.ldc (wY w) (wG w) (fld w 15 6) (fld w 9 6) (fld w 4 5) n (bit w 0))

/-- Major opcode 0x2C (R307): STC. -/
def dec2C (w : Word) : Decoded :=
  check (fld w 0 1 == 0#1) .mustBeZero <|
  (need (MemSize.ofCode (fld w 1 3))).bind fun n =>
  .ok (.stc (wY w) (wG w) (fld w 15 6) (fld w 9 6) (fld w 4 5) n)

/-- Major opcode 0x2D (R307): LDM. -/
def dec2D (w : Word) : Decoded :=
  .ok (.ldm (wY w) (wG w) (fld w 15 6) (fld w 9 6) (fld w 4 5) (fld w 0 4))

/-- Major opcode 0x2E (R307): STM. -/
def dec2E (w : Word) : Decoded :=
  .ok (.stm (wY w) (wG w) (fld w 15 6) (fld w 9 6) (fld w 4 5) (fld w 0 4))

/-- Major opcode 0x2F (R307): SLD. -/
def dec2F (w : Word) : Decoded :=
  .ok (.sld (wY w) (wG w) (fld w 12 9) (fld w 7 5) (fld w 1 6) (bit w 0))

/-- Major opcode 0x30 (R307): SST. -/
def dec30 (w : Word) : Decoded :=
  .ok (.sst (wY w) (wG w) (fld w 12 9) (fld w 7 5) (fld w 1 6) (bit w 0))

/-- Major opcode 0x31 (R307): MMA, MMA_AS. -/
def dec31 (w : Word) : Decoded :=
  if fld w 3 1 == 0#1 then
    check (fld w 0 1 == 0#1) .mustBeZero <|
    .ok (.mma (wY w) (wG w) (fld w 15 6) (fld w 10 5) (fld w 4 6) (bit w 2) (bit w 1))
  else if fld w 3 1 == 1#1 then
    check (fld w 0 1 == 0#1) .mustBeZero <|
    .ok (.mmaAs (wY w) (wG w) (fld w 15 6) (fld w 10 5) (fld w 4 6) (bit w 2) (bit w 1))
  else .error .reservedMinor

/-- Major opcode 0x32 (R307): LDSTN. -/
def dec32 (w : Word) : Decoded :=
  check (fld w 0 7 == 0#7) .mustBeZero <|
  .ok (.ldstn (wY w) (wG w) (fld w 16 5) (fld w 7 9))

/-- Major opcode 0x33 (R307): WASH. -/
def dec33 (w : Word) : Decoded :=
  .ok (.wash (wY w) (wG w) (fld w 15 6) (fld w 9 6) (fld w 0 9))

/-- Major opcode 0x34 (R307): RAYSEND. -/
def dec34 (w : Word) : Decoded :=
  check (fld w 3 3 == 0#3) .mustBeZero <|
  .ok (.raysend (wY w) (wG w) (fld w 15 6) (fld w 6 9) (bit w 2) (bit w 1) (bit w 0))

/-- Major opcode 0x35 (R307): DRAY. -/
def dec35 (w : Word) : Decoded :=
  check (noG w) .badGuard <|
  check (fld w 2 3 == 0#3) .mustBeZero <|
  .ok (.dray (wY w) (fld w 12 9) (fld w 7 5) (fld w 5 2) (bit w 1) (bit w 0))

/-- Major opcode 0x36 (R307): GATH. -/
def dec36 (w : Word) : Decoded :=
  check (fld w 0 1 == 0#1) .mustBeZero <|
  check (fld w 2 3 == 0#3) .mustBeZero <|
  check (fld w 6 6 == 0#6) .mustBeZero <|
  .ok (.gath (wY w) (wG w) (fld w 12 9) (bit w 5) (bit w 1))

/-- Major opcode 0x3C (R307): HIMM. -/
def dec3C (w : Word) : Decoded :=
  check (fld w 27 5 == 0#5) .badHint <|
  .ok (.himm (fld w 0 21))

/-- Major opcode 0x3D (R307): HX. -/
def dec3D (w : Word) : Decoded :=
  check (fld w 27 5 == 0#5) .badHint <|
  check (fld w 0 5 == 0#5) .badHint <|
  .ok (.hx (fld w 17 4) (fld w 14 3) (bit w 13) (bit w 12) (fld w 10 2) (fld w 6 4) (bit w 5))

/-- Major opcode 0x3E (R307): HFWD. -/
def dec3E (w : Word) : Decoded :=
  check (fld w 27 5 == 0#5) .badHint <|
  check (fld w 0 15 == 0#15) .badHint <|
  .ok (.hfwd (fld w 17 4) (fld w 15 2))

/-- xop 0x00 (R310): NOP. -/
def decX00 (w : Word) : Decoded :=
  check (fld w 0 13 == 0#13) .mustBeZero <|
  .ok (.nop (wY w) (wG w))

/-- xop 0x01 (R310): EXIT. -/
def decX01 (w : Word) : Decoded :=
  check (fld w 0 13 == 0#13) .mustBeZero <|
  .ok (.exit (wY w) (wG w))

/-- xop 0x02 (R310): RET. -/
def decX02 (w : Word) : Decoded :=
  check (fld w 0 7 == 0#7) .mustBeZero <|
  .ok (.ret (wY w) (wG w) (fld w 7 6))

/-- xop 0x03 (R310): BRX. -/
def decX03 (w : Word) : Decoded :=
  check (fld w 0 7 == 0#7) .mustBeZero <|
  .ok (.brx (wY w) (wG w) (fld w 7 6))

/-- xop 0x04 (R310): CALLX. -/
def decX04 (w : Word) : Decoded :=
  check (fld w 0 1 == 0#1) .mustBeZero <|
  .ok (.callx (wY w) (wG w) (fld w 7 6) (fld w 1 6))

/-- xop 0x05 (R310): SETJ. -/
def decX05 (w : Word) : Decoded :=
  check (noG w) .badGuard <|
  .ok (.setj (wY w) (fld w 0 13))

/-- xop 0x06 (R310): REGANG. -/
def decX06 (w : Word) : Decoded :=
  check (noG w) .badGuard <|
  check (fld w 0 13 == 0#13) .mustBeZero <|
  .ok (.regang (wY w))

/-- xop 0x07 (R310): LPAD. -/
def decX07 (w : Word) : Decoded :=
  check (noG w) .badGuard <|
  check (fld w 12 1 == 0#1) .mustBeZero <|
  .ok (.lpad (wY w) (fld w 0 12))

/-- xop 0x08 (R310): TRAP. -/
def decX08 (w : Word) : Decoded :=
  .ok (.trap (wY w) (wG w) (fld w 0 13))

/-- xop 0x09 (R310): TRAPRET. -/
def decX09 (w : Word) : Decoded :=
  check (noG w) .badGuard <|
  check (fld w 2 11 == 0#11) .mustBeZero <|
  (need (RetMode.ofCode (fld w 0 2))).bind fun m =>
  .ok (.trapret (wY w) m)

/-- xop 0x0A (R310): SLEEP. -/
def decX0A (w : Word) : Decoded :=
  check (fld w 6 1 == 0#1) .mustBeZero <|
  .ok (.sleep (wY w) (wG w) (fld w 7 6) (fld w 0 6))

/-- xop 0x10 (R310): FENCE. -/
def decX10 (w : Word) : Decoded :=
  check (noG w) .badGuard <|
  check (fld w 0 2 == 0#2) .mustBeZero <|
  check (fld w 6 4 == 0#4) .mustBeZero <|
  (need (Scope.ofCode (fld w 4 2))).bind fun s =>
  (need (FenceOrd.ofCode (fld w 2 2))).bind fun o =>
  .ok (.fence (wY w) (fld w 10 3) s o)

/-- xop 0x11 (R310): FENCER. -/
def decX11 (w : Word) : Decoded :=
  check (noG w) .badGuard <|
  check (fld w 0 2 == 0#2) .mustBeZero <|
  (need (Scope.ofCode (fld w 4 2))).bind fun s =>
  (need (FenceOrd.ofCode (fld w 2 2))).bind fun o =>
  .ok (.fencer (wY w) (fld w 6 7) s o)

/-- xop 0x12 (R310): VFENCE. -/
def decX12 (w : Word) : Decoded :=
  check (noG w) .badGuard <|
  check (fld w 3 4 == 0#4) .mustBeZero <|
  .ok (.vfence (wY w) (fld w 7 6) (fld w 0 3))

/-- xop 0x13 (R310): OPRDY. -/
def decX13 (w : Word) : Decoded :=
  check (noG w) .badGuard <|
  check (fld w 0 13 == 0#13) .mustBeZero <|
  .ok (.oprdy (wY w))

/-- xop 0x14 (R310): MWAIT. -/
def decX14 (w : Word) : Decoded :=
  check (noG w) .badGuard <|
  check (fld w 6 7 == 0#7) .mustBeZero <|
  .ok (.mwait (wY w) (fld w 0 6))

/-- xop 0x18 (R310): BINIT. -/
def decX18 (w : Word) : Decoded :=
  .ok (.binit (wY w) (wG w) (fld w 7 6) (bit w 6) (fld w 0 6))

/-- xop 0x19 (R310): BEXP. -/
def decX19 (w : Word) : Decoded :=
  check (fld w 0 1 == 0#1) .mustBeZero <|
  .ok (.bexp (wY w) (wG w) (fld w 7 6) (bit w 6) (fld w 1 5))

/-- xop 0x1A (R310): BARR. -/
def decX1A (w : Word) : Decoded :=
  check (fld w 0 6 == 0#6) .mustBeZero <|
  .ok (.barr (wY w) (wG w) (fld w 7 6) (bit w 6))

/-- xop 0x1B (R310): BWAIT. -/
def decX1B (w : Word) : Decoded :=
  check (fld w 1 5 == 0#5) .mustBeZero <|
  .ok (.bwait (wY w) (wG w) (fld w 7 6) (bit w 6) (bit w 0))

/-- xop 0x1C (R310): BAR. -/
def decX1C (w : Word) : Decoded :=
  check (noG w) .badGuard <|
  check (fld w 0 13 == 0#13) .mustBeZero <|
  .ok (.bar (wY w))

/-- xop 0x1D (R310): CAD. -/
def decX1D (w : Word) : Decoded :=
  check (noG w) .badGuard <|
  check (fld w 2 11 == 0#11) .mustBeZero <|
  (need (CadLevel.ofCode (fld w 0 2))).bind fun l =>
  .ok (.cad (wY w) l)

/-- xop 0x1E (R310): WAITPH. -/
def decX1E (w : Word) : Decoded :=
  check (noG w) .badGuard <|
  .ok (.waitph (wY w) (fld w 3 10) (fld w 0 3))

/-- xop 0x20 (R310): RDPTR. -/
def decX20 (w : Word) : Decoded :=
  check (fld w 3 4 == 0#4) .mustBeZero <|
  .ok (.rdptr (wY w) (wG w) (fld w 7 6) (fld w 0 3))

/-- xop 0x21 (R310): TPF, TPF_BIND. -/
def decX21 (w : Word) : Decoded :=
  if fld w 6 1 == 0#1 then
    check (fld w 0 6 == 0#6) .mustBeZero <|
    .ok (.tpf (wY w) (wG w) (fld w 7 6))
  else if fld w 6 1 == 1#1 then
    .ok (.tpfBind (wY w) (wG w) (fld w 7 6) (fld w 1 5) (bit w 0))
  else .error .reservedMinor

/-- xop 0x22 (R310): INSTALL. -/
def decX22 (w : Word) : Decoded :=
  check (fld w 0 7 == 0#7) .mustBeZero <|
  .ok (.install (wY w) (wG w) (fld w 7 6))

/-- xop 0x23 (R310): CKPT. -/
def decX23 (w : Word) : Decoded :=
  check (fld w 1 6 == 0#6) .mustBeZero <|
  .ok (.ckpt (wY w) (wG w) (fld w 7 6) (bit w 0))

/-- xop 0x24 (R310): CPOLL. -/
def decX24 (w : Word) : Decoded :=
  check (fld w 6 1 == 0#1) .mustBeZero <|
  .ok (.cpoll (wY w) (wG w) (fld w 7 6) (fld w 3 3) (fld w 0 3))

/-- xop 0x25 (R310): AMSG. -/
def decX25 (w : Word) : Decoded :=
  check (fld w 0 1 == 0#1) .mustBeZero <|
  check (fld w 7 1 == 0#1) .mustBeZero <|
  (need (AmsgOp.ofCode (fld w 3 4))).bind fun o =>
  (need (AmsgSize.ofCode (fld w 1 2))).bind fun s =>
  .ok (.amsg (wY w) (wG w) (fld w 8 5) o s)

/-- xop 0x28 (R310): PUB. -/
def decX28 (w : Word) : Decoded :=
  check (fld w 2 5 == 0#5) .mustBeZero <|
  .ok (.pub (wY w) (wG w) (fld w 7 6) (fld w 0 2))

/-- xop 0x29 (R310): ITEM. -/
def decX29 (w : Word) : Decoded :=
  check (fld w 1 6 == 0#6) .mustBeZero <|
  .ok (.item (wY w) (wG w) (fld w 7 6) (bit w 0))

/-- xop 0x2A (R310): CBACK. -/
def decX2A (w : Word) : Decoded :=
  check (fld w 6 7 == 0#7) .mustBeZero <|
  (need (CbackCode.ofCode (fld w 0 3))).bind fun c =>
  .ok (.cback (wY w) (wG w) (fld w 3 3) c)

/-- xop 0x2B (R310): ASPUB. -/
def decX2B (w : Word) : Decoded :=
  check (fld w 3 4 == 0#4) .mustBeZero <|
  .ok (.aspub (wY w) (wG w) (fld w 7 6) (fld w 0 3))

/-- xop 0x2C (R310): VQRY, VQRY_ST. -/
def decX2C (w : Word) : Decoded :=
  if fld w 6 1 == 0#1 then
    .ok (.vqry (wY w) (wG w) (fld w 7 6) (fld w 3 3) (fld w 0 3))
  else if fld w 6 1 == 1#1 then
    check (fld w 7 6 == 0#6) .mustBeZero <|
    .ok (.vqrySt (wY w) (wG w) (fld w 3 3) (fld w 0 3))
  else .error .reservedMinor

/-- xop 0x30 (R310): SETFMT. -/
def decX30 (w : Word) : Decoded :=
  check (fld w 0 6 == 0#6) .mustBeZero <|
  .ok (.setfmt (wY w) (wG w) (fld w 6 7))

/-- xop 0x31 (R310): SETSPARE. -/
def decX31 (w : Word) : Decoded :=
  check (fld w 0 6 == 0#6) .mustBeZero <|
  .ok (.setspare (wY w) (wG w) (fld w 6 7))

/-- xop 0x32 (R310): SETWB, SETWB_REG. -/
def decX32 (w : Word) : Decoded :=
  if fld w 5 1 == 0#1 then
    check (fld w 6 7 == 0#7) .mustBeZero <|
    .ok (.setwb (wY w) (wG w) (fld w 0 5))
  else if fld w 5 1 == 1#1 then
    check (fld w 0 5 == 0#5) .mustBeZero <|
    .ok (.setwbReg (wY w) (wG w) (fld w 6 7))
  else .error .reservedMinor

/-- xop 0x33 (R310): PLOP. -/
def decX33 (w : Word) : Decoded :=
  .ok (.plop (wY w) (wG w) (fld w 10 3) (fld w 7 3) (fld w 4 3) (fld w 0 4))

/-- xop 0x38 (R310): SYSRD. -/
def decX38 (w : Word) : Decoded :=
  .ok (.sysrd (wY w) (wG w) (fld w 6 7) (fld w 0 6))

/-- xop 0x39 (R310): SYSWR. -/
def decX39 (w : Word) : Decoded :=
  .ok (.syswr (wY w) (wG w) (fld w 6 7) (fld w 0 6))

/-- xop 0x3A (R310): LAUNCH. -/
def decX3A (w : Word) : Decoded :=
  check (fld w 3 4 == 0#4) .mustBeZero <|
  .ok (.launch (wY w) (wG w) (fld w 7 6) (fld w 0 3))

/-- xop 0x3B (R310): CLOCK. -/
def decX3B (w : Word) : Decoded :=
  check (fld w 1 6 == 0#6) .mustBeZero <|
  .ok (.clock (wY w) (wG w) (fld w 7 6) (bit w 0))

/-- The major opcodes 0x00 to 0x3E in order (R307). -/
def majors : List (Word → Decoded) :=
  [dec00, dec01, dec02, dec03, dec04, dec05, dec06, dec07, dec08, dec09, dec0A, dec0B, dec0C, dec0D, dec0E, dec0F, dec10, dec11, dec12, dec13, dec14, dec15, dec16, dec17, dec18, dec19, dec1A, dec1B, dec1C, dec1D, dec1E, dec1F, dec20, dec21, dec22, dec23, dec24, dec25, dec26, dec27, dec28, dec29, dec2A, dec2B, dec2C, dec2D, dec2E, dec2F, dec30, dec31, dec32, dec33, dec34, dec35, dec36, fun _ => .error .reservedOpcode, fun _ => .error .reservedOpcode, fun _ => .error .reservedOpcode, fun _ => .error .reservedOpcode, fun _ => .error .reservedOpcode, dec3C, dec3D, dec3E]

/-- The xops 0x00 to 0x3B of the extended space in order (R310). -/
def xops : List (Word → Decoded) :=
  [decX00, decX01, decX02, decX03, decX04, decX05, decX06, decX07, decX08, decX09, decX0A, fun _ => .error .reservedXop, fun _ => .error .reservedXop, fun _ => .error .reservedXop, fun _ => .error .reservedXop, fun _ => .error .reservedXop, decX10, decX11, decX12, decX13, decX14, fun _ => .error .reservedXop, fun _ => .error .reservedXop, fun _ => .error .reservedXop, decX18, decX19, decX1A, decX1B, decX1C, decX1D, decX1E, fun _ => .error .reservedXop, decX20, decX21, decX22, decX23, decX24, decX25, fun _ => .error .reservedXop, fun _ => .error .reservedXop, decX28, decX29, decX2A, decX2B, decX2C, fun _ => .error .reservedXop, fun _ => .error .reservedXop, fun _ => .error .reservedXop, decX30, decX31, decX32, decX33, fun _ => .error .reservedXop, fun _ => .error .reservedXop, fun _ => .error .reservedXop, fun _ => .error .reservedXop, decX38, decX39, decX3A, decX3B]

/-- The instruction of a word before its operands are checked. -/
def decodeFields (w : Word) : Decoded :=
  if fld w 21 6 = 0x3F#6 then (xops.getD (fld w 13 8).toNat (fun _ => .error .reservedXop)) w
  else (majors.getD (fld w 21 6).toNat (fun _ => .error .reservedOpcode)) w

/-- OP names a hint (R307). -/
def isHintWord (w : Word) : Bool := fld w 21 6 == 0x3C#6 || fld w 21 6 == 0x3D#6 || fld w 21 6 == 0x3E#6

/-- The instruction of a word, or the name of what refuses it (R311). -/
def decodeWord (w : Word) : Decoded :=
  match decodeFields w with
  | .error e => .error e
  | .ok i =>
    if i.wf then .ok i
    else if isHintWord w then .error .badHint
    else if i.guard?.all Guard.ok then .error .badOperand
    else .error .badGuard

/-- Four bytes of a word, little-endian (R2). -/
def wordBytes (w : Word) : List Byte := [fld w 0 8, fld w 8 8, fld w 16 8, fld w 24 8]

/-- The word of four bytes, little-endian (R2). -/
def bytesWord (b0 b1 b2 b3 : Byte) : Word := b3 ++ b2 ++ b1 ++ b0

/-- The next instruction of a list of bytes, with the bytes after it. -/
def decode : List Byte → Except DecodeError (Instr × List Byte)
  | b0 :: b1 :: b2 :: b3 :: rest =>
    match decodeWord (bytesWord b0 b1 b2 b3) with
    | .ok i => .ok (i, rest)
    | .error e => .error e
  | _ => .error .truncated

/-- What the decoder reads from an instruction whose bits are w, numbered as the opcode table numbers them. Every
instruction is one word, so nbits changes nothing: the bits above it are 0. -/
def decodeTableWord (nbits w : Nat) : Option Instr :=
  match decode (wordBytes (BitVec.ofNat 32 (w % 2 ^ nbits))) with
  | .ok (i, _) => some i
  | .error _ => none

/-- The word of an instruction (R301 to R310); none for a step without a word. -/
def encode : Instr → Option Word
  | .iadd y g d a b => some (word y g.code 0x00#6 (d ++ a ++ b.code ++ 0#2))
  | .isub y g d a b => some (word y g.code 0x00#6 (d ++ a ++ b.code ++ 1#2))
  | .imin y g d a b => some (word y g.code 0x00#6 (d ++ a ++ b.code ++ 2#2))
  | .imax y g d a b => some (word y g.code 0x00#6 (d ++ a ++ b.code ++ 3#2))
  | .imul y g d a b => some (word y g.code 0x01#6 (d ++ a ++ b.code ++ 0#2))
  | .imulh y g d a b => some (word y g.code 0x01#6 (d ++ a ++ b.code ++ 1#2))
  | .imad y g d a b => some (word y g.code 0x01#6 (d ++ a ++ b.code ++ 2#2))
  | .idot4 y g d a b => some (word y g.code 0x01#6 (d ++ a ++ b.code ++ 3#2))
  | .and y g d a b => some (word y g.code 0x02#6 (d ++ a ++ b.code ++ 0#2))
  | .or y g d a b => some (word y g.code 0x02#6 (d ++ a ++ b.code ++ 1#2))
  | .xor y g d a b => some (word y g.code 0x02#6 (d ++ a ++ b.code ++ 2#2))
  | .andn y g d a b => some (word y g.code 0x02#6 (d ++ a ++ b.code ++ 3#2))
  | .shl y g d a b => some (word y g.code 0x03#6 (d ++ a ++ b.code ++ 0#2))
  | .shr y g d a b => some (word y g.code 0x03#6 (d ++ a ++ b.code ++ 1#2))
  | .sar y g d a b => some (word y g.code 0x03#6 (d ++ a ++ b.code ++ 2#2))
  | .rotl y g d a b => some (word y g.code 0x03#6 (d ++ a ++ b.code ++ 3#2))
  | .popc y g d a => some (word y g.code 0x04#6 (d ++ a ++ 0#9))
  | .clz y g d a => some (word y g.code 0x04#6 (d ++ a ++ 1#9))
  | .brev y g d a => some (word y g.code 0x04#6 (d ++ a ++ 2#9))
  | .iabs y g d a => some (word y g.code 0x04#6 (d ++ a ++ 3#9))
  | .bfx y g d a b => some (word y g.code 0x05#6 (d ++ a ++ b.code ++ 0#2))
  | .bfi y g d a b => some (word y g.code 0x05#6 (d ++ a ++ b.code ++ 1#2))
  | .prmt y g d a b => some (word y g.code 0x05#6 (d ++ a ++ b.code ++ 2#2))
  | .mov y g d a => some (word y g.code 0x05#6 (d ++ a ++ 3#9))
  | .isetp y g p c a b m => some (word y g.code 0x06#6 (p ++ c.code ++ a ++ b.code ++ m.code))
  | .sel y g d a b k => some (word y g.code 0x07#6 (d ++ a ++ b.code ++ k))
  | .iaddi y g d a i => some (word y g.code 0x08#6 (d ++ a ++ i))
  | .movi y g d i => some (word y g.code 0x09#6 (d ++ 0#6 ++ i))
  | .fadd y g d a b => some (word y g.code 0x0A#6 (d ++ a ++ b.code ++ 0#2))
  | .fmul y g d a b => some (word y g.code 0x0A#6 (d ++ a ++ b.code ++ 1#2))
  | .fmin y g d a b => some (word y g.code 0x0A#6 (d ++ a ++ b.code ++ 2#2))
  | .fmax y g d a b => some (word y g.code 0x0A#6 (d ++ a ++ b.code ++ 3#2))
  | .ffma y g d a b => some (word y g.code 0x0B#6 (d ++ a ++ b.code ++ 0#2))
  | .ffnma y g d a b => some (word y g.code 0x0B#6 (d ++ a ++ b.code ++ 1#2))
  | .ffms y g d a b => some (word y g.code 0x0B#6 (d ++ a ++ b.code ++ 2#2))
  | .fsetp y g p c a b m => some (word y g.code 0x0C#6 (p ++ c.code ++ a ++ b.code ++ m.code))
  | .sfu y g d a f => some (word y g.code 0x0D#6 (d ++ a ++ f.code ++ 0#2))
  | .hfma2 y g d a b => some (word y g.code 0x0E#6 (d ++ a ++ b.code ++ 0#2))
  | .bfma2 y g d a b => some (word y g.code 0x0E#6 (d ++ a ++ b.code ++ 1#2))
  | .hadd2 y g d a b => some (word y g.code 0x0E#6 (d ++ a ++ b.code ++ 2#2))
  | .hmul2 y g d a b => some (word y g.code 0x0E#6 (d ++ a ++ b.code ++ 3#2))
  | .cvt y g d a s t r => some (word y g.code 0x0F#6 (d ++ a ++ s.code ++ t.code ++ r.code))
  | .frnd y g d a r => some (word y g.code 0x10#6 (d ++ a ++ 0#7 ++ r.code))
  | .qnt y g d a b => some (word y g.code 0x11#6 (d ++ a ++ b.code ++ 0#2))
  | .dqn y g d a b => some (word y g.code 0x11#6 (d ++ a ++ b.code ++ 1#2))
  | .had y g d a => some (word y g.code 0x11#6 (d ++ a ++ 2#9))
  | .shfl y g d a b m => some (word y g.code 0x12#6 (d ++ a ++ b.code ++ m.code))
  | .vote y g d a b m => some (word y g.code 0x13#6 (d ++ a ++ b ++ m.code))
  | .redux y g d a b m => some (word y g.code 0x14#6 (d ++ a ++ b ++ m.code))
  | .v2s y g d a b => some (word y g.code 0x15#6 (d ++ a ++ b ++ 0#2))
  | .vmovx y g d x i => some (word y g.code 0x16#6 (d ++ 0#4 ++ x.code ++ i))
  | .vmovxToX y g d x i => some (word y g.code 0x16#6 (d ++ 4#4 ++ x.code ++ i))
  | .vmovxFromX y g d x => some (word y g.code 0x16#6 (d ++ 8#4 ++ x.code ++ 0#9))
  | .vstx y g d x i => some (word y g.code 0x17#6 (d ++ 0#4 ++ x.code ++ i))
  | .vstxAdd y g x i => some (word y g.code 0x17#6 (4#10 ++ x.code ++ i))
  | .sadd y g d a b => some (word y g.code 0x18#6 (d ++ a ++ b))
  | .ssub y g d a b => some (word y g.code 0x19#6 (d ++ a ++ b))
  | .smul y g d a b => some (word y g.code 0x1A#6 (d ++ a ++ b))
  | .sand y g d a b => some (word y g.code 0x1B#6 (d ++ a ++ b))
  | .sor y g d a b => some (word y g.code 0x1C#6 (d ++ a ++ b))
  | .sxor y g d a b => some (word y g.code 0x1D#6 (d ++ a ++ b))
  | .sshl y g d a b => some (word y g.code 0x1E#6 (d ++ a ++ b))
  | .sshr y g d a b => some (word y g.code 0x1F#6 (d ++ a ++ b))
  | .ssetp y g q c a b => some (word y g.code 0x20#6 (0#1 ++ q ++ c.code ++ a ++ b))
  | .smov y g d a => some (word y g.code 0x21#6 (d ++ a ++ 0#3))
  | .smovB64 y g d a => some (word y g.code 0x21#6 (d ++ a ++ 1#3))
  | .saddi y g d i => some (word y g.code 0x22#6 (d ++ i))
  | .bra y g o => some (word y g.code 0x23#6 o)
  | .call y g o => some (word y g.code 0x24#6 o)
  | .ld y g d a b n x => some (word y g.code 0x25#6 (d ++ a ++ b ++ n.code ++ BitVec.ofBool x))
  | .st y g d a b n => some (word y g.code 0x26#6 (d ++ a ++ b ++ n.code ++ 0#1))
  | .atom y g d a o r s z => some (word y g.code 0x27#6 (d ++ a ++ o.code ++ r.code ++ s.code ++ BitVec.ofBool z))
  | .atomc y g d a n s z => some (word y g.code 0x28#6 (d ++ a ++ n ++ s.code ++ BitVec.ofBool z))
  | .lda y g d a b n x => some (word y g.code 0x29#6 (d ++ a ++ b ++ n.code ++ BitVec.ofBool x))
  | .sta y g d a b n => some (word y g.code 0x2A#6 (d ++ a ++ b ++ n.code ++ 0#1))
  | .ldc y g d a b n x => some (word y g.code 0x2B#6 (d ++ a ++ b ++ n.code ++ BitVec.ofBool x))
  | .stc y g d a b n => some (word y g.code 0x2C#6 (d ++ a ++ b ++ n.code ++ 0#1))
  | .ldm y g d a b c => some (word y g.code 0x2D#6 (d ++ a ++ b ++ c))
  | .stm y g d a b c => some (word y g.code 0x2E#6 (d ++ a ++ b ++ c))
  | .sld y g d b i z => some (word y g.code 0x2F#6 (d ++ b ++ i ++ BitVec.ofBool z))
  | .sst y g d b i z => some (word y g.code 0x30#6 (d ++ b ++ i ++ BitVec.ofBool z))
  | .mma y g a s c n k => some (word y g.code 0x31#6 (a ++ s ++ c ++ 0#1 ++ BitVec.ofBool n ++ BitVec.ofBool k ++ 0#1))
  | .mmaAs y g a s c n k => some (word y g.code 0x31#6 (a ++ s ++ c ++ 1#1 ++ BitVec.ofBool n ++ BitVec.ofBool k ++ 0#1))
  | .ldstn y g s p => some (word y g.code 0x32#6 (s ++ p ++ 0#7))
  | .wash y g c d s => some (word y g.code 0x33#6 (c ++ d ++ s))
  | .raysend y g a s o c f => some (word y g.code 0x34#6 (a ++ s ++ 0#3 ++ BitVec.ofBool o ++ BitVec.ofBool c ++ BitVec.ofBool f))
  | .dray y d e c p k => some (word y 0#4 0x35#6 (d ++ e ++ c ++ 0#3 ++ BitVec.ofBool p ++ BitVec.ofBool k))
  | .gath y g d c p => some (word y g.code 0x36#6 (d ++ 0#6 ++ BitVec.ofBool c ++ 0#3 ++ BitVec.ofBool p ++ 0#1))
  | .himm i => some (word false 0#4 0x3C#6 i)
  | .hx r p z s h c w => some (word false 0#4 0x3D#6 (r ++ p ++ BitVec.ofBool z ++ BitVec.ofBool s ++ h ++ c ++ BitVec.ofBool w ++ 0#5))
  | .hfwd k s => some (word false 0#4 0x3E#6 (k ++ s ++ 0#15))
  | .nop y g => some (xsWord y g.code 0x00#8 0#13)
  | .exit y g => some (xsWord y g.code 0x01#8 0#13)
  | .ret y g a => some (xsWord y g.code 0x02#8 (a ++ 0#7))
  | .brx y g a => some (xsWord y g.code 0x03#8 (a ++ 0#7))
  | .callx y g a d => some (xsWord y g.code 0x04#8 (a ++ d ++ 0#1))
  | .setj y o => some (xsWord y 0#4 0x05#8 o)
  | .regang y => some (xsWord y 0#4 0x06#8 0#13)
  | .lpad y l => some (xsWord y 0#4 0x07#8 (0#1 ++ l))
  | .trap y g c => some (xsWord y g.code 0x08#8 c)
  | .trapret y m => some (xsWord y 0#4 0x09#8 (0#11 ++ m.code))
  | .sleep y g p q => some (xsWord y g.code 0x0A#8 (p ++ 0#1 ++ q))
  | .fence y q s o => some (xsWord y 0#4 0x10#8 (q ++ 0#4 ++ s.code ++ o.code ++ 0#2))
  | .fencer y p s o => some (xsWord y 0#4 0x11#8 (p ++ s.code ++ o.code ++ 0#2))
  | .vfence y p q => some (xsWord y 0#4 0x12#8 (p ++ 0#4 ++ q))
  | .oprdy y => some (xsWord y 0#4 0x13#8 0#13)
  | .mwait y n => some (xsWord y 0#4 0x14#8 (0#7 ++ n))
  | .binit y g p s c => some (xsWord y g.code 0x18#8 (p ++ BitVec.ofBool s ++ c))
  | .bexp y g p s b => some (xsWord y g.code 0x19#8 (p ++ BitVec.ofBool s ++ b ++ 0#1))
  | .barr y g p s => some (xsWord y g.code 0x1A#8 (p ++ BitVec.ofBool s ++ 0#6))
  | .bwait y g p s h => some (xsWord y g.code 0x1B#8 (p ++ BitVec.ofBool s ++ 0#5 ++ BitVec.ofBool h))
  | .bar y => some (xsWord y 0#4 0x1C#8 0#13)
  | .cad y l => some (xsWord y 0#4 0x1D#8 (0#11 ++ l.code))
  | .waitph y n q => some (xsWord y 0#4 0x1E#8 (n ++ q))
  | .rdptr y g d c => some (xsWord y g.code 0x20#8 (d ++ 0#4 ++ c))
  | .tpf y g n => some (xsWord y g.code 0x21#8 (n ++ 0#7))
  | .tpfBind y g n b s => some (xsWord y g.code 0x21#8 (n ++ 1#1 ++ b ++ BitVec.ofBool s))
  | .install y g d => some (xsWord y g.code 0x22#8 (d ++ 0#7))
  | .ckpt y g d f => some (xsWord y g.code 0x23#8 (d ++ 0#6 ++ BitVec.ofBool f))
  | .cpoll y g p b q => some (xsWord y g.code 0x24#8 (p ++ 0#1 ++ b ++ q))
  | .amsg y g a o s => some (xsWord y g.code 0x25#8 (a ++ 0#1 ++ o.code ++ s.code ++ 0#1))
  | .pub y g n s => some (xsWord y g.code 0x28#8 (n ++ 0#5 ++ s))
  | .item y g d t => some (xsWord y g.code 0x29#8 (d ++ 0#6 ++ BitVec.ofBool t))
  | .cback y g b c => some (xsWord y g.code 0x2A#8 (0#7 ++ b ++ c.code))
  | .aspub y g p q => some (xsWord y g.code 0x2B#8 (p ++ 0#4 ++ q))
  | .vqry y g p b q => some (xsWord y g.code 0x2C#8 (p ++ 0#1 ++ b ++ q))
  | .vqrySt y g b q => some (xsWord y g.code 0x2C#8 (1#7 ++ b ++ q))
  | .setfmt y g a => some (xsWord y g.code 0x30#8 (a ++ 0#6))
  | .setspare y g a => some (xsWord y g.code 0x31#8 (a ++ 0#6))
  | .setwb y g w => some (xsWord y g.code 0x32#8 (0#8 ++ w))
  | .setwbReg y g a => some (xsWord y g.code 0x32#8 (a ++ 32#6))
  | .plop y g d a b l => some (xsWord y g.code 0x33#8 (d ++ a ++ b ++ l))
  | .sysrd y g d n => some (xsWord y g.code 0x38#8 (d ++ n))
  | .syswr y g d n => some (xsWord y g.code 0x39#8 (d ++ n))
  | .launch y g p q => some (xsWord y g.code 0x3A#8 (p ++ 0#4 ++ q))
  | .clock y g d n => some (xsWord y g.code 0x3B#8 (d ++ 0#6 ++ BitVec.ofBool n))
  | _ => none

end Sys2Proof
end

