-- ==== Sys2Proof/Config.lean ====
section
/-! DEFINITION. Config.lean: the figures of the part (R10 to R19) and the values the spec leaves open. An open value
is an opaque constant: nothing can evaluate it, so what is proved holds whatever it is. -/

namespace Sys2Proof.Config

/-- Cores of the device (R19). -/
def cores : Nat := 192
/-- Cores of a die (R11). -/
def coresPerDie : Nat := 96
/-- Stack size in bytes: 48 GiB (R96). -/
def stackBytes : Nat := 0xC_0000_0000
/-- DRAM stacks (R10). -/
def numStacks : Nat := 8
/-- First address past device DRAM (R96). -/
def dramEnd : Nat := 0x60_0000_0000
/-- First address of Vellum (R96). -/
def vellumBase : Nat := 0x1_0000_0000_0000
/-- First address past Vellum (R96). -/
def vellumEnd : Nat := 0x1_0400_0000_0000
/-- Bytes of one Vellum stack (R96). -/
def vellumStackBytes : Nat := 0x100_0000_0000
/-- First address of host memory (R96). -/
def hostBase : Nat := 0x4_0000_0000_0000
/-- First address of peer memory (R96). -/
def peerBase : Nat := 0x8_0000_0000_0000
/-- First address past the physical space (R96). -/
def physEnd : Nat := 0x10_0000_0000_0000
/-- Bytes of a folio (R110). -/
def folioBytes : Nat := 0x1_0000
/-- A-store, W-store and C-store of a core (R12). -/
def astoreBytes : Nat := 393216
/-- W-store bytes of a core (R12). -/
def wstoreBytes : Nat := 262144
/-- C-store bytes of a core (R12). -/
def cstoreBytes : Nat := 262144
/-- Registers of 32 bits per lane position of a core (R58). -/
def regsPerLane : Nat := 2048

/-- The next value the spec leaves open, named by the model's own counter (log entry 2). -/
opaque freeWord : Nat → Word
/-- The order in which the lanes of one instruction meet one location (R7, R328, R405): rank of a lane, by the counter
of free values. -/
opaque laneRank : Nat → Nat → Nat
/-- Cycles of skew between the dies' phase counters, fixed at a reset (R243): only its value modulo 4 is used. -/
opaque dieSkew : Nat → Nat
/-- The fixed hash that picks a line's home slice (R14): only its value modulo 48 is used. -/
opaque homeSliceHash : Nat → Nat
/-- The hash that picks the stack holding a Vellum folio's Palette copy (R110): only its value modulo 4 is used. -/
opaque paletteHash : Nat → Nat
/-- A function of SFU on an FP32 pattern, where R85 gives a bound and no exact result (log entry 9). -/
opaque sfu : SfuFn → Word → Word
/-- Whether an unacknowledged atom of a lost peer write took effect (R127), by the counter of free values. -/
opaque peerAtomTookEffect : Nat → Bool
/-- Free places of a Vellum stack at reset (R220 gives no number). -/
opaque vellumFreePlaces : Nat → Nat
/-- Bank (0 to 63) and row of a stack byte offset (R271 gives no map). -/
opaque bankOf : Nat → Nat
/-- Row of a stack byte offset. -/
opaque rowOf : Nat → Nat
/-- One less than the rows of a bank (R274 gives no number). -/
opaque lastRow : Nat
/-- Rows of a stack that the patrol reads in a pass: those of its 64 banks (R274). -/
def rowsPerStack : Nat := (lastRow + 1) * 64
/-- A measurement that attestation reports (R290): 0 the fuses, 1 the main slot, 2 the recovery slot. -/
opaque measurement : Nat → BitVec 64
/-- DRAM column of a stack byte offset (R204 records it, no rule maps it). -/
opaque columnOf : Nat → Nat
/-- An intersection test of R182 on an infinite or NaN origin, direction or vertex, whose exact result no rule states:
the words tested to hit, t, u, v and the sign of the determinant. -/
opaque openTest : List (BitVec 32) → Bool × BitVec 32 × BitVec 32 × BitVec 32 × Bool
/-- A component of an excursion's ray whose exact sum no rule states, by the words summed (R189). -/
opaque openSum : List (BitVec 32) → BitVec 32
/-- The physical slot pairing the dispatcher picks is fixed; the order of cores inside a span is its own (R236). -/
opaque spanOrder : Nat → Nat

end Sys2Proof.Config
end

