-- ==== Sys2Proof/Machine/Num.lean ====
section
/-! DEFINITION. Num.lean: exact numbers and the element formats of R68 to R79. A finite number is held exactly as a
signed dyadic; a result that is no dyadic (a division) is rounded from a fraction. -/

namespace Sys2Proof.Machine

/-- An exact finite number (-1)^neg × m × 2^e; zero keeps its sign (R73, step 5). -/
structure Dy where
  neg : Bool
  m : Nat
  e : Int
  deriving DecidableEq, Repr

/-- A decoded value: a finite number, an infinity or NaN. -/
inductive XVal where
  | fin (d : Dy)
  | inf (neg : Bool)
  | nan
  deriving DecidableEq, Repr

/-- The element formats of R68, by their names. -/
inductive Fmt where
  | f32 | f16 | bf16 | e4m3 | e5m2 | tp8 | e2m3 | e3m2 | e2m1 | s8
  deriving DecidableEq, Repr

/-- Rounding modes of R73 without SR, which draws (R75). -/
inductive RMode where
  | rne | rz | rd | ru
  deriving DecidableEq, Repr

/-- The sticky exception flags of R88, in the order of R153: invalid is bit 0. -/
structure FpFlags where
  invalid : Bool := false
  divZero : Bool := false
  overflow : Bool := false
  underflow : Bool := false
  inexact : Bool := false
  deriving DecidableEq, Repr

end Sys2Proof.Machine
end

