-- ==== Sys2Proof/Machine/State.lean ====
section
/-! DEFINITION. State.lean: everything the spec gives the machine, as plain data, and the machine right after reset.
A map from numbers is a list of pairs with rising keys; a number it does not list holds the map's default. Fields
the spec does not name (cur, agenda, picks, free, watched, seen) are the model's own. -/

namespace Sys2Proof.Machine

/-- A map from numbers, as a list with strictly rising keys. -/
abbrev NMap (α : Type) := List (Nat × α)

/-! ## Splits, slices and groups (02, 03, 12) -/

/-- A mask-stack entry (R31). -/
structure MaskEntry where
  saved : BitVec 4
  pending : BitVec 4
  pendingPc : DWord
  join : Option DWord
  fmt : Word
  deriving DecidableEq, Repr

/-- A slice: the lanes that run, the lanes that have not exited, its mask stack newest first, and how many older
entries lie in the divergence spill area (R31, R34). -/
structure Slice where
  mask : BitVec 4
  live : BitVec 4
  stack : List MaskEntry
  spilled : Nat
  deriving DecidableEq, Repr

/-- The fault registers of a split (R63, R64). -/
structure FaultRegs where
  cause : Word := 0
  pc : DWord := 0
  addr : DWord := 0
  lanes : BitVec 128 := 0
  progress : Word := 0
  info : DWord := 0
  deriving DecidableEq, Repr

/-- Fields of an HX hint (R304). -/
structure Hx where
  rc : BitVec 4 := 0
  pol : BitVec 3 := 0
  z : Bool := false
  sat : Bool := false
  had : BitVec 2 := 0
  sched : BitVec 4 := 0
  w : Bool := false
  deriving DecidableEq, Repr

/-- The hints a split has passed and whose consumer it has not issued yet (R306): each hint, and the words. -/
structure Prefix where
  hfwd : Option (BitVec 4 × BitVec 2) := none
  hx : Option Hx := none
  himm : List (BitVec 21) := []
  words : List Word := []
  start : DWord := 0
  deriving DecidableEq, Repr

/-- What a trap records (R244). -/
structure Trap where
  cause : Nat
  addr : DWord := 0
  lanes : BitVec 128 := 0
  info : DWord := 0
  progress : Nat := 0
  deriving DecidableEq, Repr

/-- Where a byte barrier lies: a core's A-store offset, or a physical address. -/
inductive BarPlace where
  | astore (core offset : Nat)
  | dram (pa : Nat)
  deriving DecidableEq, Repr

/-- The waiting states of R43, with `held` for an instruction held in its collector (R143, R173, R219), `drain` for a
trap that waits for the split's outstanding long results (R247), and no state of its own for Y, whose park is told by
`ypark` and the outstanding long results. -/
inductive Wait where
  | ready
  | held
  | drain (t : Trap) (redo : Option (BitVec 128))
  | bar
  | cad (level : CadLevel)
  | phase (n : Nat) (q : BitVec 3)
  | byteBarrier (place : BarPlace) (addr : DWord) (ph : Bool)
  | mwait (n : Nat)
  | oprdy
  | forwarded
  | regang (pc : DWord)
  /-- Asleep on a ring (header, and WIDX when it fell asleep) until a time in ps, if it has a timeout (R156). -/
  | sleep (header : Nat) (deadline : Option Nat)
  /-- Waiting for a page's resolution (R256): die, address space, page; the trap that a fail gives, and where the split
  would go on after it (R259). -/
  | replay (die asid page : Nat) (t : Trap) (after : DWord)
  deriving DecidableEq, Repr

/-- Attributes of a leaf that an access obeys (R97). -/
structure Attr where
  cm : Nat := 0
  n : Bool := false
  m : Bool := false
  isSealed : Bool := false
  vellum : Bool := false
  rcok : Bool := false
  csrc : Bool := false
  deriving DecidableEq, Repr

/-- Cache policy of an access (R101) and the class of its region (R103). -/
structure Pol where
  code : Nat := 0
  rc : Nat := 0
  cls : Nat := 0
  deriving DecidableEq, Repr

/-- A view block that a load waits for: view, view block, physical master block, version to reach (R213, R215). -/
structure ViewWait where
  view : Nat
  vblock : Nat
  master : Nat
  version : Nat
  deriving DecidableEq, Repr

/-- A lane for which a condition becomes known as a load's data return (R375): cause, address, record, and the register
of an LDM at which it was found. -/
structure LateBad where
  lane : Nat
  cause : Nat
  addr : DWord
  info : DWord := 0
  idx : Nat := 0
  deriving DecidableEq, Repr

/-- What an outstanding long result still waits for (R300). -/
inductive PendKind where
  /-- Nothing: its value is known. -/
  | value
  /-- A load whose parts are not all known: Vellum folios not yet resident (R110), view blocks not yet written (R213),
  and conditions that become known as its data return (R375). -/
  | mem (folios : List Nat) (views : List ViewWait) (bad : List LateBad)
  /-- A fence, by its number (R126). -/
  | fence (id : Nat)
  /-- Wash requests, by their number (R417). -/
  | wash (id : Nat)
  /-- A late trap, taken before the split's next instruction (R375). -/
  | late (bad : List LateBad)
  deriving DecidableEq, Repr

/-- A part of a load: the lane and its register (or a scalar register), the register's place in an LDM, the bytes it reads,
and their value once it is read. -/
structure LoadPart where
  lane : Nat
  reg : Nat
  isScalar : Bool := false
  idx : Nat := 0
  va : Nat
  pa : Nat
  bytes : Nat
  sext : Bool := false
  attr : Attr
  pol : Pol
  data : Option Nat := none
  deriving DecidableEq, Repr

/-- An outstanding long result (R300): the registers it will write, as computed at issue (R397). -/
structure LongResult where
  kind : PendKind
  pc : DWord
  /-- Address after a load's pair (R247, R375). -/
  next : DWord := 0
  /-- Lanes of the slices of the split that issued it: the splits that hold one of them wait for it. -/
  owner : BitVec 128
  /-- Active lanes. -/
  lanes : BitVec 128
  /-- Vector destinations: lane × 256 + effective register, value. -/
  v : List (Nat × Word) := []
  /-- Scalar destinations. -/
  s : List (Nat × Word) := []
  /-- Q destination. -/
  q : Option (Nat × Bool) := none
  /-- Parts of a load whose bytes are still to be read. -/
  parts : List LoadPart := []
  /-- Destinations written since issue: their final value is open (R300). Scalar n is listed as 32768 + n. -/
  clobbered : List Nat := []
  /-- A load of a Vellum folio that a pre-emption deadline has aborted: it is issued again at the restore (R261). -/
  aborted : Bool := false
  deriving DecidableEq, Repr

/-- What an instruction has moved that a late trap comes before: registers of an LDM or STM, the data an STM captured, and what
TRAPRET #0 executes again (R257, R375, R406). -/
structure Moved where
  count : Nat := 0
  data : List (Nat × Word) := []
  redo : Option (BitVec 128 × Option DWord) := none
  deriving DecidableEq, Repr

/-- The resume state a trap records (R247), with what TRAPRET #0 has to do again where that is less than the whole
instruction (R257, R329, R375). -/
structure Resume where
  masks : List (Nat × BitVec 4)
  fmt : Word
  join : Option DWord
  after : DWord
  redo : Option (BitVec 128)
  late : Bool
  progress : Nat
  /-- What the instructions at the resume-after address, and after it, have moved already (R257, R375). -/
  later : List Moved := []
  deriving DecidableEq, Repr

/-- A split (R21, R27, R29). -/
structure Split where
  /-- Number of the split in its group. -/
  id : Nat
  slices : List Nat
  pc : DWord
  fmt : Word
  join : Option DWord := none
  fork : Option Nat := none
  age : Nat := 0
  wait : Wait := .ready
  /-- The last word issued had Y = 1 (R300). -/
  ypark : Bool := false
  hints : Prefix := {}
  flt : FaultRegs := {}
  resume : Option Resume := none
  /-- Registers already moved by an LDM or STM that is replayed (R257). -/
  progress : Nat := 0
  /-- Data an STM captured at its first issue: lane × 16 + register index (R406). -/
  captured : List (Nat × Word) := []
  /-- Lanes and continuation of an instruction that TRAPRET #0 executes again alone (R329, R375). -/
  redo : Option (BitVec 128 × Option DWord) := none
  /-- What the instructions that follow one that TRAPRET #0 executes again have moved already (R257, R375). -/
  later : List Moved := []
  deriving DecidableEq, Repr

/-- A fork record (R27). -/
structure Fork where
  id : Nat
  slices : List Nat
  join : Option DWord
  fmt : Word
  parent : Option Nat
  deriving DecidableEq, Repr

/-- A request of a group that no MWAIT has covered yet (R130): its number, segment, C-store address of its tile, its A operand (first
register, or a shape record's words) and FMT, and whether the operand was written since the request was posted. -/
structure Posted where
  no : Nat
  seg : Nat
  tile : Nat
  aReg : Nat
  record : Option (List Word)
  fmt : Word
  rewritten : Bool := false
  deriving DecidableEq, Repr

/-- A resident group (R21, R26, R52). -/
structure Group where
  /-- Number in order of dispatch; lower is older (R41). -/
  id : Nat
  launch : Nat
  wg : Nat
  index : Nat
  core : Nat
  pos : Nat
  width : Nat
  vregs : Nat
  sregs : Nat
  octet : Nat
  regOffset : Nat
  itemBase : Word
  /-- Vector registers: lane × 256 + effective number; default 0. -/
  v : NMap Word := []
  s : NMap Word := []
  /-- Predicates P0 to P7 of each lane; bit 0 is never set. -/
  p : NMap Byte := []
  q : Byte := 0
  /-- Index registers: lane × 4 + n; default 0. -/
  x : NMap Byte := []
  wb : Byte := 0
  spa : BitVec 16 := 0
  /-- Stochastic-rounding generator of each lane (R75). -/
  gens : List Word := []
  phase : Nat := 0
  /-- Cycles before the phase counter counts again: the skew of a CAD release (R243). -/
  phaseHold : Nat := 0
  vstale : Bool := false
  /-- Published slots: lane × 4 + slot (R46). -/
  published : List (Nat × Word) := []
  slices : List Slice
  splits : List Split
  forks : List Fork := []
  nextFork : Nat := 0
  nextSplit : Nat := 1
  /-- Outstanding long results of its splits (R300). -/
  pend : List LongResult := []
  /-- Vector registers (lane × 256 + effective number) and ranges of the A-store window written since its last OPRDY (R130). -/
  touched : List Nat := []
  touchedA : List (Nat × Nat) := []
  /-- Ranges of the window that engines and other groups have written and that it has not acquired since (R130, R423). -/
  foreignA : List (Nat × Nat) := []
  /-- Its requests that no MWAIT has covered yet (R130). -/
  posted : List Posted := []
  deriving DecidableEq, Repr

/-- A request of the reservation table with the values captured at issue (R163, R169, R173). -/
structure YokeReq where
  id : Nat
  /-- Its number in the device, which a restore keeps. -/
  no : Nat
  core : Nat
  launch : Nat
  wg : Nat
  group : Nat
  seg : Nat
  isLoad : Bool
  /-- Physical slot. -/
  slot : Nat
  prio : Nat
  /-- Grants of the team when it entered (R174). -/
  entered : Nat
  /-- C-store address of the tile. -/
  tile : Nat
  /-- First effective A register; a shape record's words otherwise. -/
  aReg : Nat
  record : Option (List Word)
  fmt : Word
  spa : BitVec 16
  neg : Bool
  nacc : Bool
  had : Nat
  sat : Bool
  uns : Bool
  /-- Its A operand had been written since the group's last `OPRDY` (R130). -/
  openA : Bool
  /-- A load: columns whose source bytes were written since it was posted (R164). -/
  openCols : List Nat := []
  deriving DecidableEq, Repr

/-! ## Launches and workgroups (11) -/

/-- A launch descriptor (R230). -/
structure LaunchDesc where
  entry : DWord := 0
  args : DWord := 0
  spill : DWord := 0
  gridX : Nat := 1
  gridY : Nat := 1
  gridZ : Nat := 1
  width : Nat := 8
  groups : Nat := 1
  vregs : Nat := 8
  sregs : Nat := 16
  astore : Nat := 0
  stencils : Nat := 0
  ctiles : Nat := 0
  kmax : Nat := 0
  slots : Nat := 1
  chainScope : Scope := .core
  defaults : List Word := [0, 0, 0, 0]
  region : Nat := 0
  priv : Bool := false
  cosched : Bool := false
  serial : Bool := false
  pclass : Nat := 0
  batchBase : Nat := 0
  batchCount : Nat := 0
  waits : List DWord := []
  deriving DecidableEq, Repr

/-- Cache class settings (R103). -/
structure ClassSet where
  tways : BitVec 16
  hways : BitVec 16
  prio : Nat
  tfloor : Nat
  hfloor : Nat
  deriving DecidableEq, Repr

/-- A registered region with its inherited fields resolved (R224, R225). -/
structure Region where
  addr : Nat
  parent : Nat
  prio : Nat
  quantum : Nat
  cls : Nat
  isSealed : Bool
  privOk : Bool
  landingPad : Bool
  kill : Bool
  domRoot : Bool
  cores : Nat
  stencils : Nat
  regKib : Nat
  astKib : Nat
  set : ClassSet
  bwShare : Nat
  paddocks : Nat
  endureHere : Bool
  batchBase : Nat
  batchCount : Nat
  cring : DWord
  ering : DWord
  trapBase : DWord
  deadline0 : Nat
  deadline1 : Nat
  deriving DecidableEq, Repr

/-- A launch that is being placed or runs (R21, R229). -/
structure Launch where
  id : Nat
  queue : Nat
  asid : Nat
  desc : LaunchDesc
  placed : Nat := 0
  retired : Nat := 0
  flags : FpFlags := {}
  /-- Cause of the first fatal trap (R250). -/
  fatal : Option Nat := none
  completed : Bool := false
  /-- Refused or aborted before any workgroup of it was placed (R232). -/
  refused : Bool := false
  /-- Its region as it stood at its last placement: a change applies to later placements (R225). -/
  terms : Option Region := none
  deriving DecidableEq, Repr

/-- One group's arrival at a collective DRAY (R140, R141). -/
structure DrayArrival where
  group : Nat
  core : Nat
  words : List Word
  first : Nat
  count : Nat
  /-- Physical address of its barrier, where that is a global one, as found at its issue. -/
  barPa : Nat
  deriving DecidableEq, Repr

/-- A collective DRAY that has not started (R141). -/
structure DrayColl where
  channel : Nat
  post : Bool
  dec : Bool
  hold : Bool
  arrivals : List DrayArrival
  /-- The last-arriving group, whose DRAY trapped at the start and makes it again (R141). -/
  trapped : Option Nat := none
  deriving DecidableEq, Repr

/-- A resident workgroup and its reservations (R22, R23, R24, R90, R159). -/
structure Workgroup where
  launch : Nat
  wg : Nat
  cores : List Nat
  groupsLeft : Nat
  /-- A-store bytes reserved per span position, B of R24. -/
  aBytes : Nat
  /-- Core, then A-store, W-store and C-store base there. -/
  aBase : NMap Nat
  wBase : NMap Nat
  cBase : NMap Nat
  /-- Team, then its physical slots in logical order (R159). -/
  slots : NMap (List Nat)
  trapBase : DWord
  isSealed : Bool
  priv : Bool
  landingPad : Bool
  dray : List DrayColl := []
  /-- Stopped for a save (R261), with the ungranted Yoke entries removed then, in table order (R177). -/
  stopping : Bool := false
  removed : List YokeReq := []
  /-- Its region as it stood when it was placed (R225). -/
  terms : Option Region := none
  deriving DecidableEq, Repr

/-- Items of a chained launch whose publication is deferred (R48): launch, item, slot, core and group of the lane. -/
structure Deferred where
  launch : Nat
  item : Nat
  slot : Nat
  core : Nat
  group : Nat
  deriving DecidableEq, Repr

/-- A published slot in the Relay (R49): item, slot, value, and the cores and groups whose writes the publication released
(R131), the exiting or publishing item's first. -/
structure RelaySlot where
  item : Nat
  slot : Nat
  value : Word
  from_ : List (Nat × Nat)
  deriving DecidableEq, Repr

/-- A Relay entry (R49): the group that took it, its workgroup and core, its items, and the slots it holds: those of the last 16
items up to the group's last, and an older one that a deferred publication still has to read (log entry 22). -/
structure RelayEntry where
  launch : Nat
  wg : Nat
  group : Nat
  core : Nat
  first : Nat
  width : Nat
  slots : List RelaySlot := []
  /-- The group that holds its next items has retired. -/
  served : Bool := false
  deriving DecidableEq, Repr

/-! ## Memory, caches and translation (05, 06, 12) -/

/-- A coherence scope a pin records (R121). -/
structure Pin where
  atom : Nat
  scope : Scope
  owner : Nat
  launch : Nat
  wg : Nat
  deriving DecidableEq, Repr

/-- A line of an L1 or a team cache (R98, R102, R104): owner is a core or a team. -/
structure CacheLine where
  owner : Nat
  line : Nat
  bytes : List Byte
  dirty : BitVec 128
  way : Nat
  cls : Nat
  prio : Nat
  used : Nat
  count : Option Nat
  /-- An acquire has passed over it since its clean bytes were fetched: they are no copy any more (R114, R117). -/
  stale : Bool := false
  /-- Group and lane of each writer of its dirty bytes, where the line is a peer's (R127). -/
  own : List (Nat × Nat) := []
  deriving DecidableEq, Repr

/-- A line of a home cache: which die, slice, way and class hold it, and its dirty mask. The bytes of a home line and of its DRAM
atoms are one value in the model, since the home cache is the single cached copy and every access that goes past it recalls the line
(R98, R100, R108). -/
structure HomeLine where
  die : Nat
  slice : Nat
  line : Nat
  way : Nat
  cls : Nat
  prio : Nat
  used : Nat
  dirty : BitVec 128 := 0
  deriving DecidableEq, Repr

/-- A posted active message (R119, R324). -/
structure Amsg where
  group : Nat
  lane : Nat
  core : Nat
  pa : Nat
  op : AmsgOp
  size : Nat
  data : DWord
  deriving DecidableEq, Repr

/-- Write-combining buffer of a core (R97): line, bytes and mask. -/
structure WcBuf where
  line : Nat
  bytes : List Byte
  mask : BitVec 128
  /-- Group and lane of each writer, where the line is a peer's (R127). -/
  own : List (Nat × Nat) := []
  deriving DecidableEq, Repr

/-- An outstanding fence (R126, R127, R215): who issued it, its lanes, its range if it has one, what it still has to do. -/
structure FenceRec where
  id : Nat
  group : Nat
  core : Nat
  launch : Nat
  wg : Nat
  split : Nat
  lanes : BitVec 128
  acq : Bool
  rel : Bool
  scope : Scope
  range : Option (Nat × Nat)
  q : Option Nat
  /-- VFENCE: physical master blocks with the version to reach (R215). -/
  blocks : List (Nat × Nat)
  isView : Bool
  deriving DecidableEq, Repr

/-- A posted write to a peer that is not acknowledged (R127): the groups and lanes whose bytes it carries, and, once it has been
given up, the CODE of its loss, which is still to be told to the lanes left in `own`. -/
structure PeerWrite where
  peer : Nat
  pa : Nat
  bytes : List Byte
  own : List (Nat × Nat)
  lost : Option Nat := none
  deriving DecidableEq, Repr

/-- The caches and the op units' work (R98 to R124). -/
structure Caches where
  l1 : List CacheLine := []
  team : List CacheLine := []
  home : List HomeLine := []
  wc : NMap WcBuf := []
  teamPins : List Pin := []
  homePins : List Pin := []
  /-- Atoms reserved for a retried access, each with the pin that was promoted for it (R122). -/
  reserved : List Pin := []
  classes : NMap ClassSet := []
  /-- Instruction caches: core × 2^60 + word number, word (R298). -/
  icache : NMap Word := []
  amsgs : List Amsg := []
  fences : List FenceRec := []
  nextFence : Nat := 0
  peerWrites : List PeerWrite := []
  /-- Recency clock of the replacement of R104. -/
  tick : Nat := 0
  deriving DecidableEq, Repr

/-- Flag bits a controller keeps beside an atom (R108, R268). H is told by the home lines, N and M by the ranges of
`Meta`, MIG by the marks of a migration. -/
structure AtomFlags where
  x : Bool := false
  p : Bool := false
  /-- Under host bias, which sets X on every atom of its pages: the host has given this one back (R108, R284). -/
  back : Bool := false
  deriving DecidableEq, Repr

/-- A master block's DIRTY bit and VERSION, and when it was last marked (R209, R210). -/
structure MasterBlock where
  dirty : Bool
  version : Nat
  marked : Nat
  deriving DecidableEq, Repr

/-- A page migration of a stack (R276 to R278), and whether its STATUS shows a later start that was refused. -/
structure Mig where
  status : Nat := 0
  src : Nat := 0
  dst : Nat := 0
  len : Nat := 0
  pass : Nat := 0
  refused : Bool := false
  marks : List Nat := []
  deriving DecidableEq, Repr

/-- ECC_STATUS of a stack (R270). -/
structure Ecc where
  ce : Nat := 0
  ue : Nat := 0
  last : Nat := 0
  deriving DecidableEq, Repr

/-- What the controllers keep beside the bytes (R105, R108, R209, R268). -/
structure Meta where
  flags : NMap AtomFlags := []
  /-- Atoms with an error in their stored code word: the symbols, of its 37, that are wrong (R268). -/
  errs : NMap (List Nat) := []
  /-- Physical ranges (first byte, length) of pages with N set. -/
  nRanges : List (Nat × Nat) := []
  /-- The same of pages with M set, and the time in ps at which the controller set it (R209). -/
  mRanges : List (Nat × Nat × Nat) := []
  blocks : NMap MasterBlock := []
  migs : NMap Mig := []
  ecc : NMap Ecc := []
  /-- Uncorrectable atoms found whose Colophon event is still to be written (R270). -/
  ueSeen : List Nat := []
  /-- 64 KiB pages under host bias (R284): X is set on every atom of them that the host has not given back. -/
  hostBias : List Nat := []
  /-- Model's own: ranges whose every write is noted (objects of wait conditions, WIDX of rings with sleepers: R156, R231), and the
  writes noted since a step last looked: the range's address and its bytes after the write. -/
  watched : List (Nat × Nat) := []
  seen : List (Nat × List Byte) := []
  deriving DecidableEq, Repr

/-- A binding of an ASID (R430). -/
structure Binding where
  root : Nat
  isSealed : Bool
  deriving DecidableEq, Repr

/-- Which structure of R255 holds a translation entry. -/
inductive TlbHolder where
  | core (c : Nat) | team (t : Nat) | stack (s : Nat) | die (d : Nat)
  deriving DecidableEq, Repr

/-- A held table entry or leaf (R255): level, the VA bits above it, the entry. -/
structure TlbEntry where
  holder : TlbHolder
  asid : Nat
  level : Nat
  tag : Nat
  entry : DWord
  deriving DecidableEq, Repr

/-- A fault record that is not resolved (R258): die, address space, page. -/
structure FaultRec where
  die : Nat
  asid : Nat
  page : Nat
  deriving DecidableEq, Repr

/-- Memory: the bytes at their homes, what the controllers keep beside them, and the caches. -/
structure MemSys where
  /-- Bytes of the physical space, in canonical form. -/
  mem : List Host.Cell := []
  dram : Meta := {}
  cache : Caches := {}
  deriving DecidableEq, Repr

/-- Translation (R252 to R259, R430). -/
structure Xlat where
  binds : NMap Binding := []
  tlb : List TlbEntry := []
  records : List FaultRec := []
  /-- Invalidations under way: die, asid, first page, pages (R255, R279). -/
  invals : List (Nat × Nat × Nat × Nat) := []
  deriving DecidableEq, Repr

/-! ## Copies, barriers and rings (07) -/

/-- An update on its way to a barrier's place (R134, R136, R137). -/
inductive BarUpd where
  | arrive
  | deliver (n : Nat)
  | expect (n : Nat)
  | error (code : Nat)
  deriving DecidableEq, Repr

/-- An update on its way: its barrier, what it does, and the core whose agent makes it; none: an engine located on no core (R111). -/
structure BarMsg where
  place : BarPlace
  upd : BarUpd
  core : Option Nat := none
  deriving DecidableEq, Repr

/-- A copy posted on a channel (R139 to R151). -/
structure CopyJob where
  /-- View blocks that its next read waits for, with the versions they had when it reached the home (R212). -/
  waits : List ViewWait := []
  launch : Nat
  wg : Nat
  core : Nat
  asid : Nat
  isSealed : Bool
  gather : Bool
  dec : Bool
  words : List Word
  /-- Slices (first index, count) of this channel in rising order. -/
  slices : List (Nat × Nat)
  bar : Option BarPlace
  /-- Bytes delivered so far. -/
  done : Nat := 0
  /-- Decompression: address of the next header, index of its block, raw bytes before it. -/
  decPos : Nat := 0
  decIdx : Nat := 0
  decRaw : Nat := 0
  deriving DecidableEq, Repr

/-- Running state of a channel (R143, R144). -/
structure Channel where
  jobs : List CopyJob := []
  /-- Copies that have started with the queue full; they enter it in order as places free. -/
  late : List CopyJob := []
  wp : DWord := 0x8000_0000_0000_0000#64
  /-- Parked on a page's translation fault: die, asid, address; CODE of the record if the resolution fails (R144). -/
  parked : Option (Nat × Nat × Nat) := none
  parkCode : Nat := 0
  deriving DecidableEq, Repr

/-- A record on its way into a ring (R152, R431): header, address space of the header, the 32 bytes without SEQ. -/
structure RingRec where
  header : Nat
  /-- Virtual header in this address space; none: physical. -/
  asid : Option Nat
  /-- Whose fault queue a translation fault goes to. -/
  die : Nat
  words : List Word
  /-- SOURCE and unit of a translation fault of its write (R258). -/
  source : Nat
  unit : Nat
  /-- The index it has taken (R152). -/
  index : Option Nat := none
  /-- The paddock whose job writes it, and whether its failure has stopped that job (R204). -/
  job : Option Nat := none
  stopped : Bool := false
  /-- Waiting for a page's resolution: die, asid, address. -/
  parked : Option (Nat × Nat × Nat) := none
  deriving DecidableEq, Repr

/-- Copy engines and rings (07). -/
structure Copies where
  /-- core × 6 + channel. -/
  chans : NMap Channel := []
  updates : List BarMsg := []
  /-- A-store barriers of which a phase, told by its number, has counted engine-delivered bytes in global memory (R128). -/
  memPhases : List (BarPlace × Bool) := []
  rings : List RingRec := []
  /-- Chunks to a peer that wait for its acknowledgement (R144): channel key, bytes, peer. -/
  peerChunks : List (Nat × Nat × Nat) := []
  deriving DecidableEq, Repr

/-! ## Yoke (08) -/

/-- A slot's record at the reservation table and the plane that it names (R158, R163, R170): the class recorded when an
`LDSTN` entered the table, the KLEN of the loaded stencil and its columns, held exactly. -/
structure Plane where
  cls : Nat
  klen : Nat := 0
  cols : List (List XVal) := []
  deriving DecidableEq, Repr

/-- One team's Yoke (R13, R158, R173, R174). -/
structure Yoke where
  /-- The reservation table, oldest entry first. -/
  table : List YokeReq := []
  /-- Entries of restored workgroups that wait for room in the table, ahead of any new request (R177). -/
  waiting : List YokeReq := []
  /-- Granted passes and loads that have not been written, oldest grant first. -/
  running : List YokeReq := []
  /-- Physical slot to its record and plane. -/
  planes : NMap Plane := []
  /-- Pane to its front plane, 0 or 1. -/
  front : NMap Nat := []
  grants : Nat := 0
  nextId : Nat := 0
  deriving DecidableEq, Repr

/-! ## Rendering (09) -/

/-- What a reference of a traversal stack names: a node, a run of leaf records, or an instance record (R180, R181). -/
inductive RefKind where
  | node | tris | procs | inst
  deriving DecidableEq, Repr

/-- A reference of a local stack: its address, and the records left of a run (R189). -/
structure RayRef where
  kind : RefKind
  addr : Nat
  left : Nat
  deriving DecidableEq, Repr

/-- A ray message (R187), with what its descriptors gave at the `RAYSEND`: the bank's base, the generation, the physical
structure descriptor and barrier. -/
structure RayMsg where
  /-- Origin and direction. -/
  geom : List Word
  tmin : Word
  tmax : Word
  ray : Word
  batch : Nat
  first : Bool
  cullb : Bool
  opq : Bool
  bank : Nat
  back : Bool
  proc : Bool
  incomplete : Bool
  terminated : Bool
  bestPrim : Word
  bestInst : Word
  /-- Best u and v, which lie in the spill slot (R188). -/
  bestU : Word := 0
  bestV : Word := 0
  /-- Pending list: treelet, FP16 distance; the first four in the message, up to 40 in the slot (R187, R188). -/
  pend : List (Nat × Nat) := []
  gen : Nat
  base : Nat
  desc : Nat
  bar : Nat
  launch : Nat
  deriving DecidableEq, Repr

/-- An excursion into an instanced structure (R189). -/
structure Excursion where
  inst : Word
  desc : Nat
  base : Nat
  bank : Nat
  geom : List Word
  stack : List RayRef
  deriving DecidableEq, Repr

/-- Traversal state of a ray: its treelet, the local stack, and the excursion if it is in one (R189). -/
structure RayWork where
  msg : RayMsg
  tid : Nat
  stack : List RayRef
  exc : Option Excursion := none
  /-- View blocks that its next read waits for (R212). -/
  waits : List ViewWait := []
  deriving DecidableEq, Repr

/-- A candidate waiting for a CBACK (R192, R193); SEQ once its record has an index. -/
structure WaitingRay where
  stackNo : Nat
  work : RayWork
  header : Nat
  seq : Option Word
  t : Word
  u : Word
  v : Word
  prim : Word
  inst : Word
  back : Bool
  isProc : Bool
  deriving DecidableEq, Repr

/-- A ray message on its way: the stack of its treelet once its sender has translated it (R17, R204), and the stack whose Courser
sent it, or else the core. -/
structure Flight where
  work : RayWork
  stack : Option Nat
  core : Nat
  courser : Option Nat := none
  parked : Option (Nat × Nat × Nat) := none
  deriving DecidableEq, Repr

/-- A paddock (R190, R191): its number, its treelet (address, id, address space), the region it counts for, and its
messages. -/
structure Paddock where
  no : Nat
  treelet : Nat
  tid : Nat
  asid : Nat
  region : Nat
  fifo : List RayWork := []
  spill : List RayWork := []
  unserved : Nat := 0
  stopped : Bool := false
  parked : Option (Nat × Nat × Nat) := none
  deriving DecidableEq, Repr

/-- A Courser's waiting chain (R190): treelet address and message, and whether a write of it stopped or parked (R204). -/
structure WaitChain where
  rays : List (Nat × RayWork) := []
  stopped : Bool := false
  parked : Option (Nat × Nat × Nat) := none
  deriving DecidableEq, Repr

/-- An entry of the batch table (R183). -/
structure Batch where
  words : List Word
  asid : Nat
  region : Nat
  launch : Nat
  /-- PADDOCKS of the issuing workgroup's region, as at its placement (R225, R227). -/
  paddocks : Nat := 64
  deriving DecidableEq, Repr

/-- A Wash request (R198, R417). -/
structure WashReq where
  id : Nat
  group : Nat
  lane : Nat
  launch : Nat
  wg : Nat
  asid : Nat
  stack : Nat
  words : List Word
  coords : List Word
  /-- View blocks that its next read waits for (R212). -/
  waits : List ViewWait := []
  stopped : Bool := false
  parked : Option (Nat × Nat × Nat) := none
  deriving DecidableEq, Repr

/-- An answer on its way to a Courser, and the core and split (group, number) that sent it (R193, R342). -/
structure Answer where
  core : Nat
  split : Nat × Nat
  stack : Nat
  asid : Nat
  region : Nat
  words : List Word
  code : CbackCode
  parked : Option (Nat × Nat × Nat) := none
  deriving DecidableEq, Repr

/-- A line of a Courser's node cache (R16, R186): its address space and address, and its bytes as they were read. -/
structure NodeLine where
  stack : Nat
  asid : Nat
  va : Nat
  bytes : List Byte
  deriving DecidableEq, Repr

/-- An INFLIGHT subtraction on its way (R194, R197): the physical address of the descriptor, the bank, the stack of the Courser that
sends it, and its ray's barrier, whose PENDING is lowered first. -/
structure InflightSub where
  desc : Nat
  bank : Nat
  courser : Nat
  bar : Option Nat
  deriving DecidableEq, Repr

/-- The Coursers and Washes (09). -/
structure Render where
  /-- The Coursers' node caches, latest read first. -/
  nodes : List NodeLine := []
  batches : NMap Batch := []
  flying : List Flight := []
  /-- Stack to its paddocks. -/
  paddocks : NMap (List Paddock) := []
  waiting : NMap WaitChain := []
  answering : List WaitingRay := []
  answers : List Answer := []
  /-- INFLIGHT subtractions on their way (R197). -/
  subs : List InflightSub := []
  /-- Address space of the context that last published a descriptor (R431). -/
  published : NMap Nat := []
  washes : List WashReq := []
  nextWash : Nat := 0
  /-- Launches whose rays finish as by an abort (R250). -/
  dying : List Nat := []
  deriving DecidableEq, Repr

/-! ## Views and the Vellum tier (10) -/

/-- A recomputation under way (R210): physical master block, version, the views still to be written, each with the number of its view
block, and the other view blocks of a malformed entry that are still to be poisoned (R207). -/
structure ViewJob where
  block : Nat
  version : Nat
  views : List (Nat × Nat)
  poison : List (Nat × Nat) := []
  /-- An abort has still to poison the present view block with cause 4 (R204, R216). -/
  aborted : Bool := false
  stopped : Bool
  parked : Option (Nat × Nat × Nat)
  /-- The master block as read once, and whether an atom of it was poisoned. -/
  data : Option (List Byte × Bool)
  deriving DecidableEq, Repr

/-- An install (R219, R220), or a folio of a checkpoint's stream into Vellum (R222): its checkpoint and its bytes. -/
structure Install where
  ckpt : Option Nat := none
  data : List Byte := []
  launch : Nat
  region : Nat
  asid : Nat
  isSealed : Bool
  src : Nat
  dst : Nat
  len : Nat
  tag : DWord
  done : Nat := 0
  remapped : Bool := false
  /-- CRING of the issuing workgroup's region, as at its placement (R225). -/
  cring : Option DWord := none
  deriving DecidableEq, Repr

/-- A checkpoint (R222, R223, R344). -/
structure Ckpt where
  id : Nat
  launch : Nat
  region : Nat
  asid : Nat
  isSealed : Bool
  src : Nat
  blocks : Nat
  htab : Nat
  dst : Nat
  tag : DWord
  full : Bool
  /-- Blocks not yet handled. -/
  left : List Nat
  /-- Entries streamed so far. -/
  entries : Nat := 0
  skipped : Nat := 0
  /-- The stream goes to Vellum: its Vellum stack, the bytes not yet given to it, folios given to it and programmed. -/
  vellum : Option Nat
  buf : List Byte := []
  queued : Nat := 0
  programmed : Nat := 0
  /-- STATUS of the stop that ended it. -/
  ended : Option Nat := none
  /-- CRING of the issuing workgroup's region, as at its placement (R225). -/
  cring : Option DWord := none
  deriving DecidableEq, Repr

/-- A stream entry that waits for its acknowledgement (R222): checkpoint, block, hash, and the end of its bytes in the
stream. -/
structure CkptAck where
  ckpt : Nat
  block : Nat
  hash : List Byte
  upto : Nat
  parked : Option (Nat × Nat × Nat) := none
  deriving DecidableEq, Repr

/-- A Blotter job that is stopped or parked (R203, R204): stack, checkpoint, block. -/
structure BlockJob where
  stack : Nat
  ckpt : Nat
  block : Nat
  stopped : Bool := false
  parked : Option (Nat × Nat × Nat) := none
  deriving DecidableEq, Repr

/-- A TPF bound to a barrier (R218, R262): folios not yet resident. -/
structure TpfBind where
  launch : Nat
  wg : Nat
  bar : BarPlace
  folios : List Nat
  deriving DecidableEq, Repr

/-- A binding to a barrier of the A-store, which ends with its workgroup; one to a global barrier goes on (R262). -/
def TpfBind.isLocal (t : TpfBind) : Bool := match t.bar with | .astore _ _ => true | .dram _ => false

/-- Views and the tier (10). -/
structure Tier where
  jobs : List ViewJob := []
  /-- Malformed view entries that the Copyist has met: index and bytes (R207). -/
  badViews : List (Nat × List Byte) := []
  /-- Resident folios, least recently used first (R217). -/
  palette : List Nat := []
  fills : List Nat := []
  tpf : List TpfBind := []
  /-- Vellum stack to its queue of installs. -/
  installs : NMap (List Install) := []
  /-- Free places taken or given back since reset, per Vellum stack. -/
  placesUsed : NMap Nat := []
  placesFreed : NMap Nat := []
  ckpts : List Ckpt := []
  acks : List CkptAck := []
  nextCkpt : Nat := 0
  /-- Blotter jobs that are stopped or parked. -/
  blocked : List BlockJob := []
  deriving DecidableEq, Repr

/-! ## Regions, queues and dispatch (11) -/

/-- A registered queue (R228, R235, R237). -/
structure Queue where
  num : Nat
  header : Nat
  asid : Nat
  region : Nat
  tail : Nat
  deficit : Nat := 0
  waitCount : Nat := 0
  /-- Conditions of the head launch that are met (R231). -/
  condMet : List Nat := []
  /-- Conditions of the head launch whose object cannot be reached: refuse (R231). -/
  condDead : List Nat := []
  condErr : Nat := 0
  /-- Conditions that wait for a page of the fault queue (R231): condition, page. -/
  condWait : List (Nat × Nat) := []
  /-- The head launch, once its descriptor has passed R232. -/
  head : Option Nat := none
  /-- Cycle at which a fit wait began (R237). -/
  fitSince : Option Nat := none
  /-- Cores drained for the head workgroup. -/
  drain : List Nat := []
  /-- Roots of killed fault domains whose registration it waits for (R251). -/
  stopped : List Nat := []
  /-- Where the object of a condition lies, once translated: condition, physical address (R231). -/
  condPa : List (Nat × Nat) := []
  /-- The launch before its head (R229). -/
  prev : Option Nat := none
  deriving DecidableEq, Repr

/-- Regions and queues (11). -/
structure Sched where
  regions : List Region := []
  queues : List Queue := []
  /-- Priority to queue number at its round-robin pointer. -/
  rr : NMap Nat := []
  launches : List Launch := []
  wgs : List Workgroup := []
  groups : List Group := []
  nextLaunch : Nat := 0
  nextGroup : Nat := 0
  deferred : List Deferred := []
  relay : List RelayEntry := []
  /-- Teams that last ran the sealed world (R288). -/
  worlds : NMap Bool := []
  deriving DecidableEq, Repr

/-- Per-core scheduler state (R41, R42, R64). -/
structure CoreSt where
  ageLimit : Nat := 256
  /-- The splits picked in the last cycle, which the scheduler keeps issuing from (R41). -/
  last : List (Nat × Nat) := []
  /-- Splits to be taken first: aged, or released by WAITPH (R42, R243). -/
  first : List (Nat × Nat) := []
  deriving DecidableEq, Repr

/-- The cores (R12). -/
structure Cores where
  cs : NMap CoreSt := []
  /-- Typed buffers: core × 2^24 + offset; default 0. -/
  astore : NMap Byte := []
  wstore : NMap Byte := []
  cstore : NMap Byte := []
  /-- Teams to their Yokes. -/
  yokes : NMap Yoke := []
  /-- Performance counters of the sched hints: core × 16 + value (R304). -/
  schedCount : NMap Nat := []
  deriving DecidableEq, Repr

/-! ## Pre-emption (12) -/

/-- A request (R280): what it names, and how far it has come. -/
structure PreReq where
  tag : Word
  die : Nat
  launch : Nat
  /-- Workgroup and save area, not yet saved. -/
  left : List (Nat × Nat)
  done : Nat
  /-- Deadline in ps of device time. -/
  deadline : Nat
  passed : Bool
  /-- Stacks that retrained after the deadline (R267); some save was late. -/
  late : List Nat
  lateSaves : Bool
  deriving DecidableEq, Repr

/-- A saved workgroup (R264), by its save area. -/
structure Saved where
  area : Nat
  /-- Identity of the firmware that wrote it (R264). -/
  firmware : Nat
  region : Nat
  launch : Nat
  desc : LaunchDesc
  wg : Workgroup
  groups : List Group
  /-- Bytes that the header's SIZE gives. -/
  size : Nat
  /-- Contents of the reservations: span position × 2^24 + offset. -/
  astore : NMap Byte
  wstore : NMap Byte
  cstore : NMap Byte
  /-- Team, then logical slot, to its plane. -/
  planes : NMap (NMap Plane)
  /-- Span position × 6 + channel to its copies and its write pointer. -/
  copies : NMap (List CopyJob)
  wps : NMap DWord
  washes : List WashReq
  tpf : List TpfBind
  deferred : List Deferred
  relay : List RelayEntry
  deriving DecidableEq, Repr

/-- Engine work of a stopped workgroup that the deadline has aborted, as the save will record it (R261): copies and write pointers
by span position × 6 + channel, and lookups. -/
structure AbortedWork where
  launch : Nat
  wg : Nat
  copies : NMap (List CopyJob)
  wps : NMap DWord
  washes : List WashReq
  deriving DecidableEq, Repr

/-- Pre-emption (R260 to R267). -/
structure Preempt where
  reqs : List PreReq := []
  aborted : List AbortedWork := []
  saved : List Saved := []
  /-- Pending restores: die, tag, areas left, done. -/
  restores : List (Nat × Word × List Nat × Nat) := []
  /-- Results of each die, oldest first (R281). -/
  results : List (Nat × DWord) := []
  deriving DecidableEq, Repr

/-! ## DRAM controllers (13) -/

/-- One stack's controller (R268 to R278, R284). -/
structure Stack where
  test : Bool := false
  thresh : Nat := 1024
  backoffs : Nat := 0
  drops : Nat := 0
  scrubEn : Bool := true
  period : Nat := 24
  /-- bank × 2^32 + row to window number modulo 4 and count (R271). -/
  act : NMap (Nat × Nat) := []
  /-- Banks in back-off with the aggressor row (R272). -/
  inBackoff : List (Nat × Nat) := []
  postponed : NMap Nat := []
  /-- 64 KiB blocks of the stack whose scrubbed bit is set (R275), and the row that the patrol reads next (R274). -/
  scrubbed : List Nat := []
  patrol : Nat := 0
  passOn : Bool := false
  passDue : Bool := false
  /-- Time in ps at which the last pass fell due. -/
  passAt : Nat := 0
  settle : Nat := 20
  engRing : Nat := 0
  migSrc : Nat := 0
  migDst : Nat := 0
  migSize : Nat := 0
  biasBase : Nat := 0
  biasOp : Nat := 0
  biasPages : Nat := 0
  biasStatus : Nat := 0
  /-- The flip under way: its first page and their number (R284). -/
  flip : Nat × Nat := (0, 0)
  /-- A retraining that waits for a save to the stack (R267). -/
  retrainDue : Bool := false
  deriving DecidableEq, Repr

/-! ## Management and platform (14) -/

/-- One die's page of management registers (R279). -/
structure Die where
  regResult : Nat := 0
  queueAsid : Nat := 0
  viewTable : Nat := 0
  faultAsid : Nat := 0
  invalAsid : Nat := 0
  part0 : Nat := 0
  part1 : Nat := 0
  faultqOpen : Nat := 0
  faultqSealed : Nat := 0
  watchCtx : Nat := 0
  /-- Four watchpoints: base, length, mode. -/
  watch : List (Nat × Nat × Nat) := [(0, 0, 0), (0, 0, 0), (0, 0, 0), (0, 0, 0)]
  asidSel : DWord := 0
  asidSelS : DWord := 0
  colophon : List (List Word) := []
  colSeq : Nat := 0
  deriving DecidableEq, Repr

/-- A firmware image in a slot (R289): its identity, its security version, the hashes of the public keys it carries, and whether its
two signatures verify under those keys. -/
structure FwImage where
  id : Nat := 0
  version : Nat := 0
  edKey : Nat := 0
  mlKey : Nat := 0
  edSigned : Bool := true
  mlSigned : Bool := true
  deriving DecidableEq, Repr

/-- What the fuses hold (R289): the hashes of the two public keys, and the rollback counter. -/
structure Fuses where
  edKey : Nat := 0
  mlKey : Nat := 0
  rollback : Nat := 0
  deriving DecidableEq, Repr

/-- Start-up, links and power (R284 to R296). -/
structure Platform where
  mainSlot : FwImage := {}
  recoverySlot : FwImage := {}
  fuses : Fuses := {}
  /-- No image has verified: the device is left in reset (R293). -/
  inReset : Bool := false
  /-- Time in ps at which the last power window ended (R296). -/
  windowAt : Nat := 0
  walk : Bool := false
  attempts : Nat := 0
  stage : Nat := 0
  reason : Nat := 0
  unit : Nat := 0
  started : Bool := false
  paletteCtl : Nat := 64
  paletteGib : Nat := 64
  powerLimit : Nat := 3200
  /-- Trained ports; ports that retrain. -/
  linkUp : BitVec 18 := 0
  linkRetraining : BitVec 18 := 0
  /-- Port to the time in ps at which it began to retrain. -/
  retrainSince : NMap Nat := []
  retrainLimit : Nat := 200
  /-- Average power of the last window in W (R296). -/
  watts : Nat := 0
  /-- Identity of the firmware that runs, which a save records (R264). -/
  firmware : Nat := 0
  session : Bool := false
  sealedRanges : List (Nat × Nat) := []
  /-- What was last delivered out of band or over DOE: SPDM measurements, Colophon records, power telemetry. -/
  reported : List DWord := []
  deriving DecidableEq, Repr

/-! ## The whole machine -/

/-- A register that the outside reads: one of BAR0, or BOOT_STATUS out of band (R279, R290). -/
inductive Readout where
  | bar0 (offset : Nat) (viaSession : Bool)
  | bootStatus
  deriving DecidableEq, Repr

/-- An entry of the agenda, one a cycle: the split that its core picks in the cycle, a step of the device that comes about in it, a
register that is read, an atom of DRAM a symbol of which goes wrong (R268), or a number of cycles for which the agenda names
nothing. -/
inductive Act where
  | issue (grp sp : Nat)
  | occur (i : Instr)
  | read (r : Readout)
  | upset (atom symbol : Nat)
  | pass (cycles : Nat)
  deriving DecidableEq, Repr

/-- Clocks (R243, R345, R296). -/
structure Clock where
  cycle : Nat := 0
  ps : Nat := 0
  mhz : Nat := 2500
  resets : Nat := 0
  deriving DecidableEq, Repr

/-- The machine. -/
structure State where
  /-- Model's own: number of the group and of the split that issues. -/
  cur : Nat × Nat := (0, 0)
  /-- Model's own: what the surroundings bring about in the cycles to come. -/
  agenda : List Act := []
  /-- Model's own: the splits that this cycle's picks have still to issue (R40); none before the picks are made. -/
  picks : Option (List (Nat × Nat)) := none
  /-- Model's own: number of the next free value. -/
  free : Nat := 0
  clock : Clock := {}
  ms : MemSys := {}
  xlat : Xlat := {}
  sched : Sched := {}
  cores : Cores := {}
  copies : Copies := {}
  render : Render := {}
  tier : Tier := {}
  pre : Preempt := {}
  /-- Stack number to its controller. -/
  ctls : NMap Stack := []
  die0 : Die := {}
  die1 : Die := {}
  plat : Platform := {}
  deriving DecidableEq, Repr

/-- Why a step stops. -/
inductive Fault where
  /-- exec was asked to issue an instruction for a group or a split that does not exist. step never does; safe. -/
  | noIssuingSplit
  deriving DecidableEq, Repr

/-- Why an instruction has no meaning. -/
inductive Refusal where
  /-- An instruction this text does not model yet; raised by exec's refused arms only; safe. -/
  | notModelled (mnemonic : String)
  deriving DecidableEq, Repr

/-- What a byte of memory that nothing has written reads as (log entry 3). -/
def unlistedByte : Byte := 0

/-- The machine right after reset: no group is resident, nothing is registered or bound, and every register holds
the value the spec states or, where it states none, the value the log names (INVENTORY.md, State). -/
def State.reset : State := {}

end Sys2Proof.Machine
end

