-- ==== Sys2Proof/Machine/Maps.lean ====
section
/-! DEFINITION. Maps.lean: reading and writing the sparse maps in which State holds memories and register files, and
numbers as little-endian bytes (R2). -/

namespace Sys2Proof.Machine

/-- What a map holds at a number; `d` where it lists nothing. -/
def mget {α : Type} (d : α) (k : Nat) : NMap α → α
  | [] => d
  | (k', v) :: r => if k = k' then v else mget d k r

/-- What a map lists at a number. -/
def mget? {α : Type} (k : Nat) : NMap α → Option α
  | [] => none
  | (k', v) :: r => if k = k' then some v else mget? k r

/-- Lists a value at a number, in rising order. -/
def mput {α : Type} (k : Nat) (v : α) : NMap α → NMap α
  | [] => [(k, v)]
  | (k', v') :: r =>
    if k < k' then (k, v) :: (k', v') :: r else if k = k' then (k, v) :: r else (k', v') :: mput k v r

/-- Takes a number off the list. -/
def mdel {α : Type} (k : Nat) : NMap α → NMap α
  | [] => []
  | (k', v) :: r => if k = k' then mdel k r else (k', v) :: mdel k r

/-- Writes a value: the default is not listed. -/
def mset {α : Type} [DecidableEq α] (d : α) (k : Nat) (v : α) (m : NMap α) : NMap α :=
  if v = d then mdel k m else mput k v m

/-- Every number listed is above `k`. -/
def mabove {α : Type} (k : Nat) : NMap α → Bool
  | [] => true
  | (k', _) :: r => decide (k < k') && mabove k r

/-- The canonical form: numbers strictly rising, no default listed. -/
def mwf {α : Type} [DecidableEq α] (d : α) : NMap α → Bool
  | [] => true
  | (k, v) :: r => decide (v ≠ d) && mabove k r && mwf d r

/-- Memory is in its canonical form: addresses strictly rising, and no cell that holds what an unlisted address reads as. -/
def Memory.wf (m : List Host.Cell) : Bool := mwf unlistedByte m

/-- `n` bytes from `a` on. -/
def bytesAt (m : NMap Byte) (a : Nat) : Nat → List Byte
  | 0 => []
  | n + 1 => mget unlistedByte a m :: bytesAt m (a + 1) n

/-- Writes bytes from `a` on. -/
def setBytes (m : NMap Byte) (a : Nat) : List Byte → NMap Byte
  | [] => m
  | b :: bs => setBytes (mset unlistedByte a b m) (a + 1) bs

/-- Writes those bytes from `a` on whose bit in the mask is set, bit 0 first. -/
def setMasked (m : NMap Byte) (a : Nat) (mask : Nat) : List Byte → NMap Byte
  | [] => m
  | b :: bs => setMasked (if mask % 2 = 1 then mset unlistedByte a b m else m) (a + 1) (mask / 2) bs

/-- Bytes as a number, the first byte lowest (R2). -/
def leNat : List Byte → Nat
  | [] => 0
  | b :: bs => b.toNat + 256 * leNat bs

/-- The low `n` bytes of a number, lowest first (R2). -/
def leBytes : Nat → Nat → List Byte
  | 0, _ => []
  | n + 1, x => BitVec.ofNat 8 x :: leBytes n (x / 256)

/-- Little-endian bytes of 32-bit words. -/
def wordsBytes (ws : List Word) : List Byte := ws.flatMap fun w => leBytes 4 w.toNat

/-- Consecutive 32-bit words of a list of bytes. -/
def bytesWords : List Byte → List Word
  | a :: b :: c :: d :: r => BitVec.ofNat 32 (leNat [a, b, c, d]) :: bytesWords r
  | _ => []

/-- Bytes `lo` to `lo + n - 1` of a block, as a number. -/
def fieldAt (bs : List Byte) (lo n : Nat) : Nat := leNat ((bs.drop lo).take n)

/-- Replaces the bytes of a block from `lo` on; the block keeps its length. -/
def patch (bs : List Byte) (lo : Nat) (x : List Byte) : List Byte :=
  (bs.take lo ++ x ++ bs.drop (lo + x.length)).take bs.length

/-- Bits `lo` to `lo + n - 1` of a number. -/
def nbits (x lo n : Nat) : Nat := x / 2 ^ lo % 2 ^ n

/-- Bit `i` of a number. -/
def nbit (x i : Nat) : Bool := x / 2 ^ i % 2 == 1

/-- Least multiple of `k` that is at least `n`. -/
def roundUp (n k : Nat) : Nat := (n + k - 1) / k * k

/-- Ceiling of a quotient. -/
def ceilDiv (n k : Nat) : Nat := (n + k - 1) / k

/-- Sign-extends the low `n` bits of a number to an integer (R8). -/
def sextNat (x n : Nat) : Int := if x % 2 ^ n < 2 ^ (n - 1) then (x % 2 ^ n : Nat) else (x % 2 ^ n : Nat) - (2 ^ n : Nat)

/-- Replaces the first element that satisfies `p`. -/
def modifyFirst {α : Type} (p : α → Bool) (f : α → α) : List α → List α
  | [] => []
  | x :: r => if p x then f x :: r else x :: modifyFirst p f r

/-- Replaces element `i`. -/
def modifyNth {α : Type} (f : α → α) : Nat → List α → List α
  | _, [] => []
  | 0, x :: r => f x :: r
  | i + 1, x :: r => x :: modifyNth f i r

/-- Deletes element `i`. -/
def dropNth {α : Type} : Nat → List α → List α
  | _, [] => []
  | 0, _ :: r => r
  | i + 1, x :: r => x :: dropNth i r

end Sys2Proof.Machine
end

