-- ==== Sys2Proof/Machine/Float.lean ====
section
/-! DEFINITION. Float.lean: decoding the element formats (R68 to R72), exact arithmetic, Round (R73 to R75), block
scales (R77 to R79), and what the vector FP32 and packed instructions compute (R82, R83). -/

namespace Sys2Proof.Machine

/-! ## Formats -/

/-- Exponent bits, fraction bits and bias of an IEEE-style format (R69); TAPER8 and INT8 have none. -/
def Fmt.ieee : Fmt → Option (Nat × Nat × Nat)
  | .f32 => some (8, 23, 127) | .f16 => some (5, 10, 15) | .bf16 => some (8, 7, 127)
  | .e4m3 => some (4, 3, 7) | .e5m2 => some (5, 2, 15) | .e2m3 => some (2, 3, 1)
  | .e3m2 => some (3, 2, 3) | .e2m1 => some (2, 1, 1) | .tp8 => none | .s8 => none

/-- Width in bits (R68). -/
def Fmt.width : Fmt → Nat
  | .f32 => 32 | .f16 | .bf16 => 16 | .e4m3 | .e5m2 | .tp8 | .s8 => 8 | .e2m3 | .e3m2 => 6 | .e2m1 => 4

/-- The format of a code of R68; 0xA to 0xF are reserved. -/
def Fmt.ofCode : Nat → Option Fmt
  | 0 => some .f32 | 1 => some .f16 | 2 => some .bf16 | 3 => some .e4m3 | 4 => some .e5m2
  | 5 => some .tp8 | 6 => some .e2m3 | 7 => some .e3m2 | 8 => some .e2m1 | 9 => some .s8 | _ => none

/-- The code of a format (R68). -/
def Fmt.code : Fmt → Nat
  | .f32 => 0 | .f16 => 1 | .bf16 => 2 | .e4m3 => 3 | .e5m2 => 4
  | .tp8 => 5 | .e2m3 => 6 | .e3m2 => 7 | .e2m1 => 8 | .s8 => 9

/-- emax of R69. -/
def Fmt.emax : Fmt → Int
  | .f32 | .bf16 => 127 | .f16 | .e5m2 => 15 | .e4m3 => 8 | .e2m3 | .e2m1 => 2 | .e3m2 => 4 | .tp8 => 10 | .s8 => 6

/-- Largest finite magnitude M (R69) as m × 2^e; for INT8 the positive one. -/
def Fmt.max : Fmt → Nat × Int
  | .f32 => (2 ^ 24 - 1, 104) | .f16 => (2047, 5) | .bf16 => (255, 120) | .e4m3 => (7, 6) | .e5m2 => (7, 13)
  | .tp8 => (1, 10) | .e2m3 => (15, -1) | .e3m2 => (7, 2) | .e2m1 => (3, 1) | .s8 => (127, 0)

/-- Has infinities (R69). -/
def Fmt.hasInf : Fmt → Bool
  | .f32 | .f16 | .bf16 | .e5m2 | .tp8 => true | _ => false

/-- Canonical NaN (R70), if the format has NaN. -/
def Fmt.nan : Fmt → Option Nat
  | .f32 => some 0x7FC00000 | .f16 => some 0x7E00 | .bf16 => some 0x7FC0 | .e4m3 => some 0x7F
  | .e5m2 => some 0x7E | .tp8 => some 0x80 | _ => none

/-- Code of the largest magnitude of a sign. -/
def Fmt.maxCode (f : Fmt) (neg : Bool) : Nat :=
  match f with
  | .f32 => if neg then 0xFF7FFFFF else 0x7F7FFFFF
  | .f16 => if neg then 0xFBFF else 0x7BFF
  | .bf16 => if neg then 0xFF7F else 0x7F7F
  | .e4m3 => if neg then 0xFE else 0x7E
  | .e5m2 => if neg then 0xFB else 0x7B
  | .tp8 => if neg then 0x83 else 0x03
  | .e2m3 | .e3m2 => if neg then 0x3F else 0x1F
  | .e2m1 => if neg then 0xF else 0x7
  | .s8 => if neg then 0x80 else 0x7F

/-- Code of an infinity. -/
def Fmt.infCode (f : Fmt) (neg : Bool) : Nat :=
  match f with
  | .f32 => if neg then 0xFF800000 else 0x7F800000
  | .f16 => if neg then 0xFC00 else 0x7C00
  | .bf16 => if neg then 0xFF80 else 0x7F80
  | .e5m2 => if neg then 0xFC else 0x7C
  | .tp8 => if neg then 0x81 else 0x01
  | _ => f.maxCode neg

/-! ## Decoding -/

/-- Magnitude of a TAPER8 body (R71), not 0 or 1, as m × 2^e. -/
def tp8Mag (b : Nat) : Nat × Int :=
  if 64 ≤ b then (b, -6)
  else if 48 ≤ b then (b - 32, -3)
  else if 32 ≤ b then (b - 16, -5)
  else if 28 ≤ b then (b - 24, 1)
  else if 24 ≤ b then (b - 20, 0)
  else if 20 ≤ b then (b - 16, -4)
  else if 16 ≤ b then (b - 12, -5)
  else if 12 ≤ b then (1, (b : Int) - 8)
  else if 8 ≤ b then (1, (b : Int) - 15)
  else if 6 ≤ b then (1, (b : Int) + 2)
  else if 4 ≤ b then (1, (b : Int) - 13)
  else if b = 3 then (1, 10) else (1, -10)

/-- The value of a code (R69, R71). INT8 is signed. -/
def decodeNum (f : Fmt) (c : Nat) : XVal :=
  match f.ieee with
  | some (eb, fb, bias) =>
    let neg := nbit c (eb + fb)
    let ex := nbits c fb eb
    let fr := nbits c 0 fb
    if f.hasInf && ex == 2 ^ eb - 1 then (if fr = 0 then .inf neg else .nan)
    else if f == .e4m3 && ex == 15 && fr == 7 then .nan
    else if ex = 0 then .fin ⟨neg, fr, 1 - (bias : Int) - fb⟩
    else .fin ⟨neg, 2 ^ fb + fr, (ex : Int) - bias - fb⟩
  | none =>
    if f = .tp8 then
      let b := c % 128
      let neg := nbit c 7
      if b = 0 then (if neg then .nan else .fin ⟨false, 0, 0⟩)
      else if b = 1 then .inf neg
      else .fin ⟨neg, (tp8Mag b).1, (tp8Mag b).2⟩
    else
      if nbit c 7 then .fin ⟨true, 256 - c % 256, 0⟩ else .fin ⟨false, c % 256, 0⟩

/-- FP32 pattern as a value. -/
def ofF32 (w : Word) : XVal := decodeNum .f32 w.toNat

/-- A signalling NaN of FP32, FP16 or BF16: the top fraction bit is 0 (R82, R83). -/
def isSnan (f : Fmt) (c : Nat) : Bool :=
  match f.ieee with
  | some (_, fb, _) => decodeNum f c == .nan && !nbit c (fb - 1)
  | none => false

/-- FP32 subnormal that is not zero. -/
def isSub32 (c : Nat) : Bool := nbits c 23 8 == 0 && nbits c 0 23 != 0

/-- The unsigned value of an INT8 code under HX.z (R76). -/
def decodeU8 (c : Nat) : XVal := .fin ⟨false, c % 256, 0⟩

/-! ## Exact arithmetic -/

/-- m × 2^e as an integer in units of 2^u, u ≤ e. -/
def scaleTo (m : Nat) (e u : Int) : Nat := m * 2 ^ (e - u).toNat

/-- Exact sum; an exact zero from unlike signs is +0 (R82). -/
def Dy.add (a b : Dy) : Dy :=
  let u := min a.e b.e
  let x := scaleTo a.m a.e u
  let y := scaleTo b.m b.e u
  if a.neg = b.neg then ⟨a.neg, x + y, u⟩
  else if x = y then ⟨false, 0, u⟩
  else if y < x then ⟨a.neg, x - y, u⟩ else ⟨b.neg, y - x, u⟩

/-- Exact product. -/
def Dy.mul (a b : Dy) : Dy := ⟨xor a.neg b.neg, a.m * b.m, a.e + b.e⟩

/-- Exact comparison a < b; −0 equals +0. -/
def Dy.lt (a b : Dy) : Bool :=
  let u := min a.e b.e
  let x : Int := if a.neg then -(scaleTo a.m a.e u : Int) else scaleTo a.m a.e u
  let y : Int := if b.neg then -(scaleTo b.m b.e u : Int) else scaleTo b.m b.e u
  decide (x < y)

/-- The value with its sign changed. -/
def XVal.negate : XVal → XVal
  | .fin d => .fin { d with neg := !d.neg }
  | .inf n => .inf (!n)
  | .nan => .nan

/-- Sign changed when asked. -/
def XVal.negIf (b : Bool) (x : XVal) : XVal := if b then x.negate else x

def XVal.add : XVal → XVal → XVal
  | .nan, _ => .nan
  | _, .nan => .nan
  | .inf a, .inf b => if a = b then .inf a else .nan
  | .inf a, .fin _ => .inf a
  | .fin _, .inf b => .inf b
  | .fin a, .fin b => .fin (a.add b)

def XVal.mul : XVal → XVal → XVal
  | .nan, _ => .nan
  | _, .nan => .nan
  | .inf a, .inf b => .inf (xor a b)
  | .inf a, .fin d => if d.m = 0 then .nan else .inf (xor a d.neg)
  | .fin d, .inf b => if d.m = 0 then .nan else .inf (xor d.neg b)
  | .fin a, .fin b => .fin (a.mul b)

/-- a < b; false with a NaN. -/
def XVal.lt : XVal → XVal → Bool
  | .nan, _ => false
  | _, .nan => false
  | .inf a, .inf b => a && !b
  | .inf a, .fin _ => a
  | .fin _, .inf b => !b
  | .fin a, .fin b => a.lt b

def XVal.isNan : XVal → Bool
  | .nan => true
  | _ => false

/-- Equal as numbers: −0 equals +0, NaN equals nothing (R82). -/
def XVal.eq (a b : XVal) : Bool := !a.isNan && !b.isNan && !a.lt b && !b.lt a

/-- Sign bit of a value that is not NaN. -/
def XVal.neg : XVal → Bool
  | .fin d => d.neg
  | .inf n => n
  | .nan => false

/-- Exact sum of a list; +0 unless every part is −0 (R86). -/
def sumX : List XVal → XVal
  | [] => .fin ⟨false, 0, 0⟩
  | [x] => x
  | x :: r => x.add (sumX r)

/-! ## Rounding -/

/-- A positive magnitude n / d × 2^e. -/
structure Mag where
  n : Nat
  d : Nat
  e : Int

/-- Floor of log2 of a positive magnitude. -/
def Mag.log2 (x : Mag) : Int :=
  let k : Int := (Nat.log2 x.n : Int) - Nat.log2 x.d
  -- 2^k is within a factor of 2 of n / d
  let ge := if 0 ≤ k then decide (x.d * 2 ^ k.toNat ≤ x.n) else decide (x.d ≤ x.n * 2 ^ (-k).toNat)
  (if ge then k else k - 1) + x.e

/-- Quotient, remainder and divisor of the magnitude over 2^u. -/
def Mag.units (x : Mag) (u : Int) : Nat × Nat × Nat :=
  let num := if u ≤ x.e then x.n * 2 ^ (x.e - u).toNat else x.n
  let den := if u ≤ x.e then x.d else x.d * 2 ^ (u - x.e).toNat
  (num / den, num % den, den)

/-- Whether the magnitude goes up to the next unit: RNE with the parity of the lower unit, or directed. -/
def goesUp (mode : RMode) (neg odd : Bool) (r den : Nat) : Bool :=
  match mode with
  | .rne => decide (den < 2 * r) || (decide (2 * r = den) && odd)
  | .rz => false
  | .rd => neg && r != 0
  | .ru => !neg && r != 0

/-- Result of rounding a magnitude: the code of the magnitude or overflow, and whether it was inexact or tiny. -/
structure Rounded where
  code : Option Nat
  inexact : Bool
  tiny : Bool

/-- How a magnitude between two neighbours is chosen: a mode, or the draw of SR (R75). -/
inductive Choice where
  | mode (m : RMode)
  | draw (d : Nat)

/-- Whether the upper neighbour is taken: lower parity, distance r of den. -/
def Choice.up (c : Choice) (neg odd : Bool) (r den : Nat) : Bool :=
  match c with
  | .mode m => goesUp m neg odd r den
  | .draw d => r != 0 && decide (d < r * 2 ^ 32 / den)

/-- Round of a magnitude in an IEEE-style format (R73): eb, fb and bias of R69. -/
def roundIeee (f : Fmt) (fb bias : Nat) (c : Choice) (neg : Bool) (x : Mag) : Rounded :=
  let lo : Int := 1 - (bias : Int)
  let ex := x.log2
  let u := max ex lo - fb
  let (q, r, den) := x.units u
  let q' := if c.up neg (q % 2 == 1) r den then q + 1 else q
  -- tininess after rounding, with an unbounded exponent (R73, step 6)
  let (tq, tr, tden) := x.units (ex - fb)
  let tq' := if c.up neg (tq % 2 == 1) tr tden then tq + 1 else tq
  let tiny := decide (ex < lo) && !(decide (ex = lo - 1) && tq' == 2 ^ (fb + 1))
  let (mm, me) := f.max
  -- the result is past M when q' × 2^u exceeds it
  let past := if me ≤ u then decide (mm < q' * 2 ^ (u - me).toNat) else decide (mm * 2 ^ (me - u).toNat < q')
  { code := if past then none else some ((u + fb + bias - 1).toNat * 2 ^ fb + q'),
    inexact := r != 0 || past, tiny := tiny }

/-- Positive TAPER8 codes with a finite value, each in units of 2^-10, with M' = 2^11 as code 128. -/
def tp8Points : List (Nat × Nat) :=
  (0, 0) :: (2048 * 1024, 128) ::
    ((List.range 126).map fun i => (scaleTo (tp8Mag (i + 2)).1 (tp8Mag (i + 2)).2 (-10), i + 2))

/-- Round of a magnitude in TAPER8 (R73, R75). -/
def roundTp8 (c : Choice) (neg : Bool) (x : Mag) : Rounded :=
  let (q, r, den) := x.units (-10)
  -- nearest points at or below and above, in units of 2^-10
  let below := tp8Points.foldl (fun b p => if p.1 ≤ q && b.1 ≤ p.1 then p else b) (0, 0)
  let above := tp8Points.foldl (fun b p => if q < p.1 && p.1 < b.1 then p else b) (2048 * 1024 + 1, 128)
  let exact := r == 0 && q == below.1
  let dist := (q - below.1) * den + r
  let gap := (above.1 - below.1) * den
  let odd := below.2 % 2 == 1
  -- neighbours whose body bit 0 agrees: a tie goes to the smaller magnitude; M' counts as even
  let tieUp := if above.2 = 128 then true else odd && above.2 % 2 == 0
  let up := match c with
    | .mode .rne => decide (gap < 2 * dist) || (decide (2 * dist = gap) && tieUp)
    | .mode m => goesUp m neg odd dist gap
    | .draw d => decide (d < dist * 2 ^ 32 / gap)
  let past := (2048 * 1024 ≤ q : Bool) || (!exact && up && above.2 == 128)
  { code := if past then none else some (if exact || !up then below.2 else above.2),
    inexact := !exact || past, tiny := decide (q = 0) }

/-- Round of a magnitude to INT8 (R73): the bound depends on the sign. -/
def roundS8 (c : Choice) (neg : Bool) (x : Mag) : Rounded :=
  let (q, r, den) := x.units 0
  let q' := if c.up neg (q % 2 == 1) r den then q + 1 else q
  let past := if neg then decide (128 < q') else decide (127 < q')
  { code := if past then none else some q', inexact := r != 0 || past, tiny := false }

/-- Puts the sign on the code of a magnitude; TAPER8 has one zero (R73, step 5). -/
def signCode (f : Fmt) (neg : Bool) (mag : Nat) : Nat :=
  match f with
  | .s8 => if neg then (256 - mag) % 256 else mag
  | .tp8 => if mag = 0 then 0 else if neg then 128 + mag else mag
  | _ => if neg then 2 ^ (f.width - 1) + mag else mag

/-- Flags with only some set. -/
def flagsOf (invalid overflow underflow inexact : Bool) : FpFlags :=
  { invalid := invalid, overflow := overflow, underflow := underflow, inexact := inexact }

def FpFlags.or (a b : FpFlags) : FpFlags :=
  ⟨a.invalid || b.invalid, a.divZero || b.divZero, a.overflow || b.overflow, a.underflow || b.underflow,
    a.inexact || b.inexact⟩

/-- A directed mode stops an overflow at M (R73, step 4); so does SR (R75). -/
def Choice.stopsAtMax (c : Choice) (neg : Bool) : Bool :=
  match c with
  | .mode .rne => false
  | .mode .rz => true
  | .mode .rd => !neg
  | .mode .ru => neg
  | .draw _ => true

/-- NaN written in a format: the canonical NaN, or code 0 with invalid (R70, R74). -/
def nanCode (f : Fmt) : Nat × FpFlags :=
  match f.nan with
  | some c => (c, {})
  | none => (0, flagsOf true false false false)

/-- An overflow or infinite result (R73, step 4; R74). -/
def infResult (f : Fmt) (neg sat : Bool) : Nat × FpFlags :=
  if sat then (f.maxCode neg, {})
  else if f.hasInf then (f.infCode neg, {})
  else match f.nan with
    | some c => (c, flagsOf true false false false)
    | none => (f.maxCode neg, {})

/-- Round of a magnitude in any format. -/
def roundMag (f : Fmt) (c : Choice) (neg : Bool) (x : Mag) : Rounded :=
  match f.ieee with
  | some (_, fb, bias) => roundIeee f fb bias c neg x
  | none => if f = .tp8 then roundTp8 c neg x else roundS8 c neg x

/-- Round(x, fmt, mode) of a non-zero magnitude (R73 to R75), with the flags of R88. -/
def roundQ (f : Fmt) (c : Choice) (sat neg : Bool) (x : Mag) : Nat × FpFlags :=
  let r := roundMag f c neg x
  -- under SR a magnitude above M, or past -128 for INT8, stops there (R75)
  let top := if f = .s8 && neg then ((128 : Nat), (0 : Int)) else f.max
  let above := let (q, rem, _) := x.units top.2
               decide (top.1 < q) || (decide (top.1 = q) && rem != 0)
  let code := match c with
    | .draw _ => if above then none else r.code
    | .mode _ => r.code
  match code with
  | some m => (signCode f neg m, flagsOf false false (r.tiny && r.inexact) r.inexact)
  | none =>
    if c.stopsAtMax neg then (f.maxCode neg, flagsOf false true false true)
    else ((infResult f neg sat).1, (infResult f neg sat).2.or (flagsOf false true false true))

/-- Round(x, fmt, mode) of an exact value (R8, R73). -/
def roundX (f : Fmt) (c : Choice) (sat : Bool) : XVal → Nat × FpFlags
  | .nan => nanCode f
  | .inf neg => infResult f neg sat
  | .fin d =>
    if d.m = 0 then (signCode f d.neg 0, {})
    else roundQ f c sat d.neg ⟨d.m, 1, d.e⟩

/-- RNE without saturation to FP32. -/
def round32 (x : XVal) : Word × FpFlags :=
  let r := roundX .f32 (.mode .rne) false x
  (BitVec.ofNat 32 r.1, r.2)

/-! ## Vector FP32 (R82) -/

/-- An FP32 input under FTZ. -/
def in32 (ftz : Bool) (w : Word) : XVal :=
  if ftz && isSub32 w.toNat then .fin ⟨w.msb, 0, 0⟩ else ofF32 w

/-- An FP32 pattern written under FTZ: a subnormal becomes zero of its sign and sets underflow. -/
def flush32 (ftz : Bool) (r : Word × FpFlags) : Word × FpFlags :=
  if ftz && isSub32 r.1.toNat then
    (if r.1.msb then 0x80000000#32 else 0#32, r.2.or (flagsOf false false true false))
  else r

/-- An exact result written to FP32 under FTZ. -/
def out32 (ftz : Bool) (x : XVal) : Word × FpFlags := flush32 ftz (round32 x)

/-- Sets invalid where a signalling NaN came in, or a NaN came out of inputs that hold none (R82, R88). -/
def withInvalid (ins : List Word) (r : Word × FpFlags) : Word × FpFlags :=
  let snan := ins.any fun w => isSnan .f32 w.toNat
  let made := (ofF32 r.1).isNan && !(ins.any fun w => (ofF32 w).isNan)
  (r.1, r.2.or (flagsOf (snan || made) false false false))

def fadd32 (ftz : Bool) (a b : Word) : Word × FpFlags :=
  withInvalid [a, b] (out32 ftz ((in32 ftz a).add (in32 ftz b)))

def fmul32 (ftz : Bool) (a b : Word) : Word × FpFlags :=
  withInvalid [a, b] (out32 ftz ((in32 ftz a).mul (in32 ftz b)))

/-- (−1)^np × a × b + (−1)^nd × d, rounded once (R82, R356).
    A product 0 × ∞ sets invalid whatever d holds (R356). -/
def fma32 (ftz np nd : Bool) (a b d : Word) : Word × FpFlags :=
  let prod := (in32 ftz a).mul (in32 ftz b)
  let made := prod.isNan && !((ofF32 a).isNan || (ofF32 b).isNan)
  let r := withInvalid [a, b, d]
    (out32 ftz ((prod.negIf np).add ((in32 ftz d).negIf nd)))
  (r.1, r.2.or (flagsOf made false false false))

/-- FMIN and FMAX (R82): the number beside a NaN, −0 below +0. -/
def fminmax32 (ftz wantMax : Bool) (a b : Word) : Word × FpFlags :=
  let x := in32 ftz a
  let y := in32 ftz b
  let snan := flagsOf (isSnan .f32 a.toNat || isSnan .f32 b.toNat) false false false
  let less := x.lt y || (x.eq y && x.neg && !y.neg)
  let z := if x.isNan then y else if y.isNan then x else if less != wantMax then x else y
  let r := out32 ftz z
  (r.1, r.2.or snan)

/-- The integral value a magnitude rounds to (R73, bit 0 of integers decides a tie). -/
def roundInt (m : RMode) (d : Dy) : Nat :=
  let (q, r, den) := (Mag.mk d.m 1 d.e).units 0
  if goesUp m d.neg (q % 2 == 1) r den then q + 1 else q

/-- FRND (R82): no flag but invalid for a signalling input, and underflow of a flushed input is none. -/
def frnd32 (ftz : Bool) (m : RMode) (a : Word) : Word × FpFlags :=
  let snan := flagsOf (isSnan .f32 a.toNat) false false false
  match in32 ftz a with
  | .fin d => ((round32 (.fin ⟨d.neg, roundInt m d, 0⟩)).1, snan)
  | x => ((round32 x).1, snan)

/-! ## Packed halves (R83) -/

/-- One half: computes with FP16 or BF16 values and rounds once. -/
def half (f : Fmt) (sat : Bool) (ins : List Nat) (x : XVal) : Nat × FpFlags :=
  let r := roundX f (.mode .rne) sat x
  let snan := ins.any fun c => isSnan f c
  let made := x.isNan && !(ins.any fun c => (decodeNum f c).isNan)
  (r.1, r.2.or (flagsOf (snan || made) false false false))

/-- Both halves of a register. -/
def halves (f : Nat → Nat → Nat → Nat × FpFlags) (a b d : Word) : Word × FpFlags :=
  let lo := f (nbits a.toNat 0 16) (nbits b.toNat 0 16) (nbits d.toNat 0 16)
  let hi := f (nbits a.toNat 16 16) (nbits b.toNat 16 16) (nbits d.toNat 16 16)
  (BitVec.ofNat 32 (lo.1 + 65536 * hi.1), lo.2.or hi.2)

def packFma (f : Fmt) (sat : Bool) : Word → Word → Word → Word × FpFlags :=
  halves fun a b d => half f sat [a, b, d] (((decodeNum f a).mul (decodeNum f b)).add (decodeNum f d))

def packAdd (f : Fmt) (sat : Bool) : Word → Word → Word → Word × FpFlags :=
  halves fun a b _ => half f sat [a, b] ((decodeNum f a).add (decodeNum f b))

def packMul (f : Fmt) (sat : Bool) : Word → Word → Word → Word × FpFlags :=
  halves fun a b _ => half f sat [a, b] ((decodeNum f a).mul (decodeNum f b))

/-! ## Block scales (R77 to R79) -/

/-- Greatest magnitude of a block of finite values. -/
def amaxOf : List XVal → Dy
  | [] => ⟨false, 0, 0⟩
  | .fin d :: r => let a := amaxOf r; if a.lt ⟨false, d.m, d.e⟩ then ⟨false, d.m, d.e⟩ else a
  | _ :: r => amaxOf r

/-- The scale byte of MX32 for a block without NaN or infinity (R77). -/
def mxByte (f : Fmt) (amax : Dy) : Nat :=
  if amax.m = 0 then 0
  else
    let x := (Nat.log2 amax.m : Int) + amax.e - f.emax
    (min (max x (-127)) 127 + 127).toNat

/-- The scale code of FINE16 (R78): the smallest positive E4M3 value at or above amax / M, from 2^-9 to 448. -/
def fineCode (f : Fmt) (amax : Dy) : Nat :=
  if amax.m = 0 then 0
  else
    let (mm, me) := f.max
    -- scale × M ≥ amax
    let ok := fun c : Nat => match decodeNum .e4m3 c with
      | .fin s => !(Dy.mul s ⟨false, mm, me⟩).lt amax
      | _ => false
    match (List.range 126).find? fun i => ok (i + 1) with
    | some i => i + 1
    | none => 126

/-- The value of a scale byte under a scale mode (R77, R78, R79): 1 is MX32, 2 is FINE16, 0 is none. -/
def scaleValue (mode byte : Nat) : XVal :=
  match mode with
  | 1 => if byte % 256 = 255 then .nan else .fin ⟨false, 1, (byte % 256 : Nat) - 127⟩
  | 2 => decodeNum .e4m3 byte
  | _ => .fin ⟨false, 1, 0⟩

/-- An element over a positive finite scale, rounded with saturation (R77, R78). Of a block whose amax is 0, where R78 has every
element 0, an element −0 keeps its sign (log entry 52). A code that is subnormal in its format stays under FTZ (log entry 57). -/
def quantOne (f : Fmt) (c : Choice) (scale : XVal) (x : XVal) : Nat × FpFlags :=
  match x, scale with
  | .fin d, .fin s =>
    if d.m = 0 then (signCode f d.neg 0, {})
    else if s.m = 0 then (signCode f d.neg 0, {})
    else roundQ f c true d.neg ⟨d.m, s.m, d.e - s.e⟩
  | y, _ => roundX f c true y

/-- A block holds a NaN or an infinity (R79). -/
def blockSpecial (xs : List XVal) : Bool := xs.any fun x => match x with | .fin _ => false | _ => true

/-- The scale byte of a block (R77 to R79); a NaN or an infinity gives the NaN scale. -/
def blockScale (f : Fmt) (mode : Nat) (xs : List XVal) : Nat :=
  let special := blockSpecial xs
  if mode = 1 then (if special then 0xFF else mxByte f (amaxOf xs))
  else if mode = 2 then (if special then 0x7F else fineCode f (amaxOf xs))
  else 0

/-- Codes of a block under its scale (R77 to R80): SR draws come with the elements; under SPARE, E2M1 code 8 gives 0. An
infinity that makes the scale a NaN sets no invalid (log entry 57). -/
def quantBlock (f : Fmt) (mode : Nat) (spare : Bool) (cs : List Choice) (xs : List XVal) : Nat × List Nat × FpFlags :=
  let sb := blockScale f mode xs
  let special := mode ≠ 0 && blockSpecial xs
  let rs := (xs.zip cs).map fun (x, c) =>
    if special then (0, ({} : FpFlags)) else quantOne f c (scaleValue mode sb) x
  let fix := fun c : Nat => if spare && f == .e2m1 && c == 8 then 0 else c
  (sb, rs.map fun r => fix r.1, rs.foldl (fun a r => a.or r.2) {})

/-- An element of a block as the arithmetic uses it (R72, R79): NaN under a NaN scale, else the spare value unscaled, or
code × scale. -/
def elemValue (f : Fmt) (mode sb : Nat) (spare : Option Nat) (uns : Bool) (code : Nat) : XVal :=
  let x := if f = .s8 && uns then decodeU8 code else decodeNum f code
  match spare with
  | some v => if f = .e2m1 && code = 8 && !(scaleValue mode sb).isNan then decodeNum .bf16 v else x.mul (scaleValue mode sb)
  | none => x.mul (scaleValue mode sb)

/-- The scale makes a NaN of an element: neither is one, and the element is not the spare value (R88). -/
def elemMade (f : Fmt) (mode sb : Nat) (spare : Option Nat) (uns : Bool) (code : Nat) : Bool :=
  (elemValue f mode sb spare uns code).isNan && !(decodeNum f code).isNan && !(scaleValue mode sb).isNan &&
    !(f == .e2m1 && code == 8 && spare.isSome)

/-! ## Hadamard (R81) -/

/-- Number of 1 bits. -/
def popcount : Nat → Nat → Nat
  | 0, _ => 0
  | k + 1, x => x % 2 + popcount k (x / 2)

/-- c of R81 for a size of 16, 32 or 64. -/
def hadC (h : Nat) : XVal :=
  match h with
  | 16 => .fin ⟨false, 1, -2⟩
  | 64 => .fin ⟨false, 1, -3⟩
  | _ => ofF32 0x3E3504F3

/-- Output i of the transform of h values, exact. -/
def hadOut (h : Nat) (xs : List XVal) (i : Nat) : XVal :=
  (hadC h).mul (sumX (xs.zipIdx.map fun (x, j) => x.negIf (popcount 7 (i &&& j) % 2 == 1)))

/-- The whole transform. -/
def hadAll (h : Nat) (xs : List XVal) : List XVal := (List.range h).map (hadOut h xs)

/-- The transform on each run of h values of a list (R81). -/
def hadRuns (h : Nat) : Nat → List XVal → List XVal
  | 0, xs => xs
  | k + 1, xs => if h = 0 || xs.length < h then xs else hadAll h (xs.take h) ++ hadRuns h k (xs.drop h)

/-- The transform makes a NaN of a run that holds none (R88). -/
def hadMade (h : Nat) : Nat → List XVal → Bool
  | 0, _ => false
  | k + 1, xs =>
    if h = 0 || xs.length < h then false
    else (!(xs.take h).any XVal.isNan && (hadAll h (xs.take h)).any XVal.isNan) || hadMade h k (xs.drop h)

/-! ## Bit strings of codes (R80) -/

/-- Element codes packed as one bit string in registers of 32 bits. -/
def packCodes (w k : Nat) (cs : List Nat) : List Word :=
  let n := cs.zipIdx.foldl (fun acc (c, j) => acc + c % 2 ^ w * 2 ^ (j * w)) 0
  (List.range k).map fun i => BitVec.ofNat 32 (nbits n (32 * i) 32)

/-- Element codes of a bit string held in registers. -/
def unpackCodes (w n : Nat) (rs : List Word) : List Nat :=
  let x := rs.zipIdx.foldl (fun acc (r, j) => acc + r.toNat * 2 ^ (32 * j)) 0
  (List.range n).map fun j => nbits x (j * w) w

end Sys2Proof.Machine
end

