-- ==== Sys2Proof/Machine/Cache.lean ====
section
/-! DEFINITION. Cache.lean: the bytes of memory at their homes, the controllers' metadata, the three cache levels, pins
and promotion, releases and acquires (05, 06). Every function takes the memory system alone. -/

namespace Sys2Proof.Machine

/-! ## Places -/

/-- Team of a core (R11). -/
def teamOf (core : Nat) : Nat := core / 4
/-- Die of a core (R11). -/
def dieOf (core : Nat) : Nat := core / Config.coresPerDie
/-- DRAM stack of a physical address (R96). -/
def stackOf (pa : Nat) : Nat := pa / Config.stackBytes
/-- Line of 128 bytes, atom of 32 bytes, master block of 4 KiB. -/
def lineOf (pa : Nat) : Nat := pa / 128
def atomOf (pa : Nat) : Nat := pa / 32

/-- What a physical address names (R96). -/
inductive Phys where
  | dram (stack : Nat) | vellum (v : Nat) | host | peer (n : Nat) | absent
  deriving DecidableEq, Repr

/-- The physical map (R96), with the parts that are missing in walk mode (R20). -/
def physOf (walk : Bool) (a : Nat) : Phys :=
  if a < Config.dramEnd then (if walk && decide (4 ≤ stackOf a) then .absent else .dram (stackOf a))
  else if Config.vellumBase ≤ a ∧ a < Config.vellumEnd then
    (if walk then .absent else .vellum ((a - Config.vellumBase) / Config.vellumStackBytes))
  else if Config.hostBase ≤ a ∧ a < Config.peerBase then (if walk then .absent else .host)
  else if Config.peerBase ≤ a ∧ a < Config.physEnd then
    (if walk then .absent else .peer (nbits a 43 8))
  else .absent

def Phys.isDram : Phys → Bool
  | .dram _ => true
  | _ => false

/-- A whole range of bytes lies in device DRAM. -/
def inDram (walk : Bool) (a n : Nat) : Bool :=
  (physOf walk a).isDram && (physOf walk (a + n - 1)).isDram

/-- Who makes an access, by location (R111). -/
inductive Agent where
  | core (c : Nat) | device | outside
  deriving DecidableEq, Repr

/-- The agents located on a core, or an engine located on none (R111). -/
def Agent.ofCore : Option Nat → Agent
  | some c => .core c
  | none => .device

/-- The scope instance of an owner (a core, or a team given by a core of it) includes an agent (R112). -/
def scopeIncludes (sc : Scope) (ownerCore : Nat) : Agent → Bool
  | .core c => match sc with
    | .core => c == ownerCore
    | .team => teamOf c == teamOf ownerCore
    | _ => true
  | .device => sc == .dev || sc == .sys
  | .outside => sc == .sys

/-- Membership in a range (first, length). -/
def inRange (a : Nat) (r : Nat × Nat) : Bool := decide (r.1 ≤ a) && decide (a < r.1 + r.2)

/-! ## The home -/

/-- One forwarding after another, where a page's new place is itself under forwarding. -/
def forwardedBy (d : Meta) : Nat → Nat → Nat
  | 0, pa => pa
  | k + 1, pa =>
    match d.migs.find? fun m => m.2.status == 3 && inRange pa (m.2.src, m.2.len) with
    | some m => forwardedBy d k (m.2.dst + (pa - m.2.src))
    | none => pa

/-- Address at which an access to a page under forwarding is performed (R278). -/
def forwarded (d : Meta) (pa : Nat) : Nat := forwardedBy d d.migs.length pa

/-- Atoms that `n` bytes from `pa` on touch. -/
def atomsOf (pa n : Nat) : List Nat :=
  if n = 0 then [] else (List.range ((pa + n - 1) / 32 - pa / 32 + 1)).map (· + pa / 32)

/-- Lines that `n` bytes from `pa` on touch. -/
def linesOf (pa n : Nat) : List Nat :=
  if n = 0 then [] else (List.range ((pa + n - 1) / 128 - pa / 128 + 1)).map (· + pa / 128)

/-- The controller corrects an atom whose wrong symbols are at most two (R268). -/
def correctable (wrong : List Nat) : Bool := decide (wrong.dedup.length ≤ 2)

/-- ECC decoding of an atom that is read (R269). An uncorrectable atom's home line goes with its Colophon event (putMs). -/
def decodeAtom (d : Meta) (atom : Nat) : Meta :=
  match mget? atom d.errs with
  | none => d
  | some wrong =>
    let e := mget {} (stackOf (atom * 32)) d.ecc
    let d := { d with errs := mdel atom d.errs }
    if correctable wrong then
      { d with ecc := (mset {} (stackOf (atom * 32)) { e with ce := min 65535 (e.ce + 1) } d.ecc) }
    else
      { d with flags := (mset {} atom { x := false, p := true, back := d.hostBias.contains (atom / 2048) } d.flags),
               ecc := (mset {} (stackOf (atom * 32))
                 { e with ue := min 255 (e.ue + 1), last := atom * 32 % Config.stackBytes } d.ecc),
               ueSeen := d.ueSeen ++ [atom] }

/-- X of an atom: the host has taken it, or host bias covers it and the host has not given it back (R108, R284). -/
def hasX (d : Meta) (atom : Nat) : Bool :=
  let f := mget {} atom d.flags
  f.x || (d.hostBias.contains (atom / 2048) && !f.back)

/-- A device access recalls an atom the host holds (R108). -/
def recallX (d : Meta) (atom : Nat) : Meta :=
  let f := mget {} atom d.flags
  { d with flags := (mset {} atom { f with x := false, back := d.hostBias.contains (atom / 2048) } d.flags) }

/-- A home cache holds an atom: a read that it serves reads no DRAM (R108). -/
def homeHolds (hs : List HomeLine) (atom : Nat) : Bool := hs.any fun h => h.line == atom / 4

/-- Reads of atoms at the home: recall from the host, then ECC where DRAM is read (R108, R269). -/
def touchAtoms (hs : List HomeLine) (d : Meta) (pa n : Nat) : Meta :=
  (atomsOf (forwarded d pa) n).foldl (fun d a => if homeHolds hs a then recallX d a else decodeAtom (recallX d a) a) d

/-- Atoms of the range that are poisoned at their home (R108). -/
def poisonedAtoms (d : Meta) (pa n : Nat) : List Nat :=
  (atomsOf pa n).filter fun a => (mget {} (atomOf (forwarded d (a * 32))) d.flags).p

/-- Bytes at the home. -/
def readHome (ms : MemSys) (pa n : Nat) : List Byte := bytesAt ms.mem (forwarded ms.dram pa) n

/-- The M bit is set on an address; since when (R209). -/
def masterSince (d : Meta) (pa : Nat) : Option Nat := (d.mRanges.find? fun r => inRange pa (r.1, r.2.1)).map fun r => r.2.2

/-- A master block's state. The first M bit of a block sets DIRTY and VERSION 1, and starts its settle interval (R209). -/
def blockSt (d : Meta) (b : Nat) : MasterBlock :=
  match mget? b d.blocks with
  | some x => x
  | none => match masterSince d (b * 4096) with
    | some t => ⟨true, 1, t⟩
    | none => ⟨false, 0, 0⟩

/-- A write to an atom of a page with M marks its master block (R209). -/
def markMaster (d : Meta) (now atom : Nat) : Meta :=
  if (masterSince d (atom * 32)).isSome then
    let old := blockSt d (atom / 128)
    let new : MasterBlock := ⟨true, if old.dirty then old.version else (old.version + 1) % 2 ^ 31, now⟩
    { d with blocks := mput (atom / 128) new d.blocks }
  else d

/-- A write whose byte enables cover a whole atom: no poison stays, and no wrong symbol (R108, R270). -/
def wholeAtom (atom : Nat) (d : Meta) : Meta :=
  let f := mget {} atom d.flags
  { d with flags := (mset {} atom { f with p := false } d.flags), errs := mdel atom d.errs }

/-- What a write does to an atom's metadata: recall, a marked migration (R277), poison cleared by a full write (R108,
R270), a read of DRAM for a partial write that no home line takes, the master mark. -/
def noteWrite (now : Nat) (held : Bool) (atom : Nat) (full : Bool) (d : Meta) : Meta :=
  let d := recallX d atom
  let d := if full then wholeAtom atom d else if held then d else decodeAtom d atom
  let marked := d.migs.map fun m =>
    if (m.2.status == 1 || m.2.status == 2) && inRange (atom * 32) (m.2.src, m.2.len) && !m.2.marks.contains atom then
      (m.1, { m.2 with marks := m.2.marks ++ [atom] }) else m
  let d := { d with migs := marked }
  markMaster d now atom

/-- Bits of a line's mask that a masked write at an address sets. -/
def lineBits (line pa mask : Nat) : BitVec 128 :=
  BitVec.ofNat 128 (if line * 128 ≤ pa then mask * 2 ^ (pa - line * 128) else mask / 2 ^ (line * 128 - pa))

/-- Two byte ranges share a byte. -/
def rangesMeet (a b : Nat × Nat) : Bool := decide (a.1 < b.1 + b.2) && decide (b.1 < a.1 + a.2)

/-- Writes to watched ranges are noted (R156, R231). -/
def noteSeen (mem : NMap Byte) (pa n mask : Nat) (d : Meta) : Meta :=
  let written := fun a : Nat => decide (pa ≤ a) && decide (a < pa + n) && nbit mask (a - pa)
  let hit := d.watched.filter fun w => (List.range w.2).any fun i => written (forwarded d w.1 + i)
  { d with seen := d.seen ++ hit.map fun w => (w.1, bytesAt mem (forwarded d w.1) w.2) }

/-- Writes bytes at the home, those whose mask bit is set (bit 0 is the byte at `pa`); a home line that is held takes them. -/
def writeHome (ms : MemSys) (now pa : Nat) (mask : Nat) (bs : List Byte) : MemSys :=
  let pa := forwarded ms.dram pa
  let n := bs.length
  let mem := setMasked ms.mem pa mask bs
  let dram := (atomsOf pa n).foldl (fun d a =>
    let covered := (List.range 32).filter fun i =>
      decide (pa ≤ 32 * a + i) && decide (32 * a + i < pa + n) && nbit mask (32 * a + i - pa)
    if covered.isEmpty then d else noteWrite now (homeHolds ms.cache.home a) a (covered.length == 32) d) ms.dram
  let home := ms.cache.home.map fun h => if rangesMeet (h.line * 128, 128) (pa, n) then
    { h with dirty := h.dirty ||| lineBits h.line pa (mask % 2 ^ n) } else h
  { mem := mem, dram := noteSeen mem pa n mask dram, cache := { ms.cache with home := home } }

/-- The mask of `n` bytes. -/
def allMask (n : Nat) : Nat := 2 ^ n - 1

/-! ## Peer memory (R127, R286) -/

/-- Performs the posted writes to a peer, in order, but for those given up, which the device does not resend (R127, R286). -/
def performPeer (ms : MemSys) (n : Nat) : MemSys :=
  let due := fun w : PeerWrite => w.peer == n && w.lost.isNone
  { ms with
    mem := (ms.cache.peerWrites.filter due).foldl (fun m w => setBytes m w.pa w.bytes) ms.mem,
    cache := { ms.cache with peerWrites := ms.cache.peerWrites.filter fun w => !due w } }

/-- Every posted peer write is performed and acknowledged (R117, R127). -/
def performPeers (ms : MemSys) : MemSys :=
  ((ms.cache.peerWrites.map fun w => w.peer).dedup).foldl performPeer ms

/-- Masked bytes of a line, one posted write for each. -/
def peerRuns (pa mask : Nat) (bs : List Byte) : List (Nat × List Byte) :=
  (bs.zipIdx.filter fun (_, i) => nbit mask i).map fun (b, i) => (pa + i, [b])

/-- An address lies in a peer's memory. -/
def isPeer (pa : Nat) : Bool := match physOf false pa with
  | .peer _ => true
  | _ => false

/-- Writes bytes at the place a physical address names: a peer write is posted for the lanes whose bytes it carries (R127). -/
def writeOut (ms : MemSys) (now pa mask : Nat) (bs : List Byte) (own : List (Nat × Nat) := []) : MemSys :=
  match physOf false pa with
  | .peer n =>
    let posted : List PeerWrite := (peerRuns pa mask bs).map fun r => ⟨n, r.1, r.2, own, none⟩
    { ms with cache := { ms.cache with peerWrites := ms.cache.peerWrites ++ posted } }
  | _ => writeHome ms now pa mask bs

/-! ## Lines -/

def findLine (ls : List CacheLine) (owner line : Nat) : Option CacheLine :=
  ls.find? fun c => c.owner == owner && c.line == line

def dropLine (ls : List CacheLine) (owner line : Nat) : List CacheLine :=
  ls.filter fun c => !(c.owner == owner && c.line == line)

/-- Changes a held line. -/
def onLine (ls : List CacheLine) (owner line : Nat) (f : CacheLine → CacheLine) : List CacheLine :=
  ls.map fun c => if c.owner == owner && c.line == line then f c else c

/-- Bytes of `src` over `dst` where the mask has a 1. -/
def mergeBytes (mask : Nat) (dst src : List Byte) : List Byte :=
  (dst.zip src).zipIdx.map fun ((d, s), i) => if nbit mask i then s else d

/-- Bits `off` to `off + n - 1` of a line's dirty mask. -/
def lineMask (off n : Nat) : BitVec 128 := BitVec.ofNat 128 (allMask n * 2 ^ off)

/-- Puts bytes of some lanes into a line at an offset and marks them dirty. -/
def dirtyLine (off : Nat) (bs : List Byte) (own : List (Nat × Nat)) (c : CacheLine) : CacheLine :=
  { c with bytes := patch c.bytes off bs, dirty := c.dirty ||| lineMask off bs.length,
           own := if isPeer (c.line * 128) then (own ++ c.own).dedup else c.own }

/-- Writes the dirty bytes of an L1 line into the team's copy, or to the home where the team holds none (R99). -/
def wbL1 (now core : Nat) (ms : MemSys) (c : CacheLine) : MemSys :=
  if c.dirty = 0 then ms
  else
    let ms := { ms with cache := { ms.cache with l1 := onLine ms.cache.l1 core c.line fun x => { x with dirty := 0, own := [] } } }
    if (findLine ms.cache.team (teamOf core) c.line).isSome then
      { ms with cache := { ms.cache with team := onLine ms.cache.team (teamOf core) c.line fun t =>
          { t with bytes := mergeBytes c.dirty.toNat t.bytes c.bytes, dirty := t.dirty ||| c.dirty, count := none,
                   own := (c.own ++ t.own).dedup } } }
    else writeOut ms now (c.line * 128) c.dirty.toNat c.bytes c.own

/-- Writes the dirty bytes of a team line home (R99). -/
def wbTeam (now team : Nat) (ms : MemSys) (c : CacheLine) : MemSys :=
  if c.dirty = 0 then ms
  else
    let ms := { ms with cache := { ms.cache with team := onLine ms.cache.team team c.line fun x => { x with dirty := 0, own := [] } } }
    writeOut ms now (c.line * 128) c.dirty.toNat c.bytes c.own

/-- Writes back every dirty line of an L1 that a filter takes. -/
def wbL1All (now core : Nat) (f : Nat → Bool) (ms : MemSys) : MemSys :=
  (ms.cache.l1.filter fun c => c.owner == core && f c.line).foldl (wbL1 now core) ms

/-- Writes back every dirty line of a team cache that a filter takes. -/
def wbTeamAll (now team : Nat) (f : Nat → Bool) (ms : MemSys) : MemSys :=
  (ms.cache.team.filter fun c => c.owner == team && f c.line).foldl (wbTeam now team) ms

/-! ## Pins and promotion (R121 to R124) -/

/-- A core of the pin's owner. -/
def Pin.ownerCore (p : Pin) : Nat := match p.scope with | .core => p.owner | _ => 4 * p.owner

/-- One pin is another's, whatever it was made for: atom, scope and owner. -/
def Pin.same (p q : Pin) : Bool := p.atom == q.atom && p.scope == q.scope && p.owner == q.owner

/-- Promotion of a pin (R122), without the reservation. What it writes back to a peer is acknowledged with it (log entry 16). -/
def promote (now : Nat) (ms : MemSys) (p : Pin) : MemSys :=
  let ms := if p.scope = .core then wbL1All now p.owner (fun _ => true) ms else ms
  let ms := performPeers (wbTeamAll now (teamOf p.ownerCore) (fun _ => true) ms)
  { ms with cache := { ms.cache with
      teamPins := ms.cache.teamPins.filter fun q => !q.same p,
      homePins := ms.cache.homePins.filter fun q => !q.same p } }

/-- A pin stands on one of these atoms, or on the atom whose accesses are forwarded there (R278). -/
def Pin.on (d : Meta) (atoms : List Nat) (p : Pin) : Bool :=
  let at_ := fun a : Nat => atomOf (forwarded d (a * 32))
  (atoms.map at_).contains (at_ p.atom)

/-- Promotes the pins recorded at the home for these atoms whose scope leaves the agent out. An access from outside a promoted
pin's scope is the retried one that the atom was reserved for (R122, log entry 15). -/
def promoteHome (now : Nat) (who : Agent) (atoms : List Nat) (ms : MemSys) : MemSys :=
  let out := fun p : Pin => p.on ms.dram atoms && !scopeIncludes p.scope p.ownerCore who
  let ms := (ms.cache.homePins.filter out).foldl (promote now) ms
  { ms with cache := { ms.cache with reserved := ms.cache.reserved.filter fun p => !out p } }

/-- Promotes the core-scope pins recorded at the core's team cache for these atoms that another core owns. -/
def promoteTeam (now core : Nat) (atoms : List Nat) (ms : MemSys) : MemSys :=
  (ms.cache.teamPins.filter fun p =>
      p.on ms.dram atoms && teamOf p.ownerCore == teamOf core && !scopeIncludes p.scope p.ownerCore (.core core)).foldl
    (promote now) ms

/-- The write-combining buffer of a core drains: a store of the core that reaches the home (R97, R122). -/
def drainWc (now core : Nat) (ms : MemSys) : MemSys :=
  match mget? core ms.cache.wc with
  | none => ms
  | some w =>
    let ms := promoteHome now (.core core) ((atomsOf (w.line * 128) 128).filter fun a =>
      (w.mask &&& lineMask (a % 4 * 32) 32) != 0) ms
    writeOut { ms with cache := { ms.cache with wc := mdel core ms.cache.wc } } now (w.line * 128) w.mask.toNat w.bytes w.own

/-! ## Filling (R101 to R104) -/

/-- Settings held for a class (R103); a class nobody registered takes every way. -/
def classSet (c : Caches) (cls : Nat) : ClassSet := mget ⟨0xFFFF, 0xFFFF, 0, 0, 0⟩ cls c.classes

/-- Victim way of R104 among lines of one set given as (way, class, priority, last use); none: no candidate. -/
def victimWay (mask : BitVec 16) (floor : Nat → Nat) (cls : Nat) (held : List (Nat × Nat × Nat × Nat)) : Option Nat :=
  let count := fun d => (held.filter fun h => h.2.1 == d).length
  let cand := (List.range 16).filter fun w => mask.getLsbD w &&
    (match held.find? fun h => h.1 == w with
     | some h => h.2.1 == cls || decide (floor h.2.1 < count h.2.1)
     | none => true)
  match cand.find? fun w => !(held.any fun h => h.1 == w) with
  | some w => some w
  | none =>
    (cand.filterMap fun w => held.find? fun h => h.1 == w).foldl (fun best h =>
      match best with
      | none => some h
      | some b => if h.2.2.1 < b.2.2.1 || (h.2.2.1 == b.2.2.1 && decide (h.2.2.2 < b.2.2.2)) then some h else best)
      none |>.map (·.1)

/-- Advances the recency clock. -/
def tickUp (c : Caches) : Caches := { c with tick := c.tick + 1 }

/-- Drops a line of a team cache: pins on it are promoted first, dirty bytes written back (R104, R123). -/
def evictTeam (now team : Nat) (ms : MemSys) (line : Nat) : MemSys :=
  let ms := ((ms.cache.teamPins ++ ms.cache.homePins).filter fun p =>
      p.atom / 4 == line && teamOf p.ownerCore == team).foldl (promote now) ms
  let ms := match findLine ms.cache.team team line with
    | some c => if c.count.isSome then ms else wbTeam now team ms c
    | none => ms
  { ms with cache := { ms.cache with team := dropLine ms.cache.team team line } }

/-- Drops a line of an L1 (R123). -/
def evictL1 (now core : Nat) (ms : MemSys) (line : Nat) : MemSys :=
  let ms := (ms.cache.homePins.filter fun p =>
      p.atom / 4 == line && p.scope == .core && p.owner == core).foldl (promote now) ms
  let ms := match findLine ms.cache.l1 core line with
    | some c => wbL1 now core ms c
    | none => ms
  { ms with cache := { ms.cache with l1 := dropLine ms.cache.l1 core line } }

/-- Insertion priority of a fill (R101, R104). -/
def fillPrio (c : Caches) (pol : Pol) : Nat := if pol.code = 1 ∨ pol.code = 4 then 0 else (classSet c pol.cls).prio

/-- Fills a line into a team cache (R104), or serves it without allocating. -/
def fillTeam (now team : Nat) (pol : Pol) (count : Option Nat) (line : Nat) (bs : List Byte) (ms : MemSys) : MemSys :=
  let set := ms.cache.team.filter fun c => c.owner == team && c.line % 1024 == line % 1024
  let cs := classSet ms.cache pol.cls
  match victimWay cs.tways (fun d => (classSet ms.cache d).tfloor) pol.cls
      (set.map fun c => (c.way, c.cls, c.prio, c.used)) with
  | none => ms
  | some w =>
    let ms := match set.find? fun c => c.way == w with
      | some v => evictTeam now team ms v.line
      | none => ms
    { ms with cache := tickUp { ms.cache with team :=
        { owner := team, line := line, bytes := bs, dirty := 0, way := w, cls := pol.cls,
          prio := fillPrio ms.cache pol, used := ms.cache.tick, count := count } :: ms.cache.team } }

/-- Fills a line into an L1: 128 sets of 12 ways; the lowest insertion priority goes first, then the least recently used
(R101, R103, log entry 5). -/
def fillL1 (now core : Nat) (pol : Pol) (line : Nat) (bs : List Byte) (ms : MemSys) : MemSys :=
  let set := ms.cache.l1.filter fun c => c.owner == core && c.line % 128 == line % 128
  let way := match (List.range 12).find? fun w => !(set.any fun c => c.way == w) with
    | some w => w
    | none => (set.foldl (fun best c => match best with
        | none => some c
        | some b => if c.prio < b.prio || (c.prio == b.prio && decide (c.used < b.used)) then some c else best)
        (none : Option CacheLine)).elim 0 (·.way)
  let ms := match set.find? fun c => c.way == way with
    | some v => evictL1 now core ms v.line
    | none => ms
  { ms with cache := tickUp { ms.cache with l1 :=
      { owner := core, line := line, bytes := bs, dirty := 0, way := way, cls := pol.cls,
        prio := fillPrio ms.cache pol, used := ms.cache.tick, count := none } :: ms.cache.l1 } }

/-- The die whose home cache takes a physical line: that of its DRAM stack, or of the stack whose Palette share holds it, which is
on the die of its Vellum stack (R98, R110). -/
def homeDie (pa : Nat) : Option Nat :=
  match physOf false pa with
  | .dram st => some (st / 4)
  | .vellum v => some (v / 2)
  | _ => none

/-- A home line's dirty bytes reach its atoms: a wholly dirty atom is written whole, a partly dirty one is read and merged
(R108, R270). -/
def flushHome (h : HomeLine) (d : Meta) : Meta :=
  (List.range 4).foldl (fun d i =>
    let m := h.dirty &&& lineMask (32 * i) 32
    if m = 0 then d
    else if m = lineMask (32 * i) 32 then wholeAtom (h.line * 4 + i) d
    else decodeAtom d (h.line * 4 + i)) d

/-- The home cache of a line's die takes the line, or uses it again (R98, R100, R104). -/
def touchHome (pol : Pol) (line : Nat) (ms : MemSys) : MemSys :=
  let line := lineOf (forwarded ms.dram (line * 128))
  match homeDie (line * 128) with
  | none => ms
  | some die =>
    if ms.cache.home.any fun h => h.line == line then
      let used := ms.cache.home.map fun h => if h.line == line then { h with used := ms.cache.tick } else h
      { ms with cache := tickUp { ms.cache with home := used } }
    else
      let slice := Config.homeSliceHash line % 48
      let inSet := fun h : HomeLine => h.die == die && h.slice == slice && h.line % 1024 == line % 1024
      let cs := classSet ms.cache pol.cls
      match victimWay cs.hways (fun d => (classSet ms.cache d).hfloor) pol.cls
          ((ms.cache.home.filter inSet).map fun h => (h.way, h.cls, h.prio, h.used)) with
      | none => ms
      | some w =>
        let out := fun h : HomeLine => inSet h && h.way == w
        let new : HomeLine := { die := die, slice := slice, line := line, way := w, cls := pol.cls,
                                prio := fillPrio ms.cache pol, used := ms.cache.tick }
        { ms with dram := (ms.cache.home.filter out).foldl (fun d h => flushHome h d) ms.dram,
                  cache := tickUp { ms.cache with home := new :: ms.cache.home.filter fun h => !out h } }

/-- An engine access or a host access recalls the line from the home cache: its dirty bytes first (R16, R108). -/
def recallHome (line : Nat) (ms : MemSys) : MemSys :=
  let line := lineOf (forwarded ms.dram (line * 128))
  { ms with dram := (ms.cache.home.filter fun h => h.line == line).foldl (fun d h => flushHome h d) ms.dram,
            cache := { ms.cache with home := ms.cache.home.filter fun h => h.line != line } }

/-- An engine's read recalls a line's dirty bytes from the home cache, where the line stays valid (R186). -/
def cleanHome (line : Nat) (ms : MemSys) : MemSys :=
  let line := lineOf (forwarded ms.dram (line * 128))
  { ms with dram := (ms.cache.home.filter fun h => h.line == line).foldl (fun d h => flushHome h d) ms.dram,
            cache := { ms.cache with home := ms.cache.home.map fun h => if h.line == line then { h with dirty := 0 } else h } }

/-- A page that no cache may hold for this access: uncached, write-combining or N (R97, R105). -/
def servedUncached (d : Meta) (a : Attr) (pa : Nat) : Bool :=
  a.cm != 0 || a.n || d.nRanges.any (inRange pa)

/-- An access that reaches the home: pins that leave the agent out are promoted, the atoms read are decoded. -/
def reachHome (now : Nat) (who : Agent) (pa n : Nat) (ms : MemSys) : MemSys :=
  let ms := promoteHome now who (atomsOf pa n) ms
  let ms := match physOf false pa with
    | .peer p => performPeer ms p
    | _ => ms
  { ms with dram := touchAtoms ms.cache.home ms.dram pa n }

/-- A read-count line whose count has reached 0 is no copy any more (R102). -/
def dropExpired (team line : Nat) (ms : MemSys) : MemSys :=
  { ms with cache := { ms.cache with team := ms.cache.team.filter fun c =>
      !(c.owner == team && c.line == line && c.count == some 0) } }

/-- The bytes of a page with N reach no cache at any level (R105). -/
def nearMemory (d : Meta) (a : Attr) (pa : Nat) : Bool := a.n || d.nRanges.any (inRange pa)

/-- A line that is served past L1 and the team cache (R97, R105). -/
def fetchUncached (now core : Nat) (a : Attr) (pol : Pol) (line : Nat) (ms : MemSys) : MemSys × List Byte :=
  let ms := reachHome now (.core core) (line * 128) 128 ms
  (if nearMemory ms.dram a (line * 128) then ms else touchHome pol line ms, readHome ms (line * 128) 128)

/-- A line as the team cache gives it to a core of the team, with what it fills (R99 to R102). A line whose clean bytes an acquire
has passed over is evicted and fetched again (R114). `load`: the access is a load, which a read count counts. -/
def fetchTeam (now core : Nat) (a : Attr) (pol : Pol) (load : Bool) (line : Nat) (ms : MemSys) : MemSys × List Byte :=
  let team := teamOf core
  let ms := dropExpired team line (promoteTeam now core (atomsOf (line * 128) 128) ms)
  let ms := if (findLine ms.cache.team team line).any (·.stale) then evictTeam now team ms line else ms
  match findLine ms.cache.team team line with
  | some c =>
    let left := c.count.map fun k => if load then k - 1 else k
    ({ ms with cache := tickUp { ms.cache with team := onLine ms.cache.team team line fun x =>
        { x with used := ms.cache.tick, count := left } } }, c.bytes)
  | none =>
    let ms := reachHome now (.core core) (line * 128) 128 ms
    let bs := readHome ms (line * 128) 128
    let ms := touchHome pol line ms
    let count := if pol.code = 2 ∧ a.rcok then some (if load then pol.rc - 1 else pol.rc) else none
    (if pol.code = 4 then ms else fillTeam now team pol count line bs ms, bs)

/-- A line as an access of a core gets it, with what it fills (R99 to R102). -/
def fetchLine (now core : Nat) (a : Attr) (pol : Pol) (load : Bool) (line : Nat) (ms : MemSys) : MemSys × List Byte :=
  if servedUncached ms.dram a (line * 128) then fetchUncached now core a pol line ms
  else
    let ms := if (findLine ms.cache.l1 core line).any (·.stale) then evictL1 now core ms line else ms
    match findLine ms.cache.l1 core line with
    | some c =>
      ({ ms with cache := tickUp { ms.cache with l1 := onLine ms.cache.l1 core line fun x =>
          { x with used := ms.cache.tick } } }, c.bytes)
    | none =>
      let r := fetchTeam now core a pol load line ms
      (if pol.code == 0 || pol.code == 1 then fillL1 now core pol line r.2 r.1 else r.1, r.2)

/-- Read-count on a page that does not permit it acts as bypass-L1 (R101). -/
def effPol (a : Attr) (pol : Pol) : Pol := if pol.code = 2 ∧ (!a.rcok || a.cm != 0) then { pol with code := 3, rc := 0 } else pol

/-- Bytes of a line at an offset. -/
def sliceOf (bs : List Byte) (off n : Nat) : List Byte := (bs.drop off).take n

/-- Some atom of the range is poisoned where a load reads it: a line whose atom is wholly dirty hides it (R108), a clean
copy filled before it was poisoned does not (log entry 57). -/
def loadPoison (ms : MemSys) (core : Nat) (pa n : Nat) : List Nat :=
  (poisonedAtoms ms.dram pa n).filter fun a =>
    let full := fun c : CacheLine => (c.dirty &&& lineMask (a % 4 * 32) 32) == lineMask (a % 4 * 32) 32
    !((findLine ms.cache.l1 core (a / 4)).any full || (findLine ms.cache.team (teamOf core) (a / 4)).any full)

/-- The same for an engine that reads through the team cache. -/
def teamPoison (ms : MemSys) (core : Nat) (pa n : Nat) : List Nat :=
  (poisonedAtoms ms.dram pa n).filter fun a =>
    !((findLine ms.cache.team (teamOf core) (a / 4)).any fun c =>
      (c.dirty &&& lineMask (a % 4 * 32) 32) == lineMask (a % 4 * 32) 32)

/-- Writes back and invalidates the issuing core's L1 copy of a line. -/
def pushL1 (now core line : Nat) (ms : MemSys) : MemSys :=
  let ms := wbL1All now core (· == line) ms
  { ms with cache := { ms.cache with l1 := dropLine ms.cache.l1 core line } }

/-- Writes back and invalidates the issuing core's copies of a line below the home (R118, R119). -/
def pushOut (now core line : Nat) (ms : MemSys) : MemSys :=
  let ms := if (mget? core ms.cache.wc).any fun w => w.line == line then drainWc now core ms else ms
  let ms := wbL1All now core (· == line) ms
  let ms := wbTeamAll now (teamOf core) (· == line) ms
  { ms with cache := { ms.cache with l1 := dropLine ms.cache.l1 core line,
                                     team := dropLine ms.cache.team (teamOf core) line } }

/-- Bytes of lanes merge into the core's write-combining buffer, which drains when it is full or another line comes (R97). -/
def storeCombined (now core : Nat) (pa : Nat) (bs : List Byte) (own : List (Nat × Nat)) (ms : MemSys) : MemSys :=
  let line := lineOf pa
  let ms := match mget? core ms.cache.wc with
    | some w => if w.line = line then ms else drainWc now core ms
    | none => ms
  let w := (mget? core ms.cache.wc).getD ⟨line, List.replicate 128 0, 0, []⟩
  let w := { w with bytes := patch w.bytes (pa % 128) bs, mask := w.mask ||| lineMask (pa % 128) bs.length,
                    own := if isPeer pa then (own ++ w.own).dedup else w.own }
  let ms := { ms with cache := { ms.cache with wc := mput core w ms.cache.wc } }
  if w.mask = BitVec.allOnes 128 then drainWc now core ms else ms

/-- Stores bytes of some lanes, which lie within one line (R97, R99, R101, R102). A store to a read-count line goes to the team's
copy, after the core's own. -/
def storeBytes (now core : Nat) (a : Attr) (pol : Pol) (pa : Nat) (bs : List Byte) (ms : MemSys)
    (own : List (Nat × Nat) := []) : MemSys :=
  let line := lineOf pa
  let off := pa % 128
  if a.cm = 2 ∧ !a.n then storeCombined now core pa bs own ms
  else if servedUncached ms.dram a pa then
    let ms := promoteHome now (.core core) (atomsOf pa bs.length) ms
    let ms := if nearMemory ms.dram a pa then recallHome line ms else touchHome pol line ms
    writeOut ms now pa (allMask bs.length) bs own
  else if (findLine ms.cache.team (teamOf core) line).any fun c => c.count.isSome && c.count != some 0 then
    let ms := pushL1 now core line (promoteTeam now core (atomsOf (line * 128) 128) ms)
    { ms with cache := { ms.cache with
        team := onLine ms.cache.team (teamOf core) line fun c => dirtyLine off bs own { c with count := none } } }
  else
    let ms := (fetchLine now core a pol false line ms).1
    if (findLine ms.cache.l1 core line).isSome then
      { ms with cache := { ms.cache with l1 := onLine ms.cache.l1 core line (dirtyLine off bs own) } }
    else if (findLine ms.cache.team (teamOf core) line).isSome then
      { ms with cache := { ms.cache with team := onLine ms.cache.team (teamOf core) line (dirtyLine off bs own) } }
    else writeOut (promoteHome now (.core core) (atomsOf pa bs.length) ms) now pa (allMask bs.length) bs own

/-! ## Active messages (R119, R324) -/

/-- Signed reading of n bytes. -/
def sgn (n x : Nat) : Int := sextNat x (8 * n)

/-- New value of an atomic operation on n bytes (R328); ld and st read and write as they say. -/
def rmw (op : AtomOp) (n old x : Nat) : Nat :=
  match op with
  | .add => (old + x) % 2 ^ (8 * n)
  | .min => if sgn n x < sgn n old then x else old
  | .max => if sgn n old < sgn n x then x else old
  | .and => old &&& x
  | .or => old ||| x
  | .xor => old ^^^ x
  | .exch | .st => x
  | .ld => old

/-- New value of an active message (R323). -/
def amsgNew (op : AmsgOp) (n old x : Nat) : Nat :=
  match op with
  | .add => (old + x) % 2 ^ (8 * n)
  | .min => if sgn n x < sgn n old then x else old
  | .max => if sgn n old < sgn n x then x else old
  | .and => old &&& x
  | .or => old ||| x
  | .xor => old ^^^ x
  | .st => x
  | .fadd => (fadd32 false (BitVec.ofNat 32 old) (BitVec.ofNat 32 x)).1.toNat

/-- The op unit executes one message (R324). A poisoned atom drops it. -/
def runAmsg (now : Nat) (m : Amsg) (ms : MemSys) : MemSys :=
  let ms := reachHome now (.core m.core) m.pa m.size ms
  if (poisonedAtoms ms.dram m.pa m.size).isEmpty then
    let old := leNat (readHome ms m.pa m.size)
    writeHome ms now m.pa (allMask m.size) (leBytes m.size (amsgNew m.op m.size old (m.data.toNat % 2 ^ (8 * m.size))))
  else ms

/-- Home slice of an address (R14). -/
def sliceNo (pa : Nat) : Nat := Config.homeSliceHash (lineOf pa) % 48 + 48 * (stackOf pa / 4)

/-- The posted messages that a release of a group on some lines waits for (R117, R355): those to the lines, and what must go before
them, the earlier ones of the same lane to the same slice (R119). -/
def amsgsDue (group : Nat) (f : Nat → Bool) : List Amsg → List Amsg
  | [] => []
  | m :: r =>
    let rest := amsgsDue group f r
    if m.group == group && (f (lineOf m.pa) || rest.any fun e => e.lane == m.lane && sliceNo e.pa == sliceNo m.pa) then m :: rest
    else rest

/-- The messages of a list but for those of another, each taken once. -/
def amsgsLeft : List Amsg → List Amsg → List Amsg
  | ms, [] => ms
  | ms, d :: ds => amsgsLeft (ms.erase d) ds

/-- Executes the posted messages of a group that a release on some lines waits for, in posting order (R117). -/
def drainAmsgs (now group : Nat) (f : Nat → Bool) (ms : MemSys) : MemSys :=
  let mine := amsgsDue group f ms.cache.amsgs
  mine.foldl (fun ms m => runAmsg now m ms)
    { ms with cache := { ms.cache with amsgs := amsgsLeft ms.cache.amsgs mine } }

/-! ## Release and acquire (R117) -/

/-- Release actions at a scope, on the lines a filter takes; a release also drains the write-combining buffer (R97). -/
def release (now core group : Nat) (sc : Scope) (f : Nat → Bool) (ms : MemSys) : MemSys :=
  let ms := drainWc now core ms
  match sc with
  | .core => ms
  | .team => wbL1All now core f ms
  | _ => wbTeamAll now (teamOf core) f (wbL1All now core f (drainAmsgs now group f ms))

/-- A line of an owner after an acquire on the lines a filter takes: a clean line goes; a dirty one keeps its dirty bytes, and its
clean bytes are no copy any more (R114, R117, log entry 53). -/
def afterAcquire (owner : Nat) (f : Nat → Bool) (c : CacheLine) : Option CacheLine :=
  if c.owner == owner && f c.line then (if c.dirty == 0 then none else some { c with stale := true }) else some c

/-- Acquire actions at a scope, on the lines a filter takes (R117). -/
def acquire (core : Nat) (sc : Scope) (f : Nat → Bool) (ms : MemSys) : MemSys :=
  match sc with
  | .core => ms
  | .team => { ms with cache := { ms.cache with l1 := ms.cache.l1.filterMap (afterAcquire core f) } }
  | _ => { ms with cache := { ms.cache with l1 := ms.cache.l1.filterMap (afterAcquire core f),
                                            team := ms.cache.team.filterMap (afterAcquire (teamOf core) f) } }

/-- Every line. -/
def allLines : Nat → Bool := fun _ => true

/-- Number of a word in the instruction caches. -/
def icacheKey (core pa : Nat) : Nat := core * 2 ^ 60 + pa / 4

/-- The start of groups on a core acquires at device scope, and fetches the code that it acquires: no older word stays in the core's
instruction cache (R128, R298). -/
def startOn (core : Nat) (ms : MemSys) : MemSys :=
  let ms := acquire core .dev allLines ms
  { ms with cache := { ms.cache with icache := ms.cache.icache.filter fun x => x.1 / 2 ^ 60 != core } }

/-! ## Atomics (R118, R121) -/

/-- Where an atomic is executed. -/
inductive AtomPlace where
  | l1 | team | home | sys | peer (n : Nat)
  deriving DecidableEq, Repr

/-- The place of R118. -/
def atomPlace (d : Meta) (a : Attr) (sc : Scope) (pa : Nat) : AtomPlace :=
  match physOf false pa with
  | .peer n => .peer n
  | .host => .sys
  | _ =>
    if servedUncached d a pa then (if sc = .sys then .sys else .home)
    else match sc with
      | .core => .l1
      | .team => .team
      | .dev => .home
      | .sys => .sys

/-- The scope at which the release and acquire actions of an atomic are performed (R118, R121). -/
def atomScope (d : Meta) (a : Attr) (sc : Scope) (pa : Nat) : Scope :=
  match atomPlace d a sc pa with
  | .peer _ => .sys
  | .sys => .sys
  | .home => if sc = .sys then .sys else .dev
  | _ => sc

/-- Brings an atomic's line to its place: copies below are written back and invalidated, outside pins promoted, and the
line filled where the place is a cache. Answers the memory system and the old bytes. -/
def atomFetch (now core : Nat) (a : Attr) (cls : Nat) (pl : AtomPlace) (pa n : Nat) (ms : MemSys) : MemSys × Nat :=
  let line := lineOf pa
  match pl with
  | .l1 =>
    let r := fetchLine now core a { cls := cls } false line ms
    (r.1, leNat (sliceOf r.2 (pa % 128) n))
  | .team =>
    let ms := pushL1 now core line ms
    let r := fetchLine now core a { code := 3, cls := cls } false line ms
    (r.1, leNat (sliceOf r.2 (pa % 128) n))
  | _ =>
    let ms := pushOut now core line ms
    let ms := reachHome now (.core core) pa n ms
    let ms := if nearMemory ms.dram a pa then ms else touchHome { cls := cls } line ms
    (ms, leNat (readHome ms pa n))

/-- Writes an atomic's new value at its place. -/
def atomStore (now core : Nat) (pl : AtomPlace) (pa : Nat) (bs : List Byte) (ms : MemSys) : MemSys :=
  let line := lineOf pa
  let off := pa % 128
  match pl with
  | .l1 =>
    if (findLine ms.cache.l1 core line).isSome then
      { ms with cache := { ms.cache with l1 := onLine ms.cache.l1 core line (dirtyLine off bs []) } }
    else writeOut ms now pa (allMask bs.length) bs
  | .team =>
    if (findLine ms.cache.team (teamOf core) line).isSome then
      let team := onLine ms.cache.team (teamOf core) line fun c => dirtyLine off bs [] { c with count := none }
      { ms with cache := { ms.cache with team := team } }
    else writeOut ms now pa (allMask bs.length) bs
  | .peer p => performPeer (writeOut ms now pa (allMask bs.length) bs) p
  | _ => writeHome ms now pa (allMask bs.length) bs

/-- A narrow release pins the atom it writes, in place of an earlier pin of the same owner, where both places have a free record and
the atom is not reserved against this owner (R121, R122, R124). Answers none where it must be performed at device scope instead. -/
def pinAtom (core launch wg : Nat) (sc : Scope) (atom : Nat) (c : Caches) : Option Caches :=
  let pin : Pin := ⟨atom, sc, if sc = .core then core else teamOf core, launch, wg⟩
  let others := c.homePins.filter fun p => !p.same pin
  let othersT := c.teamPins.filter fun p => !p.same pin
  let slice := fun a : Nat => Config.homeSliceHash (a / 4) % 48
  let homeRoom := decide ((others.filter fun p => slice p.atom == slice atom &&
    p.atom * 32 / (4 * Config.stackBytes) == atom * 32 / (4 * Config.stackBytes)).length < 512)
  let teamRoom := decide ((othersT.filter fun p => teamOf p.ownerCore == teamOf core).length < 256)
  let barred := c.reserved.any fun p => p.atom == atom && scopeIncludes p.scope p.ownerCore (.core core)
  if barred || !homeRoom || (sc = .core && !teamRoom) then none
  else some { c with homePins := pin :: others, teamPins := if sc = .core then pin :: othersT else othersT }

/-! ## Engines (R16, R129) -/

/-- A copy engine reads a global source through the team cache, past the core's L1 (R129). -/
def engineReadTeam (now core cls : Nat) (a : Attr) (pa n : Nat) (ms : MemSys) : MemSys × List Byte :=
  (linesOf pa n).foldl (fun (acc : MemSys × List Byte) l =>
    let pol : Pol := { code := 3, cls := cls }
    let r := if servedUncached acc.1.dram a (l * 128) then fetchUncached now core a pol l acc.1
             else fetchTeam now core a pol false l acc.1
    let lo := max pa (l * 128)
    let hi := min (pa + n) (l * 128 + 128)
    (r.1, acc.2 ++ sliceOf r.2 (lo - l * 128) (hi - lo))) (ms, [])

/-- An Inkwell engine reads DRAM past every home cache, whose dirty bytes are recalled first (R16, R186). -/
def engineRead (now : Nat) (pa n : Nat) (ms : MemSys) : MemSys × List Byte :=
  let ms := (linesOf pa n).foldl (fun ms l => cleanHome l ms) ms
  let ms := reachHome now .device pa n ms
  ({ ms with dram := touchAtoms [] ms.dram pa n }, readHome ms pa n)

/-- An engine writes: pins are promoted, home copies invalidated, then the bytes land (R16, R108). -/
def engineWrite (now : Nat) (who : Agent) (pa : Nat) (bs : List Byte) (ms : MemSys) : MemSys :=
  let ms := promoteHome now who (atomsOf pa bs.length) ms
  let ms := (linesOf pa bs.length).foldl (fun ms l => recallHome l ms) ms
  writeOut ms now pa (allMask bs.length) bs

/-- The copies of a line that a core and its team hold are invalidated, dirty bytes written back first (R129). -/
def dropCopies (now core pa n : Nat) (ms : MemSys) : MemSys :=
  (linesOf pa n).foldl (fun ms l => pushOut now core l ms) ms

end Sys2Proof.Machine
end

