-- ==== Sys2Proof/Machine/Shapes.lean ====
section
/-! DEFINITION. Shapes.lean: the fields of FMT (R59), format classes (R160), shape records (R161, R162), and when an operand of a
posted request counts as rewritten (R130, R164). -/

namespace Sys2Proof.Machine

/-! ## Fields of FMT (R59) -/

def fmtFtz (f : Word) : Bool := f.getLsbD 12
def fmtSat (f : Word) : Bool := f.getLsbD 13
def fmtSpare (f : Word) : Bool := f.getLsbD 16
def fmtHad (f : Word) : Nat := nbits f.toNat 14 2
def fmtQrnd (f : Word) : Nat := nbits f.toNat 10 2
def fmtScale (f : Word) : Nat := nbits f.toNat 8 2
def fmtB (f : Word) : Fmt := (Fmt.ofCode (nbits f.toNat 4 4)).getD .f32
def fmtA (f : Word) : Fmt := (Fmt.ofCode (nbits f.toNat 0 4)).getD .f32

/-- Word i of a descriptor, and the pair at i. -/
def dw (ws : List Word) (i : Nat) : Nat := (ws.getD i 0).toNat
def dw64 (ws : List Word) (i : Nat) : Nat := dw ws i + dw ws (i + 1) * 2 ^ 32

/-- Two byte ranges share a byte. -/
def meets (a : Nat × Nat) (b : Nat × Nat) : Bool := decide (a.1 < b.1 + b.2) && decide (b.1 < a.1 + a.2)

/-! ## Format classes (R160) -/

/-- Class, K-block, and whether a scale mode is allowed; none for FP32. -/
def yokeClass : Fmt → Option (Nat × Nat × Bool)
  | .f32 => none
  | .f16 | .bf16 => some (2, 32, false)
  | .e4m3 | .e5m2 | .tp8 | .e2m3 | .e3m2 => some (0, 64, true)
  | .e2m1 => some (1, 128, true)
  | .s8 => some (3, 64, false)

/-- K-block of a format. -/
def kBlock (f : Fmt) : Nat := (yokeClass f).elim 0 fun x => x.2.1

/-- Block size and scale bytes of a row or column (R162). -/
def scaleBlockOf (scale : Nat) : Nat := if scale = 1 then 32 else 16
def scaleCount (f : Fmt) (scale : Nat) : Nat := if scale = 0 then 0 else kBlock f / scaleBlockOf scale

/-! ## Shape records (R161, R162) -/

def shBase (ws : List Word) : Nat := dw64 ws 0
def shStride (ws : List Word) : Int := sextNat (dw ws 2) 32
def shEstride (ws : List Word) : Nat := nbits (dw ws 3) 0 4
def shKlen (ws : List Word) : Nat := nbits (dw ws 3) 4 7 + 1
def shNlen (ws : List Word) : Nat := nbits (dw ws 3) 11 6 + 1
def shScale (ws : List Word) : Nat := dw64 ws 4

/-- Bit address of an element: row, and place in the row (R162). -/
def elemBit (ws : List Word) (w row col : Nat) : Int :=
  8 * (shBase ws : Int) + 8 * row * shStride ws + (col * shEstride ws * w : Nat)

/-- A code of w bits at a bit address of a byte reader. -/
def codeAt (rd : Nat → Byte) (w : Nat) (bitAddr : Int) : Nat :=
  let a := bitAddr.toNat
  leNat ((List.range 3).map fun i => rd (a / 8 + i)) / 2 ^ (a % 8) % 2 ^ w

/-- Lanes of a segment. -/
def segLanes (m : Nat) : List Nat := (List.range 8).map (8 * m + ·)

/-- Registers of an A operand in registers (R167). -/
def aSpan (f : Fmt) (scale : Nat) : Nat := kBlock f * f.width / 32 + ceilDiv (scaleCount f scale) 4

/-- Bytes of the A-store window that a segment's rows cover. -/
def aBytesOf (f : Fmt) (fmt : Word) (ws : List Word) (m : Nat) : List Nat :=
  (List.range 8).flatMap fun i =>
    ((List.range (kBlock f)).flatMap fun k =>
      let b := (elemBit ws f.width (8 * m + i) k).toNat
      [b / 8, (b + f.width - 1) / 8]) ++
      (List.range (scaleCount f (fmtScale fmt))).map fun j => shScale ws + (8 * m + i) * scaleCount f (fmtScale fmt) + j

/-! ## Operands of posted requests (R130, R164) -/

/-- The A operand of a segment has been written since the group's last OPRDY: its registers, or bytes of the A-store (R130). -/
def aTouched (g : Group) (fmt : Word) (aReg : Nat) (rec8 : Option (List Word)) (m : Nat) : Bool :=
  let f := fmtA fmt
  match rec8 with
  | some ws => (aBytesOf f fmt ws m).any fun b => (g.touchedA ++ g.foreignA).any fun r => meets r (b, 1)
  | none => (segLanes m).any fun l => (List.range (aSpan f (fmtScale fmt))).any fun k => g.touched.contains (l * 256 + aReg + k)

/-- The operand of a posted request has been rewritten since (R130). -/
def Posted.open_ (g : Group) (q : Posted) : Bool := q.rewritten || aTouched g q.fmt q.aReg q.record q.seg

/-- Requests whose operands have been rewritten are marked, before what was written is forgotten. -/
def settlePosted (g : Group) : Group := { g with posted := g.posted.map fun q => { q with rewritten := q.open_ g } }

/-- Adds a range to a list of ranges that has none twice. -/
def insertRange (x : Nat × Nat) (xs : List (Nat × Nat)) : List (Nat × Nat) := if xs.contains x then xs else x :: xs

/-- A group's own write to the A-store window of its workgroup. -/
def noteWindow (a n : Nat) (g : Group) : Group := { g with touchedA := insertRange (a, n) g.touchedA }

/-- A write to the window by an engine or another group: an OPRDY covers it once the group has acquired it (R130, R175, R423). -/
def noteForeign (a n : Nat) (g : Group) : Group := { g with foreignA := insertRange (a, n) g.foreignA }

/-- Bytes of the W-store that column n of a load reads: its elements' and its scales' (R162). -/
def colBytes (ws : List Word) (fmt : Word) (n : Nat) : List Nat :=
  let f := fmtB fmt
  ((List.range (shKlen ws)).flatMap fun k =>
    let b := (elemBit ws f.width k n).toNat
    [b / 8, (b + f.width - 1) / 8]) ++
    (List.range (scaleCount f (fmtScale fmt))).map fun j => shScale ws + n * scaleCount f (fmtScale fmt) + j

/-- A load whose source bytes have been written before it completes: the columns they touch become open (R164). -/
def YokeReq.noteSource (launch wg core a n : Nat) (r : YokeReq) : YokeReq :=
  if r.isLoad && r.launch == launch && r.wg == wg && r.core == core then
    let ws := r.record.getD []
    let hit := (List.range (shNlen ws)).filter fun c => (colBytes ws r.fmt c).any fun b => meets (a, n) (b, 1)
    { r with openCols := r.openCols ++ hit.filter fun c => !r.openCols.contains c }
  else r

/-- OPRDY completes once the group's earlier writes are performed: no long result of the group is still to be written (R175). A
result that only holds a late trap writes nothing more. -/
def wakeOprdy (g : Group) : Group :=
  if g.pend.any fun r => match r.kind with | .fence _ | .late _ => false | _ => true then g
  else if g.splits.any fun p => p.wait == .oprdy then
    { settlePosted g with touched := [], touchedA := [],
                          splits := g.splits.map fun p => if p.wait == .oprdy then { p with wait := .ready } else p }
  else g

end Sys2Proof.Machine
end

