-- ==== Sys2Proof/Machine/Translate.lean ====
section
/-! DEFINITION. Translate.lean: the page walk, the translation structures, the checks of R254, and the view ranges
that a physical address may lie in (R206 to R208, R212, R252 to R255). -/

namespace Sys2Proof.Machine

/-! ## Page tables (R252, R253) -/

/-- Lowest VA bit and count of bits that index a level. -/
def levelBits : Nat → Nat × Nat
  | 4 => (44, 13) | 3 => (32, 12) | 2 => (26, 6) | 1 => (21, 5) | _ => (16, 5)

/-- log2 of a leaf's page size at a level. -/
def pageBits (level : Nat) : Nat := (levelBits level).1

/-- Size in bytes of a table of a level. -/
def tableBytes (level : Nat) : Nat := 8 * 2 ^ (levelBits level).2

/-- Physical address that an entry holds. -/
def entryAddr (e : Nat) : Nat := nbits e 8 44 * 256

/-- A table entry (V = 1, LEAF = 0) that breaks R253. -/
def badTable (level e : Nat) : Bool :=
  nbits e 57 7 != 0 || nbits e 52 5 != 0 || nbits e 2 6 != 0 || level == 0 || entryAddr e % tableBytes (level - 1) != 0

/-- A leaf (V = 1, LEAF = 1) that breaks R253 or R97. -/
def badLeaf (level e : Nat) : Bool :=
  let pa := entryAddr e
  let vellum := decide (Config.vellumBase ≤ pa) && decide (pa < Config.vellumEnd)
  nbits e 57 7 != 0 || level == 4 || nbits e 5 2 == 3 || (nbit e 3 && !nbit e 2) || pa % 2 ^ pageBits level != 0 ||
    nbit e 53 != vellum

/-- Where a walk ends; `missing`: its next table lies at no address that the device has (R20, R96). -/
inductive WalkEnd where
  | leaf (level : Nat) (entry : Nat)
  | absent (level : Nat)
  | bad
  | missing
  deriving DecidableEq, Repr

/-- A walk: its end, the table entries it took, and the physical addresses of the entries it read from memory. -/
structure Walk where
  stop : WalkEnd
  tables : List (Nat × Nat) := []
  reads : List Nat := []
  deriving DecidableEq, Repr

/-- Walks from a level's table down; `cached` is the page-walk cache, `walk` walk mode. -/
def walkTables (ms : MemSys) (walk : Bool) (cached : Nat → Nat → Option Nat) (va : Nat) : Nat → Nat → Walk
  | level, table =>
    let (lo, n) := levelBits level
    let at_ := table + 8 * nbits va lo n
    let held := cached level (va / 2 ^ lo)
    if held.isNone && physOf walk at_ == .absent then { stop := .missing }
    else
      let e := held.getD (leNat (readHome ms at_ 8))
      let seen := if held.isNone then [at_] else []
      if !nbit e 0 then { stop := .absent level, reads := seen }
      else if nbit e 1 then { stop := if badLeaf level e then .bad else .leaf level e, reads := seen }
      else if badTable level e then { stop := .bad, reads := seen }
      else match level with
        | 0 => { stop := .bad, reads := seen }
        | l + 1 =>
          let r := walkTables ms walk cached va l (entryAddr e)
          { r with tables := (level, e) :: r.tables, reads := seen ++ r.reads }

/-! ## Accesses -/

/-- What an access does at its page (R254); `object` updates an object that must lie in device DRAM (R432). -/
inductive Acc where
  | read | write | atomicRead | atomic | amsg | fetch | object
  deriving DecidableEq, Repr

/-- A store, atomic or AMSG: none of them may reach Vellum or a view range (R254). -/
def Acc.stores : Acc → Bool
  | .write | .atomicRead | .atomic | .amsg => true
  | _ => false

/-- ACCESS of a fault-queue record (R258). -/
def Acc.bits : Acc → Nat
  | .read => 1 | .write => 2 | .fetch => 4 | .atomicRead | .atomic | .amsg | .object => 8

/-- Access code of a permission trap (R244): 1 read, 2 write, 3 atomic, 4 fetch. -/
def Acc.code : Acc → Nat
  | .read => 1 | .write => 2 | .fetch => 4 | .atomicRead | .atomic | .amsg => 3 | .object => 5

/-- The right a leaf must have; an atomic that reads and writes needs both (R329). -/
def Acc.allowed (a : Acc) (e : Nat) : Bool :=
  match a with
  | .read | .atomicRead => nbit e 2
  | .write | .atomic | .amsg | .object => nbit e 3
  | .fetch => nbit e 4

/-- Attributes of a leaf (R97, R253). -/
def leafAttr (e : Nat) : Attr :=
  { cm := nbits e 5 2, n := nbit e 7, m := nbit e 52, isSealed := nbit e 54, vellum := nbit e 53, rcok := nbit e 55,
    csrc := nbit e 56 }

/-- Bits [63:57] equal bit 56 (R92). -/
def canonical (va : Nat) : Bool := nbits va 56 8 == 0 || nbits va 56 8 == 255

/-- Whose translation: the structures that hold leaves for it, the die whose walkers serve it. -/
structure Who where
  holders : List TlbHolder
  die : Nat
  asid : Nat
  isSealed : Bool

/-- A core's translations in an address space (R255). -/
def whoCore (core asid : Nat) (isSealed : Bool) : Who :=
  ⟨[.core core, .team (teamOf core)], dieOf core, asid, isSealed⟩

/-- A stack's engines' translations (R255). -/
def whoStack (st asid : Nat) (isSealed : Bool) : Who := ⟨[.stack st], st / 4, asid, isSealed⟩

/-- Finds the leaf of a virtual address: in the leaf structures first, then by a walk. -/
def findWalk (s : State) (w : Who) (va : Nat) : Walk :=
  let v := va % 2 ^ 57
  match s.xlat.tlb.find? fun t => w.holders.contains t.holder && t.asid == w.asid && t.tag == v / 2 ^ pageBits t.level with
  | some t => { stop := .leaf t.level t.entry.toNat }
  | none =>
    match mget? w.asid s.xlat.binds with
    | none => { stop := .bad }
    | some b =>
      let cached := fun level tag => (s.xlat.tlb.find? fun t =>
        t.holder == .die w.die && t.asid == w.asid && t.level == level && t.tag == tag).map fun t => t.entry.toNat
      walkTables s.ms s.plat.walk cached v 4 b.root

/-- The entries that the translation structures hold after a walk (R255). -/
def walkEntries (w : Who) (va : Nat) (k : Walk) : List TlbEntry :=
  let v := va % 2 ^ 57
  let tables := k.tables.map fun (l, e) => (⟨.die w.die, w.asid, l, v / 2 ^ pageBits l, BitVec.ofNat 64 e⟩ : TlbEntry)
  match k.stop with
  | .leaf l e => (if k.reads.isEmpty then [] else w.holders.map fun h =>
      (⟨h, w.asid, l, v / 2 ^ pageBits l, BitVec.ofNat 64 e⟩ : TlbEntry)) ++ tables
  | _ => tables

/-- Entries a structure holds (R255). -/
def tlbCap : TlbHolder → Nat
  | .core _ => 128 | .team _ => 2048 | .stack _ => 256 | .die _ => 4096

/-- Ways of a structure of R255 in which an entry can stand, and which set of it: the team's has sets of 8 ways, by the low bits of
the page number (log entry 10); the others are one set. -/
def tlbWays (h : TlbHolder) : Nat := match h with | .team _ => 8 | h => tlbCap h
def tlbSet (t : TlbEntry) : Nat := t.tag % (tlbCap t.holder / tlbWays t.holder)

/-- Holds new entries; a full set drops its oldest (log entry 10). -/
def addTlb (es : List TlbEntry) (tlb : List TlbEntry) : List TlbEntry :=
  es.foldl (fun t e =>
    let others := t.filter fun x => !(x.holder == e.holder && x.asid == e.asid && x.level == e.level && x.tag == e.tag)
    let mine := others.filter fun x => x.holder == e.holder && tlbSet x == tlbSet e
    let drop := if tlbWays e.holder ≤ mine.length then mine.getLast? else none
    e :: (match drop with | some x => others.erase x | none => others)) tlb

/-- Pages whose N and M attributes the controllers then keep, and when M was first set (R105, R108, R209). -/
def noteLeaf (now : Nat) (d : Meta) (level e : Nat) : Meta :=
  let a := entryAddr e
  let n := 2 ^ pageBits level
  let d := if nbit e 7 && !d.nRanges.contains (a, n) then { d with nRanges := (a, n) :: d.nRanges } else d
  if nbit e 52 && !(d.mRanges.any fun r => r.1 == a && r.2.1 == n) then { d with mRanges := (a, n, now) :: d.mRanges } else d

/-- Physical address of a virtual one under its leaf. -/
def leafPa (level e va : Nat) : Nat := entryAddr e + va % 2 ^ pageBits level

/-- Level and leaf of a virtual address by the tables; of an address space that is not bound, a leaf still held (R255, R430). -/
def leafOf (s : State) (asid va : Nat) : Option (Nat × Nat) :=
  match mget? asid s.xlat.binds with
  | none => (s.xlat.tlb.find? fun t => t.asid == asid && nbit t.entry.toNat 1 && t.tag == va % 2 ^ 57 / 2 ^ pageBits t.level).map
      fun t => (t.level, t.entry.toNat)
  | some b => match (walkTables s.ms s.plat.walk (fun _ _ => none) (va % 2 ^ 57) 4 b.root).stop with
    | .leaf l e => some (l, e)
    | _ => none

/-- Physical address of a virtual one with no check, where its bytes now lie (R212, R278). -/
def plainPa (s : State) (asid va : Nat) : Option Nat :=
  (leafOf s asid va).map fun x => forwarded s.ms.dram (leafPa x.1 x.2 va)

/-- Pages of 64 KiB that a range touches, by count. -/
def rangePages (base len : Nat) : Nat := if len = 0 then 0 else (base + len - 1) / 65536 - base / 65536 + 1

/-! ## View entries (R206, R208) -/

/-- A VALID view entry with its index. -/
structure ViewEntry where
  idx : Nat
  mbase : Nat
  mlen : Nat
  vbase : Nat
  sbase : Nat
  tbase : Nat
  stag : Nat
  ring : DWord
  tag : DWord
  ctl : Nat
  shape : Nat
  spare : Nat
  peer : Nat
  asid : Nat
  /-- A byte or bit that the layout gives as 0 is set. -/
  dirtyZero : Bool
  deriving DecidableEq, Repr

/-- Entry i of a table in memory. -/
def readView (ms : MemSys) (base i : Nat) : ViewEntry :=
  let b := readHome ms (base + 128 * i) 128
  { idx := i, mbase := fieldAt b 0 8, mlen := fieldAt b 8 8, vbase := fieldAt b 16 8, sbase := fieldAt b 24 8,
    tbase := fieldAt b 32 8, stag := fieldAt b 40 8, ring := BitVec.ofNat 64 (fieldAt b 48 8),
    tag := BitVec.ofNat 64 (fieldAt b 56 8), ctl := fieldAt b 64 4, shape := fieldAt b 68 4, spare := fieldAt b 72 2,
    peer := fieldAt b 74 1, asid := fieldAt b 76 4,
    dirtyZero := fieldAt b 75 1 != 0 || fieldAt b 80 48 != 0 || nbits (fieldAt b 64 4) 21 10 != 0 }

/-- Fields of CTL. -/
def ViewEntry.kind (v : ViewEntry) : Nat := nbits v.ctl 0 2
def ViewEntry.mfmt (v : ViewEntry) : Nat := nbits v.ctl 2 4
def ViewEntry.vfmt (v : ViewEntry) : Nat := nbits v.ctl 6 4
def ViewEntry.scale (v : ViewEntry) : Nat := nbits v.ctl 10 2
def ViewEntry.qrnd (v : ViewEntry) : Nat := nbits v.ctl 12 2
def ViewEntry.policy (v : ViewEntry) : Nat := nbits v.ctl 14 2
def ViewEntry.fpol (v : ViewEntry) : Bool := nbit v.ctl 16
def ViewEntry.spareEn (v : ViewEntry) : Bool := nbit v.ctl 17
def ViewEntry.had (v : ViewEntry) : Nat := nbits v.ctl 18 2
def ViewEntry.tile (v : ViewEntry) : Bool := nbit v.ctl 20
def ViewEntry.valid (v : ViewEntry) : Bool := nbit v.ctl 31
def ViewEntry.cols (v : ViewEntry) : Nat := nbits v.shape 0 16 + 1
def ViewEntry.tr (v : ViewEntry) : Nat := nbits v.shape 16 8 + 1
def ViewEntry.tc (v : ViewEntry) : Nat := nbits v.shape 24 8 + 1
/-- Bytes of a master element. -/
def ViewEntry.msize (v : ViewEntry) : Nat := if v.mfmt = 0 then 4 else 2
/-- Elements of the master. -/
def ViewEntry.elems (v : ViewEntry) : Nat := v.mlen / v.msize
def ViewEntry.rows (v : ViewEntry) : Nat := v.mlen / (v.cols * v.msize)
/-- Master elements of a master block (R208). -/
def ViewEntry.perBlock (v : ViewEntry) : Nat := 4096 / v.msize
/-- Bits of a view element. -/
def ViewEntry.width (v : ViewEntry) : Nat := match Fmt.ofCode v.vfmt with | some f => f.width | none => 8
/-- Elements of a scale block; 0 under scale mode none. -/
def ViewEntry.scaleBlock (v : ViewEntry) : Nat := if v.scale = 1 then 32 else if v.scale = 2 then 16 else 0

/-- Valid entries of the view table (R206). A base of 0 is no table (log entry 6). Only entries whose bytes memory
lists can be VALID. -/
def viewsAt (ms : MemSys) (base : Nat) : List ViewEntry :=
  if base = 0 then []
  else
    let idx := (ms.mem.filterMap fun c =>
      if base ≤ c.1 ∧ c.1 < base + 4096 * 128 ∧ (c.1 - base) % 128 = 67 then some ((c.1 - base) / 128) else none).dedup
    (idx.map (readView ms base)).filter ViewEntry.valid

/-- Valid views of the device. The table base is die 0's register (log entry 11). -/
def views (s : State) : List ViewEntry := viewsAt s.ms s.die0.viewTable

/-- Which part of a view a byte belongs to. -/
inductive ViewPart where
  | elem | scale | tag
  deriving DecidableEq, Repr

/-- Byte ranges of a view: part, first virtual byte, length (R208, R212). For a shard view only the shadow tags are
local. -/
def ViewEntry.ranges (v : ViewEntry) : List (ViewPart × Nat × Nat) :=
  let blocks := v.mlen / 4096
  if v.kind = 3 then [(.tag, v.stag, 4 * blocks)]
  else
    (.elem, v.vbase, ceilDiv (v.elems * v.width) 8) :: (.tag, v.tbase, 4 * blocks) ::
      (if v.scaleBlock = 0 then [] else [(.scale, v.sbase, ceilDiv v.elems v.scaleBlock)])

/-- Master element whose view element lies at byte offset k of the elements (R208). -/
def ViewEntry.elemAt (v : ViewEntry) (k : Nat) : Nat :=
  if v.kind = 1 then
    let j := k / v.msize
    if v.tile then
      let t := j / (v.tr * v.tc)
      let r := t / (v.cols / v.tc) * v.tr + j % (v.tr * v.tc) / v.tc
      let c := t % (v.cols / v.tc) * v.tc + j % v.tc
      r * v.cols + c
    else j % v.rows * v.cols + j / v.rows
  else 8 * k / v.width

/-- View block a byte belongs to: its part and its offset in that part. -/
def ViewEntry.blockAt (v : ViewEntry) (p : ViewPart) (off : Nat) : Nat :=
  match p with
  | .elem => v.elemAt off / v.perBlock
  | .scale => off * v.scaleBlock / v.perBlock
  | .tag => off / 4

/-- Where a physical byte lies in a range of an address space, by its pages. -/
def offsetIn (s : State) (asid base len pa : Nat) : Option Nat :=
  let pa := forwarded s.ms.dram pa
  let first := base / 65536
  match (List.range (rangePages base len)).find? fun i => (plainPa s asid ((first + i) * 65536)).any fun p => p == pa / 65536 * 65536 with
  | some i =>
    let va := (first + i) * 65536 + pa % 65536
    if base ≤ va ∧ va < base + len then some (va - base) else none
  | none => none

/-- Views that a physical byte belongs to. -/
def viewOfByte (s : State) (vs : List ViewEntry) (pa : Nat) : List (ViewEntry × ViewPart × Nat) :=
  vs.flatMap fun v => v.ranges.filterMap fun (p, base, len) =>
    (offsetIn s v.asid base len pa).map fun off => (v, p, v.blockAt p off)

/-- View blocks that n bytes touch, tags apart (R212). -/
def viewHits (s : State) (pa n : Nat) : List (ViewEntry × ViewPart × Nat) :=
  match views s with
  | [] => []
  | vs => ((List.range n).flatMap fun i => viewOfByte s vs (pa + i)).dedup

/-! ## Checks (R254) -/

/-- What a translation gives. -/
inductive Xl where
  | ok (pa : Nat) (a : Attr)
  | fault (level : Nat)
  | bad (reason : Nat)
  deriving DecidableEq, Repr

/-- Some byte lies in a sealed physical range (R288). -/
def sealedAt (s : State) (pa n : Nat) : Bool :=
  s.plat.sealedRanges.any fun r => decide (pa < r.1 + r.2) && decide (r.1 < pa + n)

/-- Host memory is reached over CXL.cache, which a start enables at its stage 6 (R20, R292). -/
def hostOff (s : State) (ph : Phys) : Bool := ph == .host && !s.plat.started

/-- Translates n bytes at a canonical address and takes the checks of R254 in order. `dram`: the object must lie in
device DRAM (R432). -/
def xlate (s : State) (w : Who) (acc : Acc) (dram : Bool) (va n : Nat) : Xl :=
  match (findWalk s w va).stop with
  | .bad => .bad 10
  | .missing => .bad 2
  | .absent l => .fault l
  | .leaf l e =>
    let pa := leafPa l e va
    let ph := physOf s.plat.walk pa
    if ph = .absent || hostOff s ph then .bad 2
    else if (nbit e 54 || sealedAt s pa n) && !w.isSealed then .bad 4
    else if (acc.stores && nbit e 53) || ((acc.stores || acc == .object) && !(viewHits s pa n).isEmpty) then .bad 7
    else if dram && !ph.isDram then .bad 12
    else if !acc.allowed e || (acc == .atomic && !nbit e 2) then .bad 3
    else .ok pa (leafAttr e)

/-- The table entries that a walk has read are decoded (R269). -/
def touchTables (k : Walk) (ms : MemSys) : MemSys :=
  { ms with dram := k.reads.foldl (fun d a => touchAtoms ms.cache.home d a 8) ms.dram }

/-- Holds what a translation read, and keeps its page's attributes. -/
def noteXlate (s : State) (w : Who) (va : Nat) : State :=
  let k := findWalk s w va
  let d := (touchTables k s.ms).dram
  let d := match k.stop with | .leaf l e => noteLeaf s.clock.ps d l e | _ => d
  { s with xlat := { s.xlat with tlb := addTlb (walkEntries w va k) s.xlat.tlb }, ms := { s.ms with dram := d } }

end Sys2Proof.Machine
end

