-- ==== Sys2Proof/Machine/Jobs.lean ====
section
/-! DEFINITION. Jobs.lean: the copy engines' channels, the descriptors of their copies and their write pointers (R61, R139, R140,
R142, R143, R145). -/

namespace Sys2Proof.Machine

/-! ## Channels (R61, R142, R143) -/

/-- Number of a channel: 0 to 3 Dray, 4 and 5 Stipple. -/
def chanKey (core ch : Nat) : Nat := core * 6 + ch
def chanOf (s : State) (key : Nat) : Channel := mget {} key s.copies.chans
def putChan (s : State) (key : Nat) (c : Channel) : State :=
  { s with copies := { s.copies with chans := (mset {} key c s.copies.chans) } }

/-- Fields of a Dray descriptor (R139). -/
def drSize (ws : List Word) : Nat := 2 ^ nbits (dw ws 4) 0 3
def drDims (ws : List Word) : Nat := nbits (dw ws 4) 3 3
def drSpace (ws : List Word) : Nat := nbits (dw ws 4) 6 2
def drBox (ws : List Word) (k : Nat) : Nat := dw ws (8 + k) % 65536 + 1
def drStride (ws : List Word) (k : Nat) : Nat := dw64 ws (12 + 2 * k)
/-- Bytes of one index of the last dimension (R140). -/
def drRow (ws : List Word) : Nat := (List.range (drDims ws - 1)).foldl (fun n k => n * drBox ws k) (drSize ws)
/-- Indices of the last dimension. -/
def drLast (ws : List Word) : Nat := drBox ws (drDims ws - 1)

/-- Address of element e of a box, counted in packed order (R140). -/
def drElem (ws : List Word) (e : Nat) : Nat :=
  let r := (List.range (drDims ws)).foldl (fun (acc : Nat × Nat) k =>
    let i := if k + 1 = drDims ws then acc.2 else acc.2 % drBox ws k
    (acc.1 + i * (if k = 0 then drSize ws else drStride ws k), acc.2 / drBox ws k)) (dw64 ws 0, e)
  r.1 % 2 ^ 64

/-- Fields of a Stipple descriptor (R145). -/
def stSize (ws : List Word) : Nat := nbits (dw ws 5) 0 9
def stIdxGlobal (ws : List Word) : Bool := nbit (dw ws 5) 9
def stIdxBytes (ws : List Word) : Nat := if nbit (dw ws 5) 10 then 8 else 4

/-- Bytes that a job delivers in all. -/
def jobTotal (j : CopyJob) : Nat :=
  if j.gather then dw j.words 6 * stSize j.words
  else if j.dec then drBox j.words 0 * drSize j.words
  else (j.slices.map fun x => x.2 * drRow j.words).sum

/-- Destination space of a job, and its first address. -/
def jobSpace (j : CopyJob) : Nat := if j.gather then 0 else drSpace j.words
def jobDst (j : CopyJob) : Nat := if j.gather then dw j.words 4 else dw64 j.words 2

/-- Packed offset of a job's next byte, and the bytes left in its slice. -/
def sliceSpot (row : Nat) : List (Nat × Nat) → Nat → Nat × Nat
  | [], _ => (0, 0)
  | (first, count) :: r, done =>
    if done < count * row then (first * row + done, count * row - done) else sliceSpot row r (done - count * row)

/-- Next destination offset of a job, and the bytes left in its run. -/
def jobSpot (j : CopyJob) : Nat × Nat :=
  if j.gather || j.dec then (j.done, jobTotal j - j.done) else sliceSpot (drRow j.words) j.slices j.done

/-- End of a job's destination, for an idle pointer. -/
def jobEnd (j : CopyJob) : Nat :=
  if j.gather || j.dec then jobTotal j
  else match j.slices.getLast? with
    | some (first, count) => (first + count) * drRow j.words
    | none => 0

/-- The value of a write pointer (R61). -/
def wpWord (idle : Bool) (space addr : Nat) : DWord :=
  BitVec.ofNat 64 (b2n idle * 2 ^ 63 + space % 8 * 2 ^ 60 + addr % 2 ^ 57)

/-- A channel's pointer by its head job. -/
def aimed (c : Channel) : Channel :=
  match c.jobs with
  | j :: _ => { c with wp := wpWord false (jobSpace j) (jobDst j + (jobSpot j).1) }
  | [] => c

/-- Copies that wait for a place enter a queue of fewer than four (R143), and its pointer is that of its head. -/
def filled (c : Channel) : Channel :=
  aimed { c with jobs := c.jobs ++ c.late.take (4 - c.jobs.length), late := c.late.drop (4 - c.jobs.length) }

/-- A channel's pointer with no copy in progress; ADDR stays as it is (R61). -/
def idled (c : Channel) : Channel := { c with parked := none, wp := c.wp ||| BitVec.twoPow 64 63 }

/-- A channel after its head job has ended. -/
def ended (c : Channel) : Channel :=
  match c.jobs with
  | [] => c
  | j :: r => filled { c with jobs := r, parked := none, wp := wpWord true (jobSpace j) (jobDst j + jobEnd j) }

/-- A channel whose queued copies have been discarded (R144). ADDR of its idle pointer is the first byte not delivered, where R61
speaks of the end of the last copy (log entry 54). -/
def cleared (c : Channel) : Channel := filled (idled { c with jobs := [] })

/-- A copy enters a channel's queue, or waits for a place in it. -/
def enqueue (s : State) (key : Nat) (j : CopyJob) : State :=
  putChan s key (filled { chanOf s key with late := (chanOf s key).late ++ [j] })

/-- A channel without some copies. It is idle where its head goes and no copy is left. -/
def withoutJobs (gone : CopyJob → Bool) (c : Channel) : Channel :=
  let left := { c with jobs := c.jobs.filter fun j => !gone j, late := c.late.filter fun j => !gone j }
  filled (if c.jobs.head?.any gone then idled left else left)

/-- Takes copies off every channel, with the chunks of theirs that a peer has still to acknowledge. -/
def dropJobs (s : State) (gone : CopyJob → Bool) : State :=
  let cut := fun key : Nat => (chanOf s key).jobs.head?.any gone
  { s with copies := { s.copies with
      chans := s.copies.chans.map fun x : Nat × Channel => (x.1, withoutJobs gone x.2),
      peerChunks := s.copies.peerChunks.filter fun x => !cut x.1 } }

end Sys2Proof.Machine
end

