-- ==== Sys2Proof/Machine/Ops.lean ====
section
/-! DEFINITION. Ops.lean: the shared operations: registers of a group, the lanes of a split, division, joins and merging
(R27 to R37), records (R152 to R154, R258, R294), the end of a launch (R232, R250, R251), barrier release (R242), taking
a trap (R244, R247) and returning from one (R249, R410). -/

namespace Sys2Proof.Machine

/-! ## Looking up -/

def findGroup (s : State) (gid : Nat) : Option Group := s.sched.groups.find? fun g => g.id == gid
def findSplit (g : Group) (sid : Nat) : Option Split := g.splits.find? fun p => p.id == sid

/-- The group and split that issue. -/
def curSplit (s : State) : Option (Group × Split) :=
  match findGroup s s.cur.1 with
  | some g => (findSplit g s.cur.2).map fun p => (g, p)
  | none => none

/-- A launch or workgroup record to fall back on; a resident group always has its own. -/
def noLaunch : Launch := { id := 0, queue := 0, asid := 0, desc := {} }
def noWg : Workgroup :=
  { launch := 0, wg := 0, cores := [], groupsLeft := 0, aBytes := 0, aBase := [], wBase := [], cBase := [], slots := [],
    trapBase := 0, isSealed := false, priv := false, landingPad := false }

def launchOf (s : State) (id : Nat) : Launch := (s.sched.launches.find? fun l => l.id == id).getD noLaunch
def wgOf (s : State) (launch wg : Nat) : Workgroup :=
  (s.sched.wgs.find? fun w => w.launch == launch && w.wg == wg).getD noWg

/-- Number of the region that owns a launch. -/
def regionOf (s : State) (addr : Nat) : Option Region := s.sched.regions.find? fun r => r.addr == addr

/-- A workgroup's region as it stood when the workgroup was placed (R225). -/
def termsOf (s : State) (launch wg : Nat) : Option Region :=
  (wgOf s launch wg).terms.or (regionOf s (launchOf s launch).desc.region)

/-- A launch's region as it stood at its last placement (R225); as it stands where none of it is placed. -/
def launchTerms (s : State) (l : Launch) : Option Region := l.terms.or (regionOf s l.desc.region)

/-- Device time in ns (R153, R345). -/
def nowNs (s : State) : Nat := s.clock.ps / 1000

/-- A core's settings and picks. -/
def coreSt (s : State) (c : Nat) : CoreSt := mget {} c s.cores.cs

/-- A die's management page that reads 0 and discards writes: no such die, or die 1 in walk mode (R20, R279). -/
def deadDie (s : State) (die : Nat) : Bool := decide (2 ≤ die) || (s.plat.walk && die == 1) || s.plat.inReset
/-- The same of a stack's page. -/
def deadStack (s : State) (st : Nat) : Bool := decide (8 ≤ st) || (s.plat.walk && decide (4 ≤ st)) || s.plat.inReset

/-- A die's page of registers. -/
def dieRegs (s : State) (die : Nat) : Die := if die = 0 then s.die0 else s.die1
def putDie (s : State) (die : Nat) (d : Die) : State := if die = 0 then { s with die0 := d } else { s with die1 := d }

/-- A value that one of several holds, where the spec gives no order among them (log entry 2). -/
def pickOne (s : State) (xs : List Nat) : Nat :=
  match xs with
  | [] => 0
  | [x] => x
  | xs => xs.getD ((Config.freeWord s.free).toNat % xs.length) 0

/-- What a management read or a report delivers (R279, R290, R294). -/
def deliver (s : State) (vs : List DWord) : State := { s with plat := { s.plat with reported := vs } }

/-! ## Putting back -/

/-- Replaces a group by its id. -/
def putGroup (s : State) (g : Group) : State :=
  { s with sched := { s.sched with groups := s.sched.groups.map fun h => if h.id == g.id then g else h } }

/-- Replaces a split by its id. -/
def putSplit (g : Group) (p : Split) : Group :=
  { g with splits := g.splits.map fun q => if q.id == p.id then p else q }

def putLaunch (s : State) (l : Launch) : State :=
  { s with sched := { s.sched with launches := s.sched.launches.map fun k => if k.id == l.id then l else k } }

def putWg (s : State) (w : Workgroup) : State :=
  { s with sched := { s.sched with wgs := s.sched.wgs.map fun v =>
      if v.launch == w.launch && v.wg == w.wg then w else v } }

/-- The launch's sticky exception flags (R88). -/
def addFlags (s : State) (launch : Nat) (f : FpFlags) : State :=
  let l := launchOf s launch
  putLaunch s { l with flags := l.flags.or f }

/-! ## Registers of a group (R52) -/

/-- Keys of registers in a long result's list of overwritten destinations. -/
def sKey (n : Nat) : Nat := 32768 + n
def qKey (n : Nat) : Nat := 33280 + n

/-- Keys of the registers that a part of a load writes: one for each word. -/
def partKeys (d : LoadPart) : List Nat :=
  (List.range (max 1 (d.bytes / 4))).map fun k => if d.isScalar then sKey (d.reg + k) else d.lane * 256 + d.reg + k

/-- Keys of the destinations of a long result. -/
def destKeys (r : LongResult) : List Nat :=
  r.v.map (·.1) ++ r.s.map (fun d => sKey d.1) ++ r.q.toList.map (fun d => qKey d.1) ++ r.parts.flatMap partKeys

/-- A write to a destination of an outstanding long result leaves its final value open (R300). -/
def clobber (key : Nat) (rs : List LongResult) : List LongResult :=
  rs.map fun r => if (destKeys r).contains key then { r with clobbered := key :: r.clobbered } else r

/-- Destinations that a long result shares with others: the value that lands in them is open (R300). -/
def shares (rs : List LongResult) (r : LongResult) : LongResult :=
  { r with clobbered := (destKeys r).filter (fun k => rs.any fun o => (destKeys o).contains k) ++ r.clobbered }

/-- A long instruction's results become outstanding. Where an outstanding result has the same destination, each of the two is a
write to the other's (R300). -/
def addPend (g : Group) (rs : List LongResult) : Group :=
  { g with pend := g.pend.map (shares rs) ++ rs.map (shares g.pend) }

/-- Adds a number to a list of numbers that has none twice. -/
def insertKey (k : Nat) (ks : List Nat) : List Nat := if ks.contains k then ks else k :: ks

/-- Vector register of a lane, by effective number. -/
def getV (g : Group) (lane e : Nat) : Word := mget 0 (lane * 256 + e) g.v
def setV (g : Group) (lane e : Nat) (x : Word) : Group :=
  { g with v := mset 0 (lane * 256 + e) x g.v, pend := clobber (lane * 256 + e) g.pend,
           touched := insertKey (lane * 256 + e) g.touched }

def getS (g : Group) (n : Nat) : Word := mget 0 n g.s
def setS (g : Group) (n : Nat) (x : Word) : Group :=
  { g with s := mset 0 n x g.s, pend := clobber (sKey n) g.pend }

/-- A pair, low word first (R8, R52). -/
def getS64 (g : Group) (n : Nat) : DWord := getS g (n + 1) ++ getS g n
def setS64 (g : Group) (n : Nat) (x : DWord) : Group := setS (setS g n (fld x 0 32)) (n + 1) (fld x 32 32)

/-- P0 reads as 1, and writes to it are discarded (R52). -/
def getP (g : Group) (lane n : Nat) : Bool := n == 0 || (mget 0 lane g.p).getLsbD n
def setP (g : Group) (lane n : Nat) (b : Bool) : Group :=
  if n = 0 then g
  else
    let old := mget 0 lane g.p
    { g with p := mset 0 lane (if b then old ||| BitVec.twoPow 8 n else old &&& ~~~ BitVec.twoPow 8 n) g.p }

/-- Q0 reads as 1, and writes to it are discarded (R52). -/
def getQ (g : Group) (n : Nat) : Bool := n == 0 || g.q.getLsbD n
def setQ (g : Group) (n : Nat) (b : Bool) : Group :=
  if n = 0 then g
  else { g with q := (if b then g.q ||| BitVec.twoPow 8 n else g.q &&& ~~~ BitVec.twoPow 8 n),
                pend := clobber (qKey n) g.pend }

def getX (g : Group) (lane n : Nat) : Byte := mget 0 (lane * 4 + n) g.x
def setX (g : Group) (lane n : Nat) (x : Byte) : Group := { g with x := mset 0 (lane * 4 + n) x g.x }

/-! ## Lanes (R8, R21, R31) -/

/-- A list of lanes as a mask of 128 bits. -/
def laneBits (ls : List Nat) : BitVec 128 := ls.foldl (fun m l => m ||| BitVec.twoPow 128 l) 0

/-- Slice j of a group. -/
def sliceAt (g : Group) (j : Nat) : Slice := g.slices.getD j ⟨0, 0, [], 0⟩

/-- Lanes of a slice whose bit is set. -/
def sliceLanes (j : Nat) (m : BitVec 4) : List Nat := ((List.range 4).filter fun i => m.getLsbD i).map (4 * j + ·)

/-- Lanes of a split that its slices' masks enable, rising. -/
def enabled (g : Group) (p : Split) : List Nat := p.slices.flatMap fun j => sliceLanes j (sliceAt g j).mask

/-- Lanes of the split's slices, whatever their masks. -/
def ownLanes (p : Split) : BitVec 128 := laneBits (p.slices.flatMap fun j => sliceLanes j 15)

/-- Value of a guard in a lane (R299). -/
def guardP (g : Group) (gd : Guard) (lane : Nat) : Bool := xor (getP g lane gd.idx.toNat) gd.neg
def guardQ (g : Group) (gd : Guard) : Bool := xor (getQ g gd.idx.toNat) gd.neg

/-- Active(split) (R8). A load executed again by TRAPRET acts in its recorded lanes only (R329, R375). -/
def active (g : Group) (p : Split) (gd : Guard) : List Nat :=
  match p.redo with
  | some (m, _) => (enabled g p).filter fun l => m.getLsbD l
  | none => (enabled g p).filter (guardP g gd)

/-- The split holds every slice of its group that has not retired (R21). -/
def fullGang (g : Group) (p : Split) : Bool :=
  (List.range g.slices.length).all fun j => (sliceAt g j).live == 0 || p.slices.contains j

/-- Outstanding long results of a split (R300). -/
def outstanding (g : Group) (p : Split) : List LongResult := g.pend.filter fun r => (r.owner &&& ownLanes p) != 0

/-! ## Writing long results -/

/-- The value a destination gets: open where it was overwritten since issue (R300). -/
def landing (free : Nat) (r : LongResult) (key : Nat) (x : Word) : Word :=
  if r.clobbered.contains key then Config.freeWord (free + key) else x

/-- Writes the destinations of a long result. -/
def writeResult (free : Nat) (g : Group) (r : LongResult) : Group :=
  let v := r.v.foldl (fun m d => mset 0 d.1 (landing free r d.1 d.2) m) g.v
  let sr := r.s.foldl (fun m d => mset 0 d.1 (landing free r (sKey d.1) d.2) m) g.s
  let g := { g with v := v, s := sr, touched := r.v.foldl (fun ks d => insertKey d.1 ks) g.touched }
  match r.q with
  | some (n, b) =>
    let b := if r.clobbered.contains (qKey n) then (Config.freeWord (free + qKey n)).getLsbD 0 else b
    if n = 0 then g
    else { g with q := if b then g.q ||| BitVec.twoPow 8 n else g.q &&& ~~~ BitVec.twoPow 8 n }
  | none => g

/-- The counter after the free values of a result. -/
def freeStep : Nat := 65536

/-! ## Records -/

/-- Appends an event to a die's Colophon, which keeps its last 2,048 (R294). -/
def colophon (s : State) (die kind source code : Nat) (data : DWord) : State :=
  let put := fun d : Die =>
    let rec8 := [BitVec.ofNat 32 (nowNs s), BitVec.ofNat 32 (nowNs s / 2 ^ 32), BitVec.ofNat 32 d.colSeq,
      BitVec.ofNat 32 (kind + 256 * source + 65536 * code), fld data 0 32, fld data 32 32, 0, 0]
    let all := d.colophon ++ [rec8]
    { d with colophon := all.drop (all.length - 2048), colSeq := (d.colSeq + 1) % 2 ^ 32 }
  if die = 0 then { s with die0 := put s.die0 } else { s with die1 := put s.die1 }

/-- Takes the memory system's result. Uncorrectable atoms write their Colophon events, and their lines leave the home cache, H being
0 now (R269, R270). -/
def putMs (s : State) (ms : MemSys) : State :=
  match ms.dram.ueSeen with
  | [] => { s with ms := ms }
  | seen =>
    let home := ms.cache.home.filter fun h => !(seen.any fun a => a / 4 == h.line)
    seen.foldl (fun s a => colophon s (stackOf (a * 32) / 4) 2 (stackOf (a * 32)) 0 (BitVec.ofNat 64 (a * 32)))
      { s with ms := { ms with dram := { ms.dram with ueSeen := [] }, cache := { ms.cache with home := home } } }

/-- A device agent reads bytes at their home (R269). -/
def deviceRead (s : State) (pa n : Nat) : State := putMs s (reachHome s.clock.ps .device pa n s.ms)

/-- A walk that ends without a leaf has read its entries too (R269). -/
def noteWalk (s : State) (w : Who) (va : Nat) : State := putMs s (touchTables (findWalk s w va) s.ms)

/-! ## Releases (R117) -/

/-- An acquire of a group: what others have written to its A-store window before it, within a bound, its next OPRDY covers (R128,
R383, R423). -/
def acquireWindow (g : Group) (f : Nat × Nat → Bool := fun _ => true) : Group :=
  { g with touchedA := g.foreignA.filter f ++ g.touchedA, foreignA := g.foreignA.filter fun x => !f x }

/-- Loads of lanes that have not returned: a release waits for them. -/
def loadsOut (g : Group) (ls : List Nat) : Bool :=
  g.pend.any fun r => (r.lanes &&& laneBits ls) != 0 && (match r.kind with
    | .mem [] [] _ => false
    | .mem _ _ _ => true
    | _ => false)

/-- What a release of lanes at a scope has to see acknowledged by a peer: dirty bytes of peer lines that it writes back and, at
system scope, earlier writes of the lanes; `f`: the lines of a release on some lines only (R355). -/
def peersDue (ms : MemSys) (core group : Nat) (ls : List Nat) (sc : Scope) (f : Nat → Bool := allLines) : Bool :=
  let away := fun (c : CacheLine) (owner : Nat) => c.owner == owner && c.dirty != 0 && isPeer (c.line * 128) && f c.line
  match sc with
  | .core | .team => false
  | _ => ms.cache.l1.any (away · core) || ms.cache.team.any (away · (teamOf core)) ||
      ((mget? core ms.cache.wc).any fun w => isPeer (w.line * 128) && f w.line) ||
      (sc == .sys && ms.cache.peerWrites.any fun w => w.lost.isNone && f (lineOf w.pa) && w.own.any fun o => o.1 == group && ls.contains o.2)

/-- The release of an instruction has still to wait: for loads of its lanes, or for a peer while no port is up (log entry 16). -/
def relHeld (s : State) (g : Group) (ls : List Nat) (sc : Scope) : Bool :=
  loadsOut g ls || (s.plat.linkUp == 0 && peersDue s.ms g.core g.id ls sc)

/-- A release at a scope; at device and system scope peers acknowledge what it writes back to them. -/
def releaseAt (s : State) (core group : Nat) (sc : Scope) : State :=
  let s := putMs s (release s.clock.ps core group sc allLines s.ms)
  if sc == .core || sc == .team || s.plat.linkUp == 0 then s else { s with ms := performPeers s.ms }

/-! ## Records on their way to rings -/

/-- A record on its way to a ring (R152, R431): the words with SEQ still 0. -/
def postRing (s : State) (header : Nat) (asid : Option Nat) (die : Nat) (ws : List Word) (source : Nat := 10)
    (unit : Nat := 0xFFFF) : State :=
  { s with copies := { s.copies with rings := s.copies.rings ++
      [{ header := header, asid := asid, die := die, words := ws, source := source, unit := unit }] } }

/-- The words of a completion record (R153). -/
def recordWords (s : State) (kind status code bytes : Nat) (tag : DWord) : List Word :=
  [BitVec.ofNat 32 (kind + 256 * status + 65536 * code), 0, BitVec.ofNat 32 bytes, BitVec.ofNat 32 (bytes / 2 ^ 32),
    fld tag 0 32, fld tag 32 32, BitVec.ofNat 32 (nowNs s), BitVec.ofNat 32 (nowNs s / 2 ^ 32)]

/-- Posts a completion record to a virtual ring. -/
def postRecord (s : State) (header : DWord) (asid die kind status code bytes : Nat) (tag : DWord) (source : Nat := 10)
    (unit : Nat := 0xFFFF) : State :=
  postRing s header.toNat (some asid) die (recordWords s kind status code bytes tag) source unit

/-- Fault-queue header of a die and world (R258, R279). -/
def faultQueue (s : State) (die : Nat) (isSealed : Bool) : Nat :=
  let d := if die = 0 then s.die0 else s.die1
  if isSealed then d.faultqSealed else d.faultqOpen

/-- The world of an address space (R430). -/
def asidSealed (s : State) (asid : Nat) : Bool := (mget? asid s.xlat.binds).any fun b => b.isSealed

/-- A translation fault: one record for a page with no unresolved record on that die (R258). -/
def faultRecord (s : State) (die source : Nat) (acc : Nat) (unit asid va level : Nat) : State :=
  let page := va % 2 ^ 57 / 65536
  let s := noteWalk s ⟨[], die, asid, false⟩ va
  if s.xlat.records.contains ⟨die, asid, page⟩ then s
  else
    let s := { s with xlat := { s.xlat with records := s.xlat.records ++ [⟨die, asid, page⟩] } }
    let q := faultQueue s die (asidSealed s asid)
    let lo := va / 65536 * 65536
    if q = 0 then s
    else postRing s q none die [BitVec.ofNat 32 (source + 256 * acc + 65536 * unit), 0, BitVec.ofNat 32 lo,
      BitVec.ofNat 32 (lo / 2 ^ 32), BitVec.ofNat 32 asid, BitVec.ofNat 32 level, 0, 0]

/-- Flags as CODE[4:0] of a KIND 3 record (R153). -/
def flagBits (f : FpFlags) : Nat :=
  b2n f.invalid + 2 * b2n f.divZero + 4 * b2n f.overflow + 8 * b2n f.underflow + 16 * b2n f.inexact

/-- The launch-completion record of a launch (R232): to the CRING of its region. -/
def postLaunchRecord (s : State) (l : Launch) (status code bytes : Nat) : State :=
  match launchTerms s l with
  | some r => postRecord s r.cring l.asid 0 3 status code bytes (BitVec.ofNat 64 l.id)
  | none =>
    -- the region named by the queue's header (R232)
    match (s.sched.queues.find? fun q => q.num == l.queue).bind fun q => regionOf s q.region with
    | some r => postRecord s r.cring l.asid 0 3 status code bytes (BitVec.ofNat 64 l.id)
    | none => s

/-! ## Workgroups and launches coming to an end -/

/-- Work of a retired workgroup that still uses its buffers and slots (R351, R353). -/
def wgBusy (s : State) (w : Workgroup) : Bool :=
  (s.cores.yokes.any fun y => (y.2.table ++ y.2.waiting ++ y.2.running).any fun r => r.launch == w.launch && r.wg == w.wg) ||
  (s.copies.chans.any fun c => (c.2.jobs ++ c.2.late).any fun j => j.launch == w.launch && j.wg == w.wg)

/-- Frees the stencil planes of physical slots of a team (R159). -/
def dropPlanes (slots : List Nat) (y : Yoke) : Yoke := { y with planes := y.planes.filter fun p => !slots.contains p.1 }

/-- Releases a workgroup's record and its planes. -/
def dropWg (s : State) (w : Workgroup) : State :=
  { s with
    sched := { s.sched with wgs := s.sched.wgs.filter fun v => !(v.launch == w.launch && v.wg == w.wg) },
    cores := { s.cores with yokes := s.cores.yokes.map fun (t, y) =>
      (t, match mget? t w.slots with | some sl => dropPlanes sl y | none => y) } }

/-- Releases every workgroup whose groups have retired and whose work has ended. -/
def sweepWgs (s : State) : State :=
  (s.sched.wgs.filter fun w => w.groupsLeft == 0 && !wgBusy s w).foldl dropWg s

/-- The queue moves past its head launch, once every workgroup of it is placed or it will not be placed. -/
def advanceQueue (s : State) (launch : Nat) : State :=
  match s.sched.queues.find? fun q => q.head == some launch with
  | none => s
  | some q =>
    let head := leNat (readHome s.ms (q.header + 24) 8)
    let s := putMs s (engineWrite s.clock.ps .device (q.header + 24) (leBytes 8 (head + 1)) s.ms)
    { s with sched := { s.sched with queues := s.sched.queues.map fun p =>
        if p.num == q.num then { p with head := none, prev := some launch, condMet := [], condDead := [], condErr := 0,
                                        condPa := [], condWait := [], fitSince := none, drain := [] } else p } }

/-- Takes every piece of a launch's in-core work off the machine (R250): its groups, copies, requests, lookups. Active
messages, stores and what rings hold stay. -/
def dropLaunchWork (s : State) (id : Nat) : State :=
  let s := dropJobs s fun j => j.launch == id
  { s with
    sched := { s.sched with groups := s.sched.groups.filter fun g => g.launch != id,
                            deferred := s.sched.deferred.filter fun d => d.launch != id,
                            relay := s.sched.relay.filter fun d => d.launch != id },
    cores := { s.cores with yokes := s.cores.yokes.map fun (t, y) =>
      (t, { y with table := y.table.filter fun r => r.launch != id, waiting := y.waiting.filter fun r => r.launch != id,
                   running := y.running.filter fun r => r.launch != id }) },
    render := { s.render with washes := s.render.washes.filter fun w => w.launch != id,
                              dying := insertKey id s.render.dying },
    tier := { s.tier with tpf := s.tier.tpf.filter fun t => !(t.launch == id && t.isLocal) },
    pre := { s.pre with saved := s.pre.saved.filter (fun x => x.launch != id),
                        aborted := s.pre.aborted.filter fun x => x.launch != id },
    ms := { s.ms with cache := { s.ms.cache with fences := s.ms.cache.fences.filter fun f =>
      !(s.sched.groups.any fun g => g.id == f.group && g.launch == id) } } }

/-- Ends a launch after a fatal trap (R250). -/
def endLaunch (s : State) (id cause : Nat) : State :=
  let l := launchOf s id
  if l.completed then s
  else
    let first := l.fatal.getD cause
    let s := dropLaunchWork s id
    let s := (s.sched.wgs.filter fun w => w.launch == id).foldl dropWg s
    let s := advanceQueue (putLaunch s { l with fatal := some first, completed := true }) id
    postLaunchRecord s l 9 (flagBits l.flags + 256 * first) l.retired

/-- Ancestors of a region, itself first. -/
def ancestors (s : State) : Nat → Nat → List Nat
  | 0, _ => []
  | k + 1, addr =>
    match regionOf s addr with
    | some r => addr :: (if r.parent = 0 then [] else ancestors s k r.parent)
    | none => []

/-- Chain of a region up to its root. -/
def chainOf (s : State) (addr : Nat) : List Nat := ancestors s (s.sched.regions.length + 1) addr


/-- Bytes that a checkpoint has streamed (R222, R223). -/
def Ckpt.bytes (c : Ckpt) : Nat :=
  match c.vellum, c.ended with
  | some _, some _ => min (65536 * c.programmed) (65600 * c.entries)
  | _, _ => 65600 * c.entries

/-- A record of the Vellum tier, to the CRING of its region (R220, R223). -/
def tierRecord (s : State) (cring : Option DWord) (asid die kind status code bytes : Nat) (tag : DWord) : State :=
  match cring with
  | some c => postRecord s c asid die kind status (min code 65535) bytes tag
  | none => s

/-- Die of the Blotter of a checkpoint's first block. -/
def ckptDie (s : State) (c : Ckpt) : Nat := (plainPa s c.asid c.src).elim 0 fun pa => stackOf pa / 4 % 2

/-- A stack's controller. -/
def ctlOf (s : State) (st : Nat) : Stack := mget {} st s.ctls
def putCtl (s : State) (st : Nat) (c : Stack) : State := { s with ctls := mset {} st c s.ctls }

/-- A lock-step read has released its banks: their postponed refreshes are issued, but that of a bank in back-off (R273). -/
def releaseBanks (s : State) (st : Nat) : State :=
  let c := ctlOf s st
  let held := c.postponed.filter fun x => c.inBackoff.any fun b => b.1 == x.1
  putCtl s st { c with postponed := held }

/-- Stack of a checkpoint's block; none where its page has none, which any Blotter may take. -/
def blockStack (s : State) (c : Ckpt) (b : Nat) : Option Nat :=
  (plainPa s c.asid (c.src + 65536 * b)).bind fun pa => match physOf s.plat.walk pa with | .dram st => some st | _ => none

/-- An engine of the stack has a lock-step read under way: a master block the Copyist has still to read, or a block that the
Blotter sweeps. -/
def lockStepRead (s : State) (st : Nat) : Bool :=
  (s.tier.jobs.any fun j => j.data.isNone && !j.stopped && stackOf (j.block * 4096) == st) ||
    s.tier.ckpts.any fun c => c.left.any fun b => blockStack s c b == some st

/-- A lock-step read that has ended without its last bytes releases its banks (R273). -/
def freeBanks (s : State) : State :=
  (List.range Config.numStacks).foldl (fun s st => if lockStepRead s st then s else releaseBanks s st) s

/-- Installs and checkpoints of regions end with STATUS ABORTED (R220, R223, R251). -/
def abortTier (s : State) (inDom : Nat → Bool) : State :=
  let ins := s.tier.installs.flatMap fun x : Nat × List Install =>
    (x.2.filter fun i => inDom i.region && i.ckpt.isNone).map fun i => (x.1 / 2, i)
  let cks := s.tier.ckpts.filter fun c => inDom c.region
  let s := ins.foldl (fun s (d, i) => tierRecord s i.cring i.asid d 1 7 0 (65536 * i.done) i.tag) s
  let s := cks.foldl (fun s c =>
    tierRecord s c.cring c.asid (ckptDie s c) 2 7 c.skipped ({ c with ended := some 7 } : Ckpt).bytes c.tag) s
  let gone := fun id : Nat => cks.any fun c => c.id == id
  freeBanks { s with tier := { s.tier with
    installs := s.tier.installs.map fun x : Nat × List Install => (x.1, x.2.filter fun i => !inDom i.region),
    ckpts := s.tier.ckpts.filter fun c => !inDom c.region,
    acks := s.tier.acks.filter fun a => !gone a.ckpt,
    blocked := s.tier.blocked.filter fun j => !gone j.ckpt } }

/-- The region whose registration frees the queues of a killed domain: its root (R251). -/
def domainRoot (s : State) (addr : Nat) : Nat :=
  let chain := chainOf s addr
  (chain.find? fun a => (regionOf s a).any fun r => r.domRoot).getD (chain.getLast?.getD addr)

/-- Regions of the fault domain of a region (R251). -/
def faultDomain (s : State) (addr : Nat) : List Nat :=
  (s.sched.regions.filter fun r => (chainOf s r.addr).contains (domainRoot s addr)).map fun r => r.addr

/-- Kills the fault domain of a region, for a trap on a core (R251). Launches of which a workgroup has been placed end; the queues of the domain keep
their HEAD. -/
def killDomain (s : State) (addr cause core : Nat) : State :=
  let dom := faultDomain s addr
  let root := domainRoot s addr
  let inDom := fun l : Launch => dom.contains l.desc.region
  let s := abortTier s dom.contains
  let queues := s.sched.queues.map fun q : Queue =>
    if dom.contains q.region then { q with stopped := insertKey root q.stopped, head := none, fitSince := none, drain := [] } else q
  let s := { s with sched := { s.sched with queues := queues } }
  let live := s.sched.launches.filter fun l => inDom l && !l.completed && decide (0 < l.placed)
  let s := live.foldl (fun (s : State) (l : Launch) => endLaunch s l.id cause) s
  colophon s (dieOf core) 4 (core / 2) cause (BitVec.ofNat 64 addr)

/-! ## Division, joins and merging (R27, R31 to R37) -/

/-- A slice's continuation: its number, next PC and the FMT it continues with. -/
structure Cont where
  slice : Nat
  pc : DWord
  fmt : Word
  deriving DecidableEq, Repr

/-- The split continues at one place, or divides by next PC and FMT into splits of one new fork (R27, R37). The part
with the lowest slice keeps the split's number. Each part has a copy of the split's join register and of its trap and resume
state too, where R27 names the copy of FMT and R64 that of the fault registers (log entry 49). -/
def divide (g : Group) (p : Split) (join : Option DWord) (cs : List Cont) : Group :=
  let keys := (cs.map fun c => (c.pc, c.fmt)).dedup
  match keys with
  | [] => { g with splits := g.splits.filter fun q => q.id != p.id }
  | [(pc, fmt)] => putSplit g { p with pc := pc, fmt := fmt, slices := cs.map (·.slice) }
  | _ =>
    let fork : Fork := ⟨g.nextFork, cs.map (·.slice), join, p.fmt, p.fork⟩
    let part := fun (k : DWord × Word) (id : Nat) =>
      { p with id := id, pc := k.1, fmt := k.2, fork := some g.nextFork,
               slices := (cs.filter fun c => c.pc == k.1 && c.fmt == k.2).map (·.slice) }
    let parts := keys.zipIdx.map fun (k, i) => part k (if i = 0 then p.id else g.nextSplit + i)
    { g with splits := (g.splits.filter fun q => q.id != p.id) ++ parts,
             forks := g.forks ++ [fork], nextFork := g.nextFork + 1, nextSplit := g.nextSplit + keys.length + 1 }

/-- Replaces slice j. -/
def putSlice (g : Group) (j : Nat) (sl : Slice) : Group := { g with slices := modifyNth (fun _ => sl) j g.slices }

/-- The slice after its top entry has gone; the newest spilled entry comes back to the core (R34). -/
def popEntry (rd : Nat → MaskEntry) (sl : Slice) : Slice :=
  let rest := sl.stack.drop 1
  if sl.spilled = 0 then { sl with stack := rest }
  else
    let e := rd sl.spilled
    let e := { e with pending := e.pending &&& sl.live }
    { sl with stack := rest ++ [e], spilled := sl.spilled - 1 }

/-- One join action of a slice at its top entry (R33): the slice after it, its PC and FMT, and whether it popped. `rd`
reads the spilled entry at a depth. Lanes restored because every running lane has exited go on at the entry's join PC, where
R33's pseudocode sets no PC (log entry 49). -/
def joinAction (rd : Nat → MaskEntry) (sl : Slice) (pc : DWord) : Option (Slice × DWord × Word × Bool) :=
  match sl.stack with
  | [] => none
  | e :: rest =>
    if e.pending ≠ 0 then
      some ({ sl with mask := e.pending, stack := { e with pending := 0 } :: rest }, e.pendingPc, e.fmt, false)
    else
      some ({ popEntry rd sl with mask := e.saved &&& sl.live }, if sl.mask = 0 then e.join.getD pc else pc, e.fmt, true)

/-- Whether a slice has a join action due at a PC: its top entry's join PC, or every lane of its mask has exited (R33). -/
def actionDue (sl : Slice) (pc : DWord) : Bool :=
  match sl.stack with
  | [] => false
  | e :: _ => e.join == some pc || (sl.mask == 0 && sl.live != 0)

/-- Every due join action of a slice: at its PC, or because every lane of its mask has exited. -/
def joinAll (rd : Nat → MaskEntry) : Nat → Slice → DWord → Word → Slice × DWord × Word
  | 0, sl, pc, fmt => (sl, pc, fmt)
  | k + 1, sl, pc, fmt =>
    if actionDue sl pc then
      match joinAction rd sl pc with
      | some (sl', pc', fmt', popped) => if popped || sl'.mask = 0 then joinAll rd k sl' pc' fmt' else (sl', pc', fmt')
      | none => (sl, pc, fmt)
    else (sl, pc, fmt)

/-- A join action is due at the split's PC (R33, R306). -/
def joinDue (g : Group) (p : Split) : Bool :=
  p.hints.words.isEmpty && p.slices.any fun j => match (sliceAt g j).stack with
    | e :: _ => e.join == some p.pc
    | [] => false

/-- A slice after its due join actions at a place. -/
def joinCont (rd : Nat → Nat → MaskEntry) (g : Group) (c : Cont) : Slice × DWord × Word :=
  let sl := sliceAt g c.slice
  joinAll (rd c.slice) (2 * (sl.stack.length + sl.spilled) + 1) sl c.pc c.fmt

/-- Performs the join actions of the slices for which `due` holds, and divides the split by where all come out (R33, R37). The
FMT restored is the whole split's: that of the lowest acting slice where they differ. A slice without an action goes on with it,
and a fork made here records it; its join PC is that of the lowest acting slice's top entry (log entry 49). -/
def settleWhere (due : Cont → Bool) (rd : Nat → Nat → MaskEntry) (g : Group) (p : Split) (cs : List Cont) : Group :=
  let first := cs.find? due
  let fmt := first.elim p.fmt fun c => (joinCont rd g c).2.2
  let join := first.bind fun c => (sliceAt g c.slice).stack.head?.bind (·.join)
  let out := cs.map fun c => (c.slice, if due c then joinCont rd g c else (sliceAt g c.slice, c.pc, fmt))
  let h := out.foldl (fun g (j, r) => putSlice g j r.1) g
  divide h { p with fmt := fmt } join (out.map fun (j, r) => ⟨j, r.2.1, r.2.2⟩)

/-- Performs the join actions due at given PCs of the slices (R33, R37). -/
def settle (rd : Nat → Nat → MaskEntry) (g : Group) (p : Split) (cs : List Cont) : Group :=
  settleWhere (fun c => actionDue (sliceAt g c.slice) c.pc) rd g p cs

/-- Every slice of the split at its PC with its FMT. -/
def contsHere (p : Split) : List Cont := p.slices.map fun j => ⟨j, p.pc, p.fmt⟩

/-- Slice masks covered by splits parked at one REGANG address, with retired slices (R36). -/
def covered (g : Group) (f : Fork) (ps : List Split) : Bool :=
  f.slices.all fun j => (sliceAt g j).live == 0 || ps.any fun p => p.slices.contains j

/-- Splits of a fork that are parked at a REGANG address. -/
def parkedAt (g : Group) (f : Fork) (pc : DWord) : List Split :=
  g.splits.filter fun p => p.fork == some f.id && p.wait == .regang pc

/-- Some fork whose splits cover its mask at one address. -/
def mergeable (g : Group) : Option (Fork × DWord) :=
  g.forks.findSome? fun f =>
    (g.splits.findSome? fun p => match p.wait with
      | .regang pc => if p.fork == some f.id && covered g f (parkedAt g f pc) then some pc else none
      | _ => none).map fun pc => (f, pc)

/-- A merged split meets the REGANG under its new fork (R36). After a fork with a join PC it parks again where the new fork has
that join PC too; after a fork without one it acts on the REGANG under its parent, so that it parks where that fork has that join
PC or none. It goes on after the REGANG otherwise. -/
def afterMerge (g : Group) (p : Split) (pc : DWord) (hadJoin : Bool) : Split :=
  match p.fork.bind fun f => g.forks.find? fun k => k.id == f with
  | some f =>
    if f.join == some pc || (!hadJoin && f.join == none) then { p with wait := .regang pc }
    else { p with wait := .ready, pc := pc + 4 }
  | none => { p with wait := .ready, pc := pc + 4 }

/-- Merges covered forks, cascading (R36). The merged split takes the fault registers of the part with the lowest slice
(R64), and with them its join register and its trap and resume state, of which R36 does not speak (log entry 49). -/
def mergeForks : Nat → Group → Group
  | 0, g => g
  | k + 1, g =>
    match mergeable g with
    | none => g
    | some (f, pc) =>
      let ps := parkedAt g f pc
      match ps.foldl (fun best q => match best with
          | none => some q
          | some b => if q.slices.headD 0 < (b : Split).slices.headD 0 then some q else best) (none : Option Split) with
      | none => g
      | some low =>
        let slices := (List.range g.slices.length).filter fun j => ps.any fun p => p.slices.contains j
        let merged := { low with slices := slices, fmt := f.fmt, fork := f.parent }
        let g := { g with forks := g.forks.filter fun q => q.id != f.id,
                          splits := (g.splits.filter fun q => !(ps.any fun p => p.id == q.id)) ++ [merged] }
        mergeForks k (putSplit g (afterMerge g merged pc f.join.isSome))

/-- Merges everything that can merge. -/
def mergeAll (g : Group) : Group := mergeForks (g.forks.length + 1) g

/-! ## Barriers of a workgroup and launch (R242, R243) -/

/-- Every slice of the group that has not retired waits in a state. -/
def allWait (g : Group) (f : Wait → Bool) : Bool := g.splits.all fun p => f p.wait

/-- A split leaves a waiting state, past the instruction that put it there. -/
def wake (p : Split) : Split := { p with wait := .ready }

/-- Wakes every split of a group. -/
def wakeAll (g : Group) : Group := { g with splits := g.splits.map wake }

/-- The narrowest scope of a span (R128). -/
def spanScope (cores : List Nat) : Scope :=
  match cores with
  | [_] => .core
  | c :: r => if (r.all fun d => teamOf d == teamOf c) then .team else .dev
  | [] => .core

/-- A BAR of a workgroup releases when each of its groups waits at BAR (R242). -/
def releaseBar (s : State) (launch wg : Nat) : State :=
  let mine := fun g : Group => g.launch == launch && g.wg == wg
  let gs := s.sched.groups.filter mine
  if gs ≠ [] && (gs.all fun g => allWait g (· == .bar)) then
    let sc := spanScope (wgOf s launch wg).cores
    let s := gs.foldl (fun s g => { s with ms := acquire g.core sc allLines s.ms }) s
    { s with sched := { s.sched with groups := s.sched.groups.map fun g => if mine g then wakeAll (acquireWindow g) else g } }
  else s

/-- A group lies where a CAD level of another reaches (R242). -/
def cadReach (lv : CadLevel) (a b : Group) : Bool :=
  a.launch == b.launch && (match lv with
    | .team => teamOf a.core == teamOf b.core
    | .die => dieOf a.core == dieOf b.core
    | .device => true)

/-- Scope of a CAD level (R128). -/
def cadScope : CadLevel → Scope
  | .team => .team
  | _ => .dev

/-- Cycles one die's counters start late at a release across dies (R243). -/
def skewOf (resets die : Nat) : Nat :=
  let k := Config.dieSkew resets % 7
  if k < 4 then (if die = 1 then k else 0) else (if die = 0 then k - 3 else 0)

/-- A CAD level releases around a group when every group it reaches waits there (R242); the counters go to 0 (R243). -/
def releaseCad (s : State) (lv : CadLevel) (g0 : Group) : State :=
  let mine := fun g : Group => cadReach lv g0 g
  let gs := s.sched.groups.filter mine
  if gs ≠ [] && (gs.all fun g => allWait g (· == .cad lv)) then
    let s := gs.foldl (fun s g => { s with ms := acquire g.core (cadScope lv) allLines s.ms }) s
    let both := gs.any fun g => dieOf g.core != dieOf g0.core
    let groups := s.sched.groups.map fun g =>
      if mine g then { wakeAll (acquireWindow g) with phase := 0, phaseHold := if both then skewOf s.clock.resets (dieOf g.core) else 0 }
      else g
    { s with sched := { s.sched with groups := groups } }
  else s

/-- Releases whatever barrier of a launch has become complete. -/
def releaseAll (s : State) (launch : Nat) : State :=
  let wgs := (s.sched.groups.filter fun g => g.launch == launch).map fun g => g.wg
  let s := wgs.dedup.foldl (fun s w => releaseBar s launch w) s
  (s.sched.groups.filter fun g => g.launch == launch).foldl (fun s g =>
    [CadLevel.team, .die, .device].foldl (fun s lv => releaseCad s lv g) s) s

/-! ## Taking a trap (R244, R247) and returning (R249, R410) -/

/-- Address of the trapping instruction, or of the first hint of its pair (R244). -/
def startPc (p : Split) : DWord := if p.hints.words.isEmpty then p.pc else p.hints.start

/-- Resume state of a trap (R247). -/
def resumeOf (g : Group) (p : Split) (after : DWord) (redo : Option (BitVec 128)) (late : Bool) (progress : Nat)
    (later : List Moved) : Resume :=
  { masks := p.slices.map fun j => (j, (sliceAt g j).mask), fmt := p.fmt, join := p.join, after := after, redo := redo,
    late := late, progress := progress, later := later }

/-- The split after trap entry: fault registers, resume state, handler address (R244, R247). -/
def trapped (g : Group) (p : Split) (base : DWord) (t : Trap) (pc after : DWord) (redo : Option (BitVec 128))
    (late : Bool) (later : List Moved) : Split :=
  { p with flt := { cause := BitVec.ofNat 32 t.cause, pc := pc, addr := t.addr, lanes := t.lanes,
                    progress := BitVec.ofNat 32 t.progress, info := t.info },
           resume := some (resumeOf g p after redo late t.progress later),
           pc := base &&& ~~~ 3#64, hints := {}, wait := .ready, ypark := false, age := 0,
           redo := none, progress := 0, captured := [], later := [] }

/-- Where a trap finds its handler, or that it is fatal (R247, R250). All 64 bits of TRAP_BASE are compared with 0; a base of 1 to 3
is not 0, and enters a handler at address 0 (R64, log entry 50). -/
def isFatal (w : Workgroup) (p : Split) : Bool := w.trapBase == 0 || p.resume.isSome

/-- Takes a trap in a split (R247, R250, R251), its outstanding results being written. `after` is the resume-after
address; `later`, what the instructions from there on have moved already. -/
def enterTrap (s : State) (g : Group) (p : Split) (t : Trap) (pc after : DWord) (redo : Option (BitVec 128))
    (late : Bool) (later : List Moved) : State :=
  let l := launchOf s g.launch
  let w := wgOf s g.launch g.wg
  if t.cause = 0x0B ∧ ((termsOf s g.launch g.wg).any fun r => r.kill) then killDomain s l.desc.region t.cause g.core
  else if isFatal w p then
    endLaunch (colophon s (dieOf g.core) 3 (g.core / 2) t.cause (BitVec.ofNat 64 l.id)) l.id t.cause
  else putGroup s (putSplit g (trapped g p w.trapBase t pc after redo late later))

/-- Writes the split's outstanding results whose value is known (R247, step 1), which an OPRDY may have waited for. -/
def flushKnown (free : Nat) (g : Group) (p : Split) : Group :=
  let known := (outstanding g p).filter fun r => r.kind == .value
  let rest := { g with pend := g.pend.filter fun r => !((r.owner &&& ownLanes p) != 0 && r.kind == .value) }
  if known.isEmpty then g else wakeOprdy (known.foldl (fun g r => writeResult free g r) rest)

/-- A result that holds a late trap. -/
def isLate (r : LongResult) : Bool := match r.kind with | .late _ => true | _ => false

/-- The split parks at its instruction, which it executes again from the first hint (R256, R306). -/
def backTo (p : Split) (w : Wait) : Split := { p with pc := startPc p, hints := {}, wait := w }

/-- A trap of the instruction that issues. It waits while results of the split are not known yet (R247, step 1); a late
trap goes before it (R375). One that TRAPRET #0 executes again keeps the lanes it acts in, and where it goes on (R329, R375). -/
def takeTrap (s : State) (g : Group) (p : Split) (t : Trap) (redo : Option (BitVec 128)) : State :=
  let known := ((outstanding g p).filter fun r => r.kind == .value) != []
  let g' := flushKnown s.free g p
  let s := if known then { s with free := s.free + freeStep } else s
  if (outstanding g' p).any isLate then putGroup s (putSplit g' (backTo p .ready))
  else match outstanding g' p with
  | [] => enterTrap s g' p t (startPc p) (match p.redo with | some (_, some a) => a | _ => p.pc + 4)
      (redo.or (p.redo.map (·.1))) (p.redo.any fun r => r.2.isSome) p.later
  | _ => putGroup s (putSplit g' { p with wait := .drain t redo })

/-- The return from a trap (R249, R410): none outside trap state, and none where the split's slices or masks differ from those of
the resume state, which lanes that exited in the handler have left (R248, R353). -/
def returnFrom (g : Group) (p : Split) (m : RetMode) : Option Split :=
  match p.resume with
  | none => none
  | some r =>
    let here := p.slices.map fun j => (j, (sliceAt g j).mask)
    if here ≠ r.masks then none
    else
      let p := { p with fmt := r.fmt, join := r.join, resume := none, hints := {}, age := 0 }
      match m with
      | .after =>
        let m := r.later.headD {}
        some { p with pc := r.after, progress := m.count, captured := m.data, redo := m.redo, later := r.later.drop 1 }
      | .again => some { p with pc := p.flt.pc, progress := r.progress, later := r.later,
                                redo := r.redo.map fun l => (l, if r.late then some r.after else none) }

end Sys2Proof.Machine
end

