-- ==== Sys2Proof/Machine/Flags.lean ====
section
/-! DEFINITION. Flags.lean: conditions, predicates and the launch's sticky exception flags (R88, R308, R359, R370, R403). -/

namespace Sys2Proof.Machine

/-- Value of an integer condition (R308, R370): eq and ne compare bits, lt to ge compare signed values, lo and hs compare
unsigned values. -/
def icond {n : Nat} (c : ICond) (a b : BitVec n) : Bool :=
  match c with
  | .eq => a == b
  | .ne => a != b
  | .lt => a.slt b
  | .le => a.sle b
  | .gt => b.slt a
  | .ge => b.sle a
  | .lo => a.ult b
  | .hs => b.ule a

/-- Value of an FP32 condition on the decoded operands (R82). -/
def fcondX (c : FCond) (a b : XVal) : Bool :=
  match c with
  | .eq => a.eq b
  | .ne => !a.eq b
  | .lt => a.lt b
  | .le => a.lt b || a.eq b
  | .gt => b.lt a
  | .ge => b.lt a || a.eq b
  | .num => !a.isNan && !b.isNan
  | .nan => a.isNan || b.isNan

/-- A condition that sets invalid for any NaN (R359). -/
def condOrdered : FCond → Bool
  | .lt | .le | .gt | .ge => true
  | _ => false

/-- Value and flags of an FP32 comparison (R359). -/
def fcond (ftz : Bool) (c : FCond) (a b : Word) : Bool × FpFlags :=
  let x := in32 ftz a
  let y := in32 ftz b
  let bad := isSnan .f32 a.toNat || isSnan .f32 b.toNat || (condOrdered c && (x.isNan || y.isNan))
  (fcondX c x y, { invalid := bad })

/-- How a comparison joins the old predicate (R359). -/
def comb (m : Comb) (old new : Bool) : Bool :=
  match m with
  | .set => new
  | .and => old && new
  | .or => old || new
  | .xor => xor old new

/-- Writes predicate n of lanes. -/
def setPreds (g : Group) (ls : List Nat) (n : Nat) (f : Nat → Bool) : Group :=
  ls.foldl (fun h l => setP h l n (f l)) g

/-- Flags raised by the lanes. -/
def laneFlags (ls : List Nat) (f : Nat → FpFlags) : FpFlags := ls.foldl (fun fl l => fl.or (f l)) {}

/-- Adds flags to the launch (R88); no flag leaves the state as it is. -/
def noteFlags (s : State) (launch : Nat) (f : FpFlags) : State := if f = {} then s else addFlags s launch f

end Sys2Proof.Machine
end

