-- ==== Sys2Proof/Machine/Operands.lean ====
section
/-! DEFINITION. Operands.lean: how an instruction issues: the hints its pair accepts (R303 to R306), the register checks of
R54 and R55, built immediates, addresses, the address checks of R91, R92 and R254 in the order of R312, parking on a
translation fault (R256), watchpoints (R246) and passing on to the next word. -/

namespace Sys2Proof.Machine

/-! ## Passing on -/

/-- Address after the instruction; a load executed again by TRAPRET after a late trap goes on where the split was (R375). -/
def nextPc (p : Split) : DWord :=
  match p.redo with
  | some (_, some a) => a
  | _ => p.pc + 4

/-- The split after an instruction that does not branch: its PC advances, its pair is over, Y parks it (R297, R300). An instruction
that a late trap came before keeps what it has moved (R257). -/
def advance (p : Split) (y : Bool) : Split :=
  let m := p.later.headD {}
  { p with pc := nextPc p, ypark := y, hints := {}, redo := m.redo, progress := m.count, captured := m.data,
           later := p.later.drop 1, age := 0 }

/-- Puts the group back with its split past the instruction. -/
def finish (s : State) (g : Group) (p : Split) (y : Bool) : State := putGroup s (putSplit g (advance p y))

/-- An instruction held until some step of the device has come about (R143, R173, R219). -/
def hold (s : State) (g : Group) (p : Split) : State := putGroup s (putSplit g (backTo p .held))

/-! ## Hints (R303 to R306) -/

/-- What a pair's consumer accepts. `fwd`: HFWD, with its b operand or immediate zero. -/
structure Accept where
  fwd : Bool := false
  rc : Bool := false
  pol : Bool := false
  z : Bool := false
  sat : Bool := false
  had : Bool := false
  w : Bool := false
  imms : Nat := 0
  deriving DecidableEq, Repr

/-- The fields of an HX are accepted (R101, R304). -/
def hxOk (a : Accept) (x : Hx) : Bool :=
  (x.rc == 0 || (a.rc && x.pol == 2)) && (x.pol == 0 || a.pol) && (x.pol != 2 || x.rc != 0) && (!x.z || a.z) &&
    (!x.sat || a.sat) && (x.had == 0 || a.had) && (!x.w || a.w)

/-- The first hint that breaks the pair (R306, log entry 12). -/
def badHint (a : Accept) (h : Prefix) : Option Word :=
  let at1 := if h.hfwd.isSome then 1 else 0
  let at2 := at1 + if h.hx.isSome then 1 else 0
  if h.hfwd.isSome && !a.fwd then h.words[0]?
  else if h.hx.any (fun x => !hxOk a x) then h.words[at1]?
  else if h.hfwd.isSome && !h.himm.isEmpty then h.words[at2]?
  else if a.imms < h.himm.length then h.words[at2 + a.imms]?
  else none

/-- The modifiers of the pair. -/
def hxOf (p : Split) : Hx := p.hints.hx.getD {}

/-- The word of an instruction that has one. -/
def wordOf (i : Instr) : Word := (encode i).getD 0

/-- An instruction of the P class (R307, R310). -/
def pClass (w : Word) : Bool :=
  let op := (fld w 21 6).toNat
  let xop := (fld w 13 8).toNat
  if op = 0x3F then [0x01, 0x02, 0x03, 0x04, 0x08, 0x25, 0x28, 0x29, 0x33].contains xop
  else decide (op < 0x18) || (decide (0x23 ≤ op) && decide (op ≤ 0x2E)) || [0x31, 0x33, 0x34].contains op

/-- FLT_LANES of a trap that names no lane of its own: the active lanes, or the enabled lanes outside the P class
(log entry 13). -/
def issueLanes (i : Instr) (g : Group) (p : Split) : BitVec 128 :=
  laneBits (if pClass (wordOf i) then (i.guard?.elim (enabled g p) (active g p)) else enabled g p)

/-- The illegal-instruction trap (R244). -/
def illegal (i : Instr) (g : Group) (p : Split) : Trap :=
  { cause := 0x01, lanes := issueLanes i g p, info := (wordOf i).setWidth 64 }

/-- The illegal-hint trap of a pair (R244). -/
def hintTrap (i : Instr) (g : Group) (p : Split) (hint : Word) : Trap :=
  { cause := 0x02, lanes := issueLanes i g p, info := wordOf i ++ hint }

/-- A permission trap (R245): reason, access, address, lanes. -/
def permTrap (reason access : Nat) (addr : DWord) (lanes : BitVec 128) : Trap :=
  { cause := 0x0B, addr := addr, lanes := lanes, info := BitVec.ofNat 64 (reason + 16 * access) }

/-- A misalignment trap (R244). -/
def alignTrap (align : Nat) (addr : DWord) (lanes : BitVec 128) : Trap :=
  { cause := 0x0C, addr := addr, lanes := lanes, info := BitVec.ofNat 64 align }

/-- The misalignment trap of the lowest of some fields (value, alignment) that are misaligned (R244). -/
def fieldAlign (fields : List (Nat × Nat)) (lanes : BitVec 128) : Option Trap :=
  match fields.filter fun x => x.1 % x.2 != 0 with
  | [] => none
  | x :: r =>
    let low := r.foldl (fun (m : Nat × Nat) y => if y.1 < m.1 then y else m) x
    some (alignTrap low.2 (BitVec.ofNat 64 low.1) lanes)

/-- Issues an instruction of the current split: a broken pair traps (R306, R312). -/
def issueAt (i : Instr) (a : Accept) (s : State) (f : Group → Split → State) : Host.Outcome State Fault Refusal :=
  match curSplit s with
  | none => .fault .noIssuingSplit
  | some (g, p) =>
    match badHint a p.hints with
    | some w => .next (takeTrap s g p (hintTrap i g p w) none)
    | none => .next (f g p)

/-- Takes a trap, or has the effect. -/
def orTrap (s : State) (g : Group) (p : Split) (t : Option Trap) (eff : State) : State :=
  match t with
  | some t => takeTrap s g p t none
  | none => eff

/-- A Q-class instruction: a false guard only advances (R299). -/
def issueQ (i : Instr) (a : Accept) (y : Bool) (gd : Guard) (s : State) (f : Group → Split → State) :
    Host.Outcome State Fault Refusal :=
  issueAt i a s fun g p => if guardQ g gd || p.redo.isSome then f g p else finish s g p y

/-! ## Register checks (R8, R54, R55) -/

/-- Effective number of a vector field (R53). -/
def eff (g : Group) (n : Nat) : Nat := n + g.wb.toNat

/-- Register numbers of a vector operand of n consecutive registers. -/
def span (r : BitVec 6) (n : Nat) : List Nat := (List.range n).map (· + r.toNat)

/-- The lowest of some numbers at or above a limit. -/
def lowestOver (limit : Nat) (rs : List Nat) : Option Nat :=
  match rs.filter fun r => decide (limit ≤ r) with
  | [] => none
  | r :: t => some (t.foldl min r)

/-- The register-range trap of vector registers given window-relative, raised where a lane is active (R54). -/
def vRange (g : Group) (ls : List Nat) (rs : List Nat) : Option Trap :=
  if ls.isEmpty then none
  else (lowestOver g.vregs (rs.map (eff g))).map fun e =>
    { cause := 0x03, lanes := laneBits ls, info := BitVec.ofNat 64 (e % 512) }

/-- The register-range trap of scalar registers (R55). -/
def sRange (g : Group) (lanes : BitVec 128) (rs : List Nat) : Option Trap :=
  (lowestOver g.sregs rs).map fun r => { cause := 0x03, lanes := lanes, info := BitVec.ofNat 64 (r % 512 + 512) }

/-- Lanes a trap of the Q class or the fixed class records. -/
def allOf (g : Group) (p : Split) : BitVec 128 := laneBits (enabled g p)

/-- Scalar registers of an instruction that acts once for its split. -/
def sCheck (g : Group) (p : Split) (rs : List Nat) : Option Trap := sRange g (allOf g p) rs

/-- The check of operand b: a vector register, or a broadcast scalar (R55, R301). -/
def bRange (g : Group) (ls : List Nat) : Src → Option Trap
  | .v n => vRange g ls [n.toNat]
  | .s n => if ls.isEmpty then none else sRange g (laneBits ls) [n.toNat]

/-- Vector register of operand b. -/
def srcRegs : Option Src → List Nat
  | some (.v n) => [n.toNat]
  | _ => []

/-- The checks of a lane-wise instruction's operands: FLT_INFO names the lowest of the vector registers that fail, b's among them
(R54, R244), and else the broadcast scalar (log entry 57). -/
def opRange (g : Group) (ls regs : List Nat) (b : Option Src) : Option Trap :=
  (vRange g ls (regs ++ srcRegs b)).or (b.bind (bRange g ls))

/-- Operand b in a lane (R301). -/
def bVal (g : Group) (lane : Nat) : Src → Word
  | .v n => getV g lane (eff g n.toNat)
  | .s n => getS g n.toNat

/-- Operand a in a lane. -/
def aVal (g : Group) (lane : Nat) (r : BitVec 6) : Word := getV g lane (eff g r.toNat)

/-- The 64-bit value of a register pair of a lane, low word first. -/
def pairVal (g : Group) (lane : Nat) (r : BitVec 6) : DWord :=
  getV g lane (eff g (r.toNat + 1)) ++ getV g lane (eff g r.toNat)

/-- Writes a vector register of lanes. -/
def setLanes (g : Group) (ls : List Nat) (e : Nat) (f : Nat → Word) : Group :=
  ls.foldl (fun h l => setV h l e (f l)) g

/-! ## Immediates and displacements (R303) -/

/-- The built immediate of an instruction whose own field has k bits. -/
def builtImm (p : Split) (k : Nat) (own : Nat) : Int :=
  let acc := p.hints.himm.foldl (fun a h => a * 2 ^ 21 + h.toNat) 0
  sextNat (acc * 2 ^ k + own) (k + 21 * p.hints.himm.length)

/-- imm9 of the VI format. -/
def immVI (p : Split) (i : BitVec 9) : Int := builtImm p 9 i.toNat
/-- imm12 of the SI format. -/
def immSI (p : Split) (i : BitVec 12) : Int := builtImm p 12 i.toNat
/-- Word offset of the SM format: without a hint it is zero-extended. -/
def immSM (p : Split) (i : BitVec 6) : Int := if p.hints.himm.isEmpty then i.toNat else builtImm p 6 i.toNat
/-- Byte displacement of the VM and VMM formats. -/
def dispVM (p : Split) : Int := if p.hints.himm.isEmpty then 0 else builtImm p 0 0

/-- Address of a lane in the VM and VMM formats (R91, R301). -/
def vmAddr (g : Group) (p : Split) (a : BitVec 6) (sb : BitVec 5) (lane : Nat) : DWord :=
  getS64 g (2 * sb.toNat) + (aVal g lane a).signExtend 64 + BitVec.ofInt 64 (dispVM p)

/-- Registers of a base pair S2sb. -/
def basePair (sb : BitVec 5) : List Nat := [2 * sb.toNat, 2 * sb.toNat + 1]

/-! ## Address checks (R91, R92, R254, R312) -/

/-- What the address checks give: lane, physical address and attributes; a trap; a translation fault; or a peer link that
retrains (R286). -/
inductive Checked where
  | ok (xs : List (Nat × Nat × Attr))
  | trap (t : Trap)
  | park (va level : Nat) (lanes : BitVec 128)
  | wait
  deriving DecidableEq, Repr

/-- Lanes of a list of accesses. -/
def lanesOf {α : Type} (as : List (Nat × α)) : BitVec 128 := laneBits (as.map (·.1))

/-- The lowest address of failing accesses, which FLT_ADDR records (R91, R244; log entry 51). -/
def lowestVa : List (Nat × Nat) → Nat
  | [] => 0
  | (_, va) :: r => r.foldl (fun m x => min m x.2) va

/-- The trap of the accesses that fail a check, with the lowest of their addresses. -/
def failing (t : DWord → BitVec 128 → Trap) (bad : List (Nat × Nat)) : Option Trap :=
  if bad.isEmpty then none else some (t (BitVec.ofNat 64 (lowestVa bad)) (lanesOf bad))

/-- Misaligned accesses (R91, R92). -/
def misaligned (align : Nat) (as : List (Nat × Nat)) : Option Trap :=
  failing (alignTrap align) (as.filter fun a => a.2 % align != 0)

/-- Accesses at addresses that are not canonical (R92). -/
def notCanonical (code : Nat) (as : List (Nat × Nat)) : Option Trap :=
  failing (permTrap 1 code) (as.filter fun a => !canonical a.2)

/-- Loads, and atomics, of peer memory while no port of the link group is up (R286). -/
def peerDown (s : State) (acc : Acc) (pa : Nat) : Bool :=
  s.plat.linkUp == 0 && acc != .write && acc != .amsg &&
    (match physOf s.plat.walk pa with | .peer _ => true | _ => false)

/-- The leaf checks of every access: the lowest failing lane gives the reason (R312), and a trap goes before a translation fault,
which is that of the lowest failing address (R244, log entry 35). -/
def checkLeaves (s : State) (w : Who) (acc : Acc) (dram : Bool) (code n : Nat) (as : List (Nat × Nat)) : Checked :=
  let rs := as.map fun (l, va) =>
    (l, va, match xlate s w acc dram va n with
      | .ok pa a => if peerDown s acc pa && s.plat.linkRetraining == 0 then Xl.bad 2 else .ok pa a
      | x => x)
  match rs.filterMap fun (l, va, x) => match x with | .bad r => some (l, va, r) | _ => none with
  | (l, va, r) :: more =>
    let bad := ((l, va, r) :: more).map fun x => (x.1, x.2.1)
    .trap (permTrap r code (BitVec.ofNat 64 (lowestVa bad)) (lanesOf bad))
  | [] =>
    match rs.filterMap fun (l, va, x) => match x with | .fault lv => some (l, va, lv) | _ => none with
    | (l, va, lv) :: more =>
      let low := more.foldl (fun (m : Nat × Nat) x => if x.2.1 < m.1 then x.2 else m) (va, lv)
      .park low.1 low.2 (lanesOf ((l, va, lv) :: more))
    | [] =>
      let oks := rs.filterMap fun (l, _, x) => match x with | .ok pa a => some (l, pa, a) | _ => none
      if oks.any fun (_, pa, _) => peerDown s acc pa then .wait else .ok oks

/-- The address checks of accesses of n bytes: alignment, canonical form, then the leaf. -/
def checkLanes (s : State) (w : Who) (acc : Acc) (dram : Bool) (code align n : Nat) (as : List (Nat × Nat)) : Checked :=
  match misaligned align as with
  | some t => .trap t
  | none =>
    match notCanonical code as with
    | some t => .trap t
    | none => checkLeaves s w acc dram code n as

/-- The same for one object of an instruction that acts once for its split: the trap records the split's lanes. -/
def checkObject (s : State) (w : Who) (lanes : BitVec 128) (acc : Acc) (dram : Bool) (code align n va : Nat) : Checked :=
  match checkLanes s w acc dram code align n [(0, va)] with
  | .trap t => .trap { t with lanes := lanes }
  | .park v lv _ => .park v lv lanes
  | x => x

/-- Translations of a group's core, in its launch's address space and its workgroup's world (R252, R255). -/
def whoOf (s : State) (g : Group) : Who :=
  whoCore g.core (launchOf s g.launch).asid (wgOf s g.launch g.wg).isSealed

/-- Holds what the translations of accesses read. -/
def noteAll (s : State) (w : Who) (vas : List Nat) : State := vas.foldl (fun s va => noteXlate s w va) s

/-- Parks the split on a translation fault; the instruction executes again from the start (R256, R258). SOURCE 1 is a
core's access. The trap that a failed resolution gives has the access code of the instruction (R244, R259). -/
def parkOn (s : State) (g : Group) (p : Split) (source : Nat) (acc : Acc) (va level : Nat)
    (lanes : Option (BitVec 128) := none) (code : Option Nat := none) : State :=
  let asid := (launchOf s g.launch).asid
  let die := dieOf g.core
  let s := faultRecord s die source acc.bits g.core asid va level
  let t := { permTrap 3 (code.getD acc.code) (BitVec.ofNat 64 va) (lanes.getD (allOf g p)) with progress := p.progress }
  putGroup s (putSplit g (backTo p (.replay die asid (va % 2 ^ 57 / 65536) t (p.pc + 4))))

/-- A permission trap that a check of the leaf gives comes after the walk that found it (R254, R269). -/
def walkOf (s : State) (g : Group) (t : Trap) : State :=
  if t.cause == 0x0B && [2, 3, 4, 7, 10, 12].contains (t.info.toNat % 16) then noteWalk s (whoOf s g) t.addr.toNat else s

/-- Goes on where the checks pass; traps, parks or waits otherwise. -/
def withChecked (s : State) (g : Group) (p : Split) (source : Nat) (acc : Acc) (c : Checked)
    (f : List (Nat × Nat × Attr) → State) (code : Option Nat := none) : State :=
  match c with
  | .ok xs => f xs
  | .trap t => takeTrap (walkOf s g t) g p t none
  | .park va lv ls => parkOn s g p source acc va lv (some ls) code
  | .wait => hold s g p

/-! ## Watchpoints (R246) -/

/-- The watchpoints that cover a launch, as its core's die holds them: number, base, length, mode. -/
def watches (s : State) (g : Group) : List (Nat × Nat × Nat × Nat) :=
  let d := if dieOf g.core = 0 then s.die0 else s.die1
  if d.watchCtx = g.launch then d.watch.zipIdx.map fun (x, i) => (i, x) else []

/-- The watchpoint trap of accesses of n bytes that read, write or do both. -/
def watchTrap (s : State) (g : Group) (rd wr : Bool) (n : Nat) (as : List (Nat × Nat)) : Option Trap :=
  let hits := as.filterMap fun (l, va) =>
    ((List.range n).findSome? fun i =>
      (watches s g).findSome? fun (k, base, len, mode) =>
        if decide (base ≤ va + i) && decide (va + i < base + len) && ((rd && nbit mode 0) || (wr && nbit mode 1))
        then some (va + i, k, wr && nbit mode 1) else none).map fun h => (l, h)
  match hits with
  | [] => none
  | (l, a, k, w) :: r =>
    some { cause := 0x11, addr := BitVec.ofNat 64 a, lanes := lanesOf ((l, a, k, w) :: r),
           info := BitVec.ofNat 64 (k + 4 * b2n w) }

/-! ## Typed buffers (R24, R91) -/

/-- Bytes of the A-store window of a workgroup (R24). -/
def aWindow (w : Workgroup) : Nat := w.aBytes * w.cores.length

/-- Core that holds a byte of the A-store window, and the byte's number there. -/
def aPlace (w : Workgroup) (a : Nat) : Nat × Nat :=
  let c := w.cores.getD (a / w.aBytes) 0
  (c, mget 0 c w.aBase + a % w.aBytes)

/-- Number of a typed-buffer byte in the map of its kind. -/
def bufKey (core off : Nat) : Nat := core * 2 ^ 24 + off

/-- Bytes of the A-store window. -/
def aRead (s : State) (w : Workgroup) (a n : Nat) : List Byte :=
  (List.range n).map fun i => let x := aPlace w (a + i); mget 0 (bufKey x.1 x.2) s.cores.astore

/-- Writes bytes of the A-store window. The groups of the workgroup note it for their posted requests (R130); a group that writes
itself notes that at its own instruction. -/
def aWrite (w : Workgroup) (a : Nat) (bs : List Byte) (s : State) : State :=
  let m := bs.zipIdx.foldl (fun m (b, i) => let x := aPlace w (a + i); mset 0 (bufKey x.1 x.2) b m) s.cores.astore
  { s with cores := { s.cores with astore := m },
           sched := { s.sched with groups := s.sched.groups.map fun g =>
             if g.launch == w.launch && g.wg == w.wg then noteForeign a bs.length g else g } }

/-- A group notes a write to a core's A-store where its window holds the range (R130). -/
def noteCore (w : Workgroup) (c off n : Nat) (g : Group) : Group :=
  if w.cores.contains c && meets (mget 0 c w.aBase, w.aBytes) (off, n) then
    noteForeign (w.cores.idxOf c * w.aBytes + (off - mget 0 c w.aBase)) n g
  else g

/-- Every group notes a write to a core's A-store. -/
def noteAstore (s : State) (c off n : Nat) : State :=
  { s with sched := { s.sched with groups := s.sched.groups.map fun g => noteCore (wgOf s g.launch g.wg) c off n g } }

/-- Writes bytes at an offset of a workgroup's W-store on a core; loads of them that have not completed note it (R164). -/
def wWrite (w : Workgroup) (core a : Nat) (bs : List Byte) (s : State) : State :=
  let note := List.map (YokeReq.noteSource w.launch w.wg core a bs.length)
  let base := mget 0 core w.wBase
  { s with
    cores := { s.cores with
      wstore := bs.zipIdx.foldl (fun m (b, i) => mset 0 (bufKey core (base + a + i)) b m) s.cores.wstore,
      yokes := s.cores.yokes.map fun x : Nat × Yoke =>
        (x.1, { x.2 with table := note x.2.table, waiting := note x.2.waiting, running := note x.2.running }) },
    sched := { s.sched with wgs := s.sched.wgs.map fun v =>
      if v.launch == w.launch && v.wg == w.wg then { v with removed := note v.removed } else v } }

/-- The checks of typed accesses of n bytes under a limit (R91). -/
def typedCheck (code limit n : Nat) (as : List (Nat × Nat)) : Option Trap :=
  match misaligned n as with
  | some t => some t
  | none =>
    failing (permTrap 5 code) (as.filter fun a => decide (limit < a.2 + n))

/-! ## The open order of lanes (R7, R328, R405) -/

/-- Puts an element where its rank says. -/
def insertRank (rank : Nat → Nat) (x : Nat) : List Nat → List Nat
  | [] => [x]
  | y :: r => if rank x ≤ rank y then x :: y :: r else y :: insertRank rank x r

/-- The order in which lanes meet one location is open: where two lanes of the list share a key, a free order (log
entry 2); the lanes' own order otherwise. -/
def laneOrder (free : Nat) (key : Nat → Nat) (ls : List Nat) : List Nat :=
  if (ls.map key).Nodup then ls else ls.foldr (insertRank (Config.laneRank free)) []

end Sys2Proof.Machine
end

