-- ==== Sys2Proof/Machine/Diverge.lean ====
section
/-! DEFINITION. Diverge.lean: mask stacks with their spill area (R31 to R35), the settling of slices at a branch (R27, R30,
R32), forwarded operands (R46, R47, R131), and the shared shape of the lane-wise instructions. -/

namespace Sys2Proof.Machine

/-! ## The divergence spill area (R34, R35) -/

/-- Address of the entry at depth d of slice j of a group (R35). -/
def spillAddr (s : State) (g : Group) (j d : Nat) : DWord :=
  let l := launchOf s g.launch
  l.desc.spill + BitVec.ofNat 64 (((g.wg * l.desc.groups + g.index) * (g.width / 4) + j) * 2048 + (d - 1) * 32)

/-- Bytes of an entry record (R35). -/
def entryBytes (e : MaskEntry) : List Byte :=
  leBytes 8 (match e.join with | some j => j.toNat | none => 1) ++ leBytes 8 e.pendingPc.toNat ++ leBytes 4 e.fmt.toNat ++
    (e.pending ++ e.saved) :: List.replicate 11 0

/-- The entry that 32 bytes hold. -/
def entryOf (bs : List Byte) : MaskEntry :=
  let j := fieldAt bs 0 8
  { saved := BitVec.ofNat 4 (fieldAt bs 20 1), pending := BitVec.ofNat 4 (fieldAt bs 20 1 / 16),
    pendingPc := BitVec.ofNat 64 (fieldAt bs 8 8), join := if nbit j 0 then none else some (BitVec.ofNat 64 j),
    fmt := BitVec.ofNat 32 (fieldAt bs 16 4) }

/-- Bytes as a load of a core sees them. -/
def coreBytes (s : State) (core : Nat) (a : Attr) (pa n : Nat) : List Byte :=
  sliceOf (fetchLine s.clock.ps core a {} false (lineOf pa) s.ms).2 (pa % 128) n

/-- The spilled entry of slice j at a depth. -/
def readEntry (s : State) (g : Group) (j d : Nat) : MaskEntry :=
  match xlate s (whoOf s g) .read false (spillAddr s g j d).toNat 32 with
  | .ok pa a => entryOf (coreBytes s g.core a pa 32)
  | _ => ⟨0, 0, 0, none, 0⟩

/-- Spilled entries that join actions at these places bring back: slice and depth. -/
def refills (s : State) (g : Group) (cs : List Cont) : List (Nat × Nat) :=
  cs.flatMap fun c =>
    let sl := sliceAt g c.slice
    let r := joinAll (readEntry s g c.slice) (2 * (sl.stack.length + sl.spilled) + 1) sl c.pc c.fmt
    (List.range (sl.spilled - r.1.spilled)).map fun i => (c.slice, sl.spilled - i)

/-- Accesses to spilled entries, as lanes of their slices. -/
def spillAccesses (s : State) (g : Group) (xs : List (Nat × Nat)) : List (Nat × Nat) :=
  xs.map fun (j, d) => (4 * j, (spillAddr s g j d).toNat)

/-! ## Pushing (R32, R34) -/

/-- What a slice does at a branch: where it goes on, and the lanes it keeps pending, with their PC. -/
structure Turn where
  slice : Nat
  pc : DWord
  pend : BitVec 4
  pendPc : DWord
  deriving DecidableEq, Repr

/-- The entry a turn pushes; none where no lane is kept or no entry is pushed at all (R32). -/
def turnEntry (sl : Slice) (t : Turn) (join : Option DWord) (fmt : Word) : Option MaskEntry :=
  if t.pend = 0 then none
  else if join = some t.pendPc then
    if (sl.stack.head?.any fun e => e.join == join) then none else some ⟨sl.mask, 0, t.pendPc, join, fmt⟩
  else some ⟨sl.mask, t.pend, t.pendPc, join, fmt⟩

/-- The slice after its turn: the top eight entries stay in the core (R34). -/
def turnSlice (sl : Slice) (t : Turn) (join : Option DWord) (fmt : Word) : Slice :=
  match turnEntry sl t join fmt with
  | none => { sl with mask := sl.mask &&& ~~~ t.pend }
  | some e =>
    { sl with mask := sl.mask &&& ~~~ t.pend, stack := (e :: sl.stack).take 8,
              spilled := sl.spilled + (sl.stack.length + 1 - 8) }

/-- The entry a push writes to the spill area, with its depth (R34). -/
def turnSpill (sl : Slice) (t : Turn) (join : Option DWord) (fmt : Word) : Option (Nat × MaskEntry) :=
  if (turnEntry sl t join fmt).isSome && decide (8 ≤ sl.stack.length) then
    sl.stack.getLast?.map fun e => (sl.spilled + 1, e)
  else none

/-- Depth a push would reach. -/
def turnDepth (sl : Slice) (t : Turn) (join : Option DWord) (fmt : Word) : Nat :=
  sl.stack.length + sl.spilled + (if (turnEntry sl t join fmt).isSome then 1 else 0)

/-- The mask-stack overflow trap (R34, R244). -/
def overflowTrap (s : State) (g : Group) (p : Split) (ts : List Turn) (join : Option DWord) : Option Trap :=
  let limit := if (launchOf s g.launch).desc.spill = 0 then 8 else 64
  match ts.filter fun t => (turnEntry (sliceAt g t.slice) t join p.fmt).isSome &&
      decide (limit < turnDepth (sliceAt g t.slice) t join p.fmt) with
  | [] => none
  | t :: r =>
    some { cause := 0x0F, lanes := laneBits ((t :: r).flatMap fun u => sliceLanes u.slice (sliceAt g u.slice).mask),
           info := BitVec.ofNat 64 (turnDepth (sliceAt g t.slice) t join p.fmt) }

/-- Entries the turns write to the spill area: slice, depth, entry. -/
def turnSpills (g : Group) (p : Split) (ts : List Turn) (join : Option DWord) : List (Nat × Nat × MaskEntry) :=
  ts.filterMap fun t => (turnSpill (sliceAt g t.slice) t join p.fmt).map fun d => (t.slice, d)

/-- What keeps the turns from being made: the overflow trap, or a fault on the spill area (R34). -/
def turnBlock (s : State) (g : Group) (p : Split) (ts : List Turn) (join : Option DWord) : Option State :=
  match overflowTrap s g p ts join with
  | some t => some (takeTrap s g p t none)
  | none =>
    match turnSpills g p ts join with
    | [] => none
    | sp =>
      match checkLanes s (whoOf s g) .write false 2 32 32 (spillAccesses s g (sp.map fun x => (x.1, x.2.1))) with
      | .ok _ => none
      | .trap t => some (takeTrap s g p t none)
      | .park va lv _ => some (parkOn s g p 9 .write va lv)
      | .wait => some (hold s g p)

/-- Writes the spilled entries. -/
def writeSpills (s : State) (g : Group) (sp : List (Nat × Nat × MaskEntry)) : State :=
  sp.foldl (fun s (j, d, e) =>
    let va := (spillAddr s g j d).toNat
    match xlate s (whoOf s g) .write false va 32 with
    | .ok pa a => putMs (noteXlate s (whoOf s g) va) (storeBytes s.clock.ps g.core a {} pa (entryBytes e)
        (noteXlate s (whoOf s g) va).ms)
    | _ => s) s

/-- The turns made: spills written, stacks pushed, and the split divided by next PC (R27). -/
def makeTurns (s : State) (g : Group) (p : Split) (ts : List Turn) (join : Option DWord) : State × Group :=
  let s := writeSpills s g (turnSpills g p ts join)
  let g' := ts.foldl (fun h t => putSlice h t.slice (turnSlice (sliceAt g t.slice) t join p.fmt)) g
  (s, divide g' p join (ts.map fun t => ⟨t.slice, t.pc, p.fmt⟩))

/-! ## Branches (R27, R30, R32) -/

/-- Lanes of a slice as its mask. -/
def sliceMask (j : Nat) (ls : List Nat) : BitVec 4 :=
  BitVec.ofNat 4 (((List.range 4).filter fun i => ls.contains (4 * j + i)).foldl (fun m i => m + 2 ^ i) 0)

/-- The turn of slice j: a lane without a target falls through. The lanes with the lowest active lane's target run first;
the others wait at `again` (R32). Taken and not-taken lanes disagree even where the target is the next word, so that an entry is
pushed there too (log entry 49). -/
def branchTurn (g : Group) (targets : List (Nat × DWord)) (fall again : DWord) (j : Nat) : Turn :=
  let lanes := sliceLanes j (sliceAt g j).mask
  match (targets.filter fun t => lanes.contains t.1) with
  | [] => ⟨j, fall, 0, fall⟩
  | (l, t) :: r =>
    let run := (((l, t) :: r).filter fun x => x.2 == t).map (·.1)
    ⟨j, t, sliceMask j (lanes.filter fun x => !run.contains x), again⟩

/-- A branch: the active lanes' targets, the place where lanes wait, the join PC of R30, and the links it writes. -/
def branchTo (s : State) (g : Group) (p : Split) (y : Bool) (targets : List (Nat × DWord)) (again : DWord)
    (join : Option DWord) (links : Group → Group) : State :=
  let ts := p.slices.map (branchTurn g targets (p.pc + 4) again)
  match turnBlock s g p ts join with
  | some t => t
  | none =>
    let r := makeTurns s (links g) { advance p y with join := none } ts join
    putGroup r.1 r.2

/-- An indirect target (R314). -/
def indirect (a : DWord) (t : Word) : DWord := fld a 32 32 ++ (t &&& 0xFFFF_FFFC#32)

/-- A signed word offset from an address. -/
def wordOff {n : Nat} (a : DWord) (o : BitVec n) : DWord := a + 4 * o.signExtend 64

/-! ## Forwarded operands (R46, R47, R131) -/

/-- A group holds an item of its launch. -/
def holdsItem (g : Group) (launch item : Nat) : Bool :=
  g.launch == launch && decide (g.itemBase.toNat ≤ item) && decide (item < g.itemBase.toNat + g.width)

/-- The workgroup of a chained launch that holds an item (R44). -/
def wgOfItem (d : LaunchDesc) (item : Nat) : Nat := item / (d.groups * d.width)

/-- What the Relay holds of a slot. -/
def relaySlot (s : State) (launch item slot : Nat) : Option RelaySlot :=
  s.sched.relay.findSome? fun e =>
    if e.launch == launch then e.slots.find? fun r => r.item == item && r.slot == slot else none

/-- A published slot, with the cores and groups whose writes its publication released: a resident group's own, else the Relay's (R49).
Nothing of a workgroup that is saved (R427). -/
def slotOf (s : State) (launch item slot : Nat) : Option (Word × List (Nat × Nat)) :=
  if s.pre.saved.any fun x => x.launch == launch && x.wg.wg == wgOfItem x.desc item then none
  else
    let kept := relaySlot s launch item slot
    match s.sched.groups.find? fun g => holdsItem g launch item with
    | some g => (mget? ((item - g.itemBase.toNat) * 4 + slot) g.published).map fun v =>
        (v, kept.elim [(g.core, g.id)] fun r => r.from_)
    | none => kept.map fun r => (r.value, r.from_)

/-- What lane l reads under HFWD: the value and whose writes it acquires, none of a default's; none while unpublished. -/
def fwdValue (s : State) (g : Group) (k slot lane : Nat) : Option (Word × List (Nat × Nat)) :=
  let item := g.itemBase.toNat + lane
  if item < k then some ((launchOf s g.launch).desc.defaults.getD slot 0, [])
  else slotOf s g.launch (item - k) slot

/-- A chain-error trap (R46, R244). -/
def chainTrap (lanes : BitVec 128) (reason : Nat) : Trap := { cause := 0x0E, lanes := lanes, info := BitVec.ofNat 64 reason }

/-- The checks of an HFWD pair, in the order of R46. -/
def chainCheck (s : State) (g : Group) (ls : List Nat) (k slot : Nat) : Option Trap :=
  let d := (launchOf s g.launch).desc
  if ls.isEmpty then none
  else if d.kmax = 0 then some (chainTrap (laneBits ls) 3)
  else if d.kmax < k then some (chainTrap (laneBits ls) 2)
  else if d.slots ≤ slot then some (chainTrap (laneBits ls) 1)
  else none

/-- A core lies in the instance of a scope around another. -/
def sameScope (sc : Scope) (a b : Nat) : Bool := scopeIncludes sc a (.core b)

/-- The acquire of a read of published values. For a publisher outside the chain's scope the Relay first performs a device-scope
release on its behalf, and the read acquires at device scope (R131). -/
def acquireFrom (s : State) (g : Group) (from_ : List (Nat × Nat)) : State :=
  let sc := (launchOf s g.launch).desc.chainScope
  match from_.dedup with
  | [] => s
  | cs =>
    let far := cs.filter fun c => !sameScope sc c.1 g.core
    let s := far.foldl (fun s c => releaseAt s c.1 c.2 .dev) s
    putMs s (acquire g.core (if far.isEmpty then sc else .dev) allLines s.ms)

/-- Slice j has active lanes, and none of them has a source (R47). -/
def lacksAll (g : Group) (ls miss : List Nat) (j : Nat) : Bool :=
  let act := (sliceLanes j (sliceAt g j).mask).filter ls.contains
  !act.isEmpty && act.all miss.contains

/-- The turn of slice j under HFWD: lanes without a source wait at the hint; a slice with no source at all goes back (R47). -/
def forwardTurn (g : Group) (ls miss : List Nat) (next start : DWord) (j : Nat) : Turn :=
  let lanes := sliceLanes j (sliceAt g j).mask
  if lacksAll g ls miss j then ⟨j, start, 0, start⟩
  else ⟨j, next, sliceMask j ((lanes.filter ls.contains).filter miss.contains), start⟩

/-- Splits that consist of slices with no source wait for it (R43). -/
def waitForward (g : Group) (js : List Nat) : Group :=
  { g with splits := g.splits.map fun q =>
      if !q.slices.isEmpty && q.slices.all js.contains then { q with wait := .forwarded } else q }

/-! ## Lane-wise instructions -/

/-- A read of published values in some lanes is an acquire of the group (R131). -/
def afterRead (g : Group) (ls : List Nat) : Group := if ls.isEmpty then g else acquireWindow g

/-- An instruction under HFWD: it completes in the lanes whose source is published (R47). -/
def runForwarded (s : State) (g : Group) (p : Split) (y : Bool) (ls : List Nat) (k slot : Nat)
    (f : Group → List Nat → (Nat → Word) → Group × FpFlags) : State :=
  match chainCheck s g ls k slot with
  | some t => takeTrap s g p t none
  | none =>
    let got := ls.map fun l => (l, fwdValue s g k slot l)
    let miss := (got.filter fun x => x.2.isNone).map (·.1)
    let run := (got.filter fun x => x.2.isSome).map (·.1)
    let start := startPc p
    let ts := p.slices.map (forwardTurn g ls miss (nextPc p) start)
    match turnBlock s g p ts p.join with
    | some t => t
    | none =>
      let val := fun l => ((got.find? fun x => x.1 == l).bind fun x => x.2.map fun v => v.1).getD 0
      let s := acquireFrom s g (got.flatMap fun x => x.2.elim [] fun v => v.2)
      let r := f (afterRead g run) run val
      let t := makeTurns (noteFlags s g.launch r.2) r.1 (advance p y) ts p.join
      putGroup t.1 (waitForward t.2 (p.slices.filter (lacksAll g ls miss)))

/-- A lane-wise instruction: its vector registers (window-relative) and operand b, unless it is forwarded, are checked where a
lane is active; then `f` acts on the lanes with their values of b, and the split passes on (R8, R54, R55). -/
def vecOp (i : Instr) (a : Accept) (y : Bool) (gd : Guard) (regs : List Nat) (b : Option Src)
    (f : Group → Split → List Nat → (Nat → Word) → Group × FpFlags) (s : State) : Host.Outcome State Fault Refusal :=
  issueAt i a s fun g p =>
    let ls := active g p gd
    match opRange g ls regs (if p.hints.hfwd.isSome then none else b) with
    | some t => takeTrap s g p t none
    | none =>
      match p.hints.hfwd with
      | some (k, slot) => runForwarded s g p y ls (k.toNat + 1) slot.toNat (fun h run val => f h p run val)
      | none =>
        let r := f g p ls (fun l => match b with | some src => bVal g l src | none => 0)
        finish (noteFlags s g.launch r.2) r.1 p y

/-- A lane-wise instruction without HFWD whose registers, and whose own conditions, may depend on the split's FMT; the
checks are made where a lane is active, registers first (R312). -/
def vecChecked (i : Instr) (a : Accept) (y : Bool) (gd : Guard) (regs : Group → Split → List Nat)
    (own : Group → Split → List Nat → Option Trap) (f : Group → Split → List Nat → Group × FpFlags) (s : State) :
    Host.Outcome State Fault Refusal :=
  issueAt i a s fun g p =>
    let ls := active g p gd
    match (vRange g ls (regs g p)).or (if ls.isEmpty then none else own g p ls) with
    | some t => takeTrap s g p t none
    | none =>
      let r := f g p ls
      finish (noteFlags s g.launch r.2) r.1 p y

/-- Adds an outstanding long result of a split (R300). -/
def addLong (g : Group) (p : Split) (ls : List Nat) (v : List (Nat × Word)) (sr : List (Nat × Word))
    (q : Option (Nat × Bool)) : Group :=
  addPend g [{ kind := .value, pc := startPc p, owner := ownLanes p, lanes := laneBits ls, v := v, s := sr, q := q }]

/-- An integer or bitwise function of a and b in each lane, written to d: no flag. -/
def laneOp (i : Instr) (a : Accept) (y : Bool) (gd : Guard) (d : BitVec 6) (ra : BitVec 6) (b : Option Src)
    (f : Split → Word → Word → Word → Word) (s : State) : Host.Outcome State Fault Refusal :=
  vecOp i a y gd [ra.toNat, d.toNat] b
    (fun g p ls bv => (setLanes g ls (eff g d.toNat) fun l => f p (aVal g l ra) (bv l) (aVal g l d), {})) s

/-- An FP32 or packed function of a, b and old d in each lane, written to d, with its flags (R88). -/
def laneFp (i : Instr) (a : Accept) (y : Bool) (gd : Guard) (d : BitVec 6) (ra : BitVec 6) (b : Option Src)
    (f : Split → Word → Word → Word → Word × FpFlags) (s : State) : Host.Outcome State Fault Refusal :=
  vecOp i a y gd [ra.toNat, d.toNat] b
    (fun g p ls bv => (setLanes g ls (eff g d.toNat) fun l => (f p (aVal g l ra) (bv l) (aVal g l d)).1,
      laneFlags ls fun l => (f p (aVal g l ra) (bv l) (aVal g l d)).2)) s

/-- HFWD is accepted where the b field is zero (R305). -/
def acceptFwd (b : Src) : Accept := { fwd := b == .v 0 }

end Sys2Proof.Machine
end

