-- ==== Sys2Proof/Machine/Fetch.lean ====
section
/-! DEFINITION. Fetch.lean: what a step adds around an instruction: the passing of a cycle, the picks of R40 to R42, the wake of
held instructions, the fetch (R298), the words that are not instructions (R311), and join actions due (R33). -/

namespace Sys2Proof.Machine

/-! ## A cycle -/

/-- A split can be picked (R40). -/
def isReady (g : Group) (p : Split) : Bool := p.wait == .ready && !(p.ypark && !(outstanding g p).isEmpty)

/-- One cycle of a group's phase counter, which stops at its greatest value (R243). -/
def tickPhase (g : Group) : Group :=
  if 0 < g.phaseHold then { g with phaseHold := g.phaseHold - 1 } else { g with phase := min (g.phase + 1) (2 ^ 32 - 1) }

/-- The splits of a group that are ready and not among a cycle's picks grow older by one (R42). -/
def ageGroup (ps : List (Nat × Nat)) (g : Group) : Group :=
  { g with splits := g.splits.map fun p => if isReady g p && !ps.contains (g.id, p.id) then { p with age := p.age + 1 } else p }

/-- Picoseconds of a cycle. -/
def cyclePs (mhz : Nat) : Nat := 1_000_000 / mhz

/-- The agenda a cycle later: an entry of cycles without a name counts down. -/
def agendaLater : List Act → List Act
  | .pass (n + 2) :: r => .pass (n + 1) :: r
  | .pass _ :: r => r
  | r => r

/-- A cycle passes (R243, R345). -/
def tick (s : State) : State :=
  { s with clock := { s.clock with cycle := (s.clock.cycle + 1) % 2 ^ 64, ps := s.clock.ps + cyclePs s.clock.mhz },
           agenda := agendaLater s.agenda, picks := none,
           sched := { s.sched with groups := s.sched.groups.map tickPhase } }

/-- Held instructions may issue again once something has come about. -/
def wakeHeld (s : State) : State :=
  { s with sched := { s.sched with groups := s.sched.groups.map fun g =>
      { g with splits := g.splits.map fun p =>
          if p.wait == .held then { p with wait := .ready } else p } } }

/-- The state in which a step of the device comes about: with held instructions ready again. -/
def beginEvent (s : State) : State := wakeHeld s

/-- The state in which a split issues: with the split current and its ageing counter at 0 (R42). -/
def beginIssue (s : State) (gid sid : Nat) : State :=
  { s with cur := (gid, sid),
           sched := { s.sched with groups := s.sched.groups.map fun g =>
             if g.id == gid then { g with splits := g.splits.map fun p => if p.id == sid then { p with age := 0 } else p }
             else g } }

/-- The state with a split taken off those that its core takes first (R243). -/
def notePick (s : State) (gid sid : Nat) : State :=
  match findGroup s gid with
  | none => s
  | some g =>
    let st := coreSt s g.core
    { s with cores := { s.cores with cs := (mset {} g.core { st with first := st.first.filter fun x => x != (gid, sid) } s.cores.cs) } }

/-! ## Fetching (R298) -/

/-- What a fetch gives. -/
inductive Fetched where
  /-- A word, and the state that has fetched it. -/
  | word (w : Word) (s : State)
  /-- A trap at the word. -/
  | trap (t : Trap) (s : State)
  /-- A translation fault. -/
  | park (va level : Nat)
  | wait
  deriving DecidableEq, Repr

/-- Fetches the word at an address for a group: from the instruction cache, or from its home. -/
def fetchAt (s : State) (g : Group) (lanes : BitVec 128) (pc : DWord) : Fetched :=
  match checkObject s (whoOf s g) lanes .fetch false 4 4 4 pc.toNat with
  | .trap t => .trap t s
  | .park va lv _ => .park va lv
  | .wait => .wait
  | .ok xs =>
    let pa := match xs with | (_, pa, _) :: _ => pa | [] => 0
    let s := noteXlate s (whoOf s g) pc.toNat
    match mget? (icacheKey g.core pa) s.ms.cache.icache with
    | some w => .word w s
    | none =>
      let ms := reachHome s.clock.ps (.core g.core) pa 4 s.ms
      match poisonedAtoms ms.dram pa 4 with
      | a :: _ => .trap { cause := 0x0D, lanes := lanes, addr := pc - BitVec.ofNat 64 (pa - a * 32) } (putMs s ms)
      | [] =>
        let w := BitVec.ofNat 32 (leNat (readHome ms pa 4))
        .word w (putMs s { ms with cache := { ms.cache with icache := mput (icacheKey g.core pa) w ms.cache.icache } })

/-- A hint word may follow the prefix, by its kind (R306). -/
def hintFollows (h : Prefix) (w : Word) : Bool :=
  if fld w 21 6 == 0x3E#6 then h.words.isEmpty
  else if fld w 21 6 == 0x3D#6 then h.hx.isNone && h.himm.isEmpty
  else decide (h.himm.length < 2)

/-- The trap of a word that is no instruction (R311), and the split that takes it. A hint that may not follow the prefix breaks
the pair there; any other bad hint makes a pair with the word after it, past which the split would go on (R247). -/
def badWord (s : State) (g : Group) (p : Split) (w : Word) : Trap × Split :=
  if !isHintWord w then ({ cause := 0x01, lanes := allOf g p, info := w.setWidth 64 }, p)
  else if !hintFollows p.hints w then ({ cause := 0x02, lanes := allOf g p, info := w ++ p.hints.words.getLastD 0 }, p)
  else
    let next := match fetchAt s g (allOf g p) (p.pc + 4) with | .word x _ => x | _ => 0
    let h := { p.hints with words := p.hints.words ++ [w], start := startPc p }
    ({ cause := 0x02, lanes := allOf g p, info := next ++ w }, { p with pc := p.pc + 4, hints := h })

/-! ## Issuing -/

/-- A late trap of a split is still to be taken. -/
def hasLate (g : Group) (p : Split) : Bool := (outstanding g p).any isLate

/-- The join actions due at the split's PC are performed; a fault on a spilled entry parks the split (R33, R34). -/
def joinStep (s : State) (g : Group) (p : Split) : State :=
  let cs := contsHere p
  let go := fun s : State => putGroup s (settle (readEntry s g) g p cs)
  match refills s g cs with
  | [] => go s
  | xs =>
    match checkLanes s (whoOf s g) .read false 1 32 32 (spillAccesses s g xs) with
    | .ok _ => go (noteAll s (whoOf s g) (xs.map fun x => (spillAddr s g x.1 x.2).toNat))
    | .trap t => takeTrap s g p t none
    | .park va lv _ => parkOn s g p 9 .read va lv
    | .wait => hold s g p

/-- What issuing a split comes to: an instruction to execute in a state, or a state. -/
inductive Issue where
  | run (i : Instr) (s : State)
  | done (s : State)
  deriving Repr

/-- The issue of a split: a late trap first, then the join actions due, then the word at its PC. -/
def issueOf (s : State) (gid sid : Nat) : Issue :=
  let s := notePick (beginIssue s gid sid) gid sid
  match curSplit s with
  | none => .done s
  | some (g, p) =>
    if !isReady g p || (wgOf s g.launch g.wg).stopping then .done s
    else if hasLate g p then .run (.lateTrap gid sid) s
    else if joinDue g p then .done (joinStep s g p)
    else
      match fetchAt s g (allOf g p) p.pc with
      | .trap t s => .done (takeTrap s g p t none)
      | .park va lv => .done (parkOn s g p 1 .fetch va lv)
      | .wait => .done (hold s g p)
      | .word w s =>
        match decodeWord w with
        | .ok i => .run i s
        | .error _ =>
          let b := badWord s g p w
          .done (takeTrap s g b.2 b.1 none)

/-! ## Choosing (R40 to R42, R243) -/

/-- A ready split as the scheduler of its core sees it: its counter, and the octets of its slices (R12). -/
structure Ready1 where
  grp : Nat
  sp : Nat
  age : Nat
  low : Nat
  octets : List Nat
  deriving DecidableEq, Repr

/-- Puts a candidate in the order of lowest slices. -/
def insertCand (x : Ready1) : List Ready1 → List Ready1
  | [] => [x]
  | y :: r => if x.low ≤ y.low then x :: y :: r else y :: insertCand x r

/-- The ready splits of a group, the oldest first: by lowest slice (R41). -/
def candsOf (g : Group) : List Ready1 :=
  ((g.splits.filter (isReady g)).map fun p =>
    (⟨g.id, p.id, p.age, p.slices.headD 0, p.slices.map fun j => g.octet + j / 2⟩ : Ready1)).foldr insertCand []

/-- The ready splits of a core, the oldest first: groups in order of dispatch (R41). Workgroups that stop issue nothing (R261). -/
def coreCands (s : State) (c : Nat) : List Ready1 :=
  (s.sched.groups.filter fun g => g.core == c && !(wgOf s g.launch g.wg).stopping).flatMap candsOf

/-- What a candidate is taken for: 0 aged, 1 released by WAITPH, 2 picked in the last cycle, 3 else (R41, R42, R243). -/
def candRank (st : CoreSt) (x : Ready1) : Nat :=
  if st.ageLimit ≤ x.age then 0 else if st.first.contains (x.grp, x.sp) then 1 else if st.last.contains (x.grp, x.sp) then 2 else 3

/-- Candidates in the order in which a core takes them. It is the order of R42's bullets; where more splits than AGE_LIMIT contend
for one octet, the bound that R42 states does not follow from it (log entry 57). -/
def candOrder (st : CoreSt) (cs : List Ready1) : List Ready1 :=
  [0, 1, 2, 3].flatMap fun k => cs.filter fun x => candRank st x == k

/-- Takes up to n candidates whose octets are disjoint, from those in use on (R12, R40). -/
def takeDisjoint : Nat → List Nat → List Ready1 → List (Nat × Nat)
  | 0, _, _ => []
  | _, _, [] => []
  | n + 1, used, x :: r =>
    if x.octets.any used.contains then takeDisjoint (n + 1) used r
    else (x.grp, x.sp) :: takeDisjoint n (x.octets ++ used) r

/-- The picks of one core in a cycle: up to four splits (R40). -/
def pickOn (s : State) (c : Nat) : List (Nat × Nat) := takeDisjoint 4 [] (candOrder (coreSt s c) (coreCands s c))

/-- Cores with a resident group. -/
def runCores (s : State) : List Nat := (s.sched.groups.map fun g => g.core).dedup

/-- The picks of every core in a cycle. -/
def pickAll (s : State) : List (Nat × Nat) := (runCores s).flatMap (pickOn s)

/-- A core's aged split, or one that WAITPH has released, goes before what the agenda names (R42, R243). -/
def goesFirst (s : State) (c : Nat) : Bool := (coreCands s c).any fun x => decide (candRank (coreSt s c) x ≤ 1)

/-- The picks of a cycle in which the agenda names the pick of one core. -/
def pickNamed (s : State) (gid sid core : Nat) : List (Nat × Nat) :=
  (gid, sid) :: ((runCores s).filter fun c => c != core).flatMap (pickOn s)

/-- A cycle's picks are made: each core keeps its own for the next cycle, and ready splits not picked grow older (R41, R42). -/
def makePicks (s : State) (ps : List (Nat × Nat)) : State :=
  let mine := fun c : Nat => ps.filter fun x => s.sched.groups.any fun g => g.id == x.1 && g.core == c
  let cs := (runCores s).foldl (fun m c => mset {} c { coreSt s c with last := mine c } m) s.cores.cs
  { s with picks := some ps, cores := { s.cores with cs := cs },
           sched := { s.sched with groups := s.sched.groups.map (ageGroup ps) } }

end Sys2Proof.Machine
end

