-- ==== Sys2Proof/Machine/VecInt.lean ====
section
/-! DEFINITION. VecInt.lean: the lane-wise integer and bitwise instructions (R325, R334, R335, R338, R365 to R367, R370, R382,
R392, R395). -/

namespace Sys2Proof.Machine

abbrev Answer1 := Host.Outcome State Fault Refusal

/-! ## Functions of the operands -/

/-- High word of a product (R84). -/
def mulHigh (uns : Bool) (a b : Word) : Word :=
  if uns then (a.setWidth 64 * b.setWidth 64).extractLsb' 32 32
  else (a.signExtend 64 * b.signExtend 64).extractLsb' 32 32

/-- Byte j of a word, extended. -/
def byteExt (uns : Bool) (a : Word) (j : Nat) : Word :=
  let x : BitVec 8 := fld a (8 * j) 8
  if uns then x.setWidth 32 else x.signExtend 32

/-- Sum of the four byte products (R84). -/
def dot4 (uns : Bool) (a b d : Word) : Word :=
  (List.range 4).foldl (fun t j => t + byteExt uns a j * byteExt uns b j) d

/-- Shift count of SHL, SHR and SAR (R392). -/
def shiftBy (b : Word) : Nat := b.toNat % 256

/-- Leading zeros (R338). -/
def leading : Nat → Word → Nat
  | 0, _ => 0
  | n + 1, a => if a.getLsbD n then 0 else leading n a + 1

/-- Bits in reverse order (R338). -/
def reverseBits (a : Word) : Word :=
  (List.range 32).foldl (fun r i => if a.getLsbD i then r ||| BitVec.twoPow 32 (31 - i) else r) 0

/-- Number of 1 bits (R338). -/
def ones (a : Word) : Nat := popcount 32 a.toNat

/-- Signed absolute value; 0x8000_0000 stays (R338). -/
def absWord (a : Word) : Word := if a.msb then -a else a

/-- Position and length that a control word gives (R334). -/
def bfPos (c : Word) : Nat := c.toNat % 32
def bfLen (c : Word) : Nat := min (c.toNat / 256 % 64) 32

/-- BFX (R335). -/
def bfx (a c : Word) : Word :=
  let sgn := c.getLsbD 15
  let x : Nat := if sgn then (a.signExtend 64).toNat else a.toNat
  let len := bfLen c
  let f := x / 2 ^ bfPos c % 2 ^ len
  if sgn ∧ 0 < len then BitVec.ofInt 32 (sextNat f len) else BitVec.ofNat 32 f

/-- BFI (R335). -/
def bfi (a c d : Word) : Word :=
  let mask : Word := BitVec.ofNat 32 (2 ^ bfLen c - 1)
  (d &&& ~~~ (mask <<< bfPos c)) ||| ((a &&& mask) <<< bfPos c)

/-- Byte k of the result of PRMT (R335). -/
def prmtByte (a c d : Word) (k : Nat) : Byte :=
  let sel := c.toNat / 2 ^ (3 * k) % 8
  let x : Byte := if sel < 4 then fld a (8 * sel) 8 else fld d (8 * (sel - 4)) 8
  match c.toNat / 2 ^ (12 + 2 * k) % 4 with
  | 0 => x
  | 1 => 0
  | 2 => if x.msb then 0xFF else 0
  | _ => 0xFF

/-- PRMT (R335). -/
def prmt (a c d : Word) : Word := prmtByte a c d 3 ++ prmtByte a c d 2 ++ prmtByte a c d 1 ++ prmtByte a c d 0

/-! ## The instructions -/

/-- R365. -/
def execIadd (y : Bool) (g : Guard) (d a : BitVec 6) (b : Src) (s : State) : Answer1 :=
  laneOp (.iadd y g d a b) (acceptFwd b) y g d a (some b) (fun _ x z _ => x + z) s

/-- R365. -/
def execIsub (y : Bool) (g : Guard) (d a : BitVec 6) (b : Src) (s : State) : Answer1 :=
  laneOp (.isub y g d a b) (acceptFwd b) y g d a (some b) (fun _ x z _ => x - z) s

/-- R365. -/
def execImin (y : Bool) (g : Guard) (d a : BitVec 6) (b : Src) (s : State) : Answer1 :=
  laneOp (.imin y g d a b) (acceptFwd b) y g d a (some b) (fun _ x z _ => if z.slt x then z else x) s

/-- R365. -/
def execImax (y : Bool) (g : Guard) (d a : BitVec 6) (b : Src) (s : State) : Answer1 :=
  laneOp (.imax y g d a b) (acceptFwd b) y g d a (some b) (fun _ x z _ => if x.slt z then z else x) s

/-- R367. -/
def execImul (y : Bool) (g : Guard) (d a : BitVec 6) (b : Src) (s : State) : Answer1 :=
  laneOp (.imul y g d a b) (acceptFwd b) y g d a (some b) (fun _ x z _ => x * z) s

/-- R84, R367. -/
def execImulh (y : Bool) (g : Guard) (d a : BitVec 6) (b : Src) (s : State) : Answer1 :=
  laneOp (.imulh y g d a b) { acceptFwd b with z := true } y g d a (some b) (fun p x z _ => mulHigh (hxOf p).z x z) s

/-- R367. -/
def execImad (y : Bool) (g : Guard) (d a : BitVec 6) (b : Src) (s : State) : Answer1 :=
  laneOp (.imad y g d a b) (acceptFwd b) y g d a (some b) (fun _ x z old => x * z + old) s

/-- R84, R367. -/
def execIdot4 (y : Bool) (g : Guard) (d a : BitVec 6) (b : Src) (s : State) : Answer1 :=
  laneOp (.idot4 y g d a b) { acceptFwd b with z := true } y g d a (some b) (fun p x z old => dot4 (hxOf p).z x z old) s

/-- R325. -/
def execAnd (y : Bool) (g : Guard) (d a : BitVec 6) (b : Src) (s : State) : Answer1 :=
  laneOp (.and y g d a b) (acceptFwd b) y g d a (some b) (fun _ x z _ => x &&& z) s

/-- R325. -/
def execOr (y : Bool) (g : Guard) (d a : BitVec 6) (b : Src) (s : State) : Answer1 :=
  laneOp (.or y g d a b) (acceptFwd b) y g d a (some b) (fun _ x z _ => x ||| z) s

/-- R325. -/
def execXor (y : Bool) (g : Guard) (d a : BitVec 6) (b : Src) (s : State) : Answer1 :=
  laneOp (.xor y g d a b) (acceptFwd b) y g d a (some b) (fun _ x z _ => x ^^^ z) s

/-- R325. -/
def execAndn (y : Bool) (g : Guard) (d a : BitVec 6) (b : Src) (s : State) : Answer1 :=
  laneOp (.andn y g d a b) (acceptFwd b) y g d a (some b) (fun _ x z _ => x &&& ~~~ z) s

/-- R392. -/
def execShl (y : Bool) (g : Guard) (d a : BitVec 6) (b : Src) (s : State) : Answer1 :=
  laneOp (.shl y g d a b) (acceptFwd b) y g d a (some b) (fun _ x z _ => x <<< shiftBy z) s

/-- R392. -/
def execShr (y : Bool) (g : Guard) (d a : BitVec 6) (b : Src) (s : State) : Answer1 :=
  laneOp (.shr y g d a b) (acceptFwd b) y g d a (some b) (fun _ x z _ => x >>> shiftBy z) s

/-- R392. -/
def execSar (y : Bool) (g : Guard) (d a : BitVec 6) (b : Src) (s : State) : Answer1 :=
  laneOp (.sar y g d a b) (acceptFwd b) y g d a (some b) (fun _ x z _ => x.sshiftRight (shiftBy z)) s

/-- R392. -/
def execRotl (y : Bool) (g : Guard) (d a : BitVec 6) (b : Src) (s : State) : Answer1 :=
  laneOp (.rotl y g d a b) (acceptFwd b) y g d a (some b) (fun _ x z _ => x.rotateLeft (z.toNat % 32)) s

/-- R338. -/
def execPopc (y : Bool) (g : Guard) (d a : BitVec 6) (s : State) : Answer1 :=
  laneOp (.popc y g d a) {} y g d a none (fun _ x _ _ => BitVec.ofNat 32 (ones x)) s

/-- R338. -/
def execClz (y : Bool) (g : Guard) (d a : BitVec 6) (s : State) : Answer1 :=
  laneOp (.clz y g d a) {} y g d a none (fun _ x _ _ => BitVec.ofNat 32 (leading 32 x)) s

/-- R338. -/
def execBrev (y : Bool) (g : Guard) (d a : BitVec 6) (s : State) : Answer1 :=
  laneOp (.brev y g d a) {} y g d a none (fun _ x _ _ => reverseBits x) s

/-- R338. -/
def execIabs (y : Bool) (g : Guard) (d a : BitVec 6) (s : State) : Answer1 :=
  laneOp (.iabs y g d a) {} y g d a none (fun _ x _ _ => absWord x) s

/-- R334, R335. -/
def execBfx (y : Bool) (g : Guard) (d a : BitVec 6) (b : Src) (s : State) : Answer1 :=
  laneOp (.bfx y g d a b) (acceptFwd b) y g d a (some b) (fun _ x c _ => bfx x c) s

/-- R334, R335. -/
def execBfi (y : Bool) (g : Guard) (d a : BitVec 6) (b : Src) (s : State) : Answer1 :=
  laneOp (.bfi y g d a b) (acceptFwd b) y g d a (some b) (fun _ x c old => bfi x c old) s

/-- R334, R335. -/
def execPrmt (y : Bool) (g : Guard) (d a : BitVec 6) (b : Src) (s : State) : Answer1 :=
  laneOp (.prmt y g d a b) (acceptFwd b) y g d a (some b) (fun _ x c old => prmt x c old) s

/-- R335. -/
def execMov (y : Bool) (g : Guard) (d a : BitVec 6) (s : State) : Answer1 :=
  laneOp (.mov y g d a) {} y g d a none (fun _ x _ _ => x) s

/-- R308, R359, R370. -/
def execIsetp (y : Bool) (g : Guard) (pd : BitVec 3) (c : ICond) (a : BitVec 6) (b : Src) (m : Comb) (s : State) : Answer1 :=
  vecOp (.isetp y g pd c a b m) (acceptFwd b) y g [a.toNat] (some b)
    (fun g _ ls bv => (setPreds g ls pd.toNat fun l =>
      comb m (getP g l pd.toNat) (icond c (aVal g l a) (bv l)), {})) s

/-- R395. -/
def execSel (y : Bool) (g : Guard) (d a : BitVec 6) (b : Src) (k : BitVec 2) (s : State) : Answer1 :=
  vecOp (.sel y g d a b k) (acceptFwd b) y g [a.toNat, d.toNat] (some b)
    (fun g _ ls bv => (setLanes g ls (eff g d.toNat) fun l =>
      if getP g l (k.toNat + 1) then aVal g l a else bv l, {})) s

/-- The immediate of IADDI and MOVI (R366): built, or the forwarded word. -/
def immOr (p : Split) (i : BitVec 9) (fwd : Word) : Word :=
  if p.hints.hfwd.isSome then fwd else BitVec.ofInt 32 (immVI p i)

/-- R366. -/
def execIaddi (y : Bool) (g : Guard) (d a : BitVec 6) (i : BitVec 9) (s : State) : Answer1 :=
  laneOp (.iaddi y g d a i) { fwd := i == 0, imms := 2 } y g d a none (fun p x v _ => x + immOr p i v) s

/-- R382. -/
def execMovi (y : Bool) (g : Guard) (d : BitVec 6) (i : BitVec 9) (s : State) : Answer1 :=
  vecOp (.movi y g d i) { fwd := i == 0, imms := 2 } y g [d.toNat] none
    (fun g p ls v => (setLanes g ls (eff g d.toNat) fun l => immOr p i (v l), {})) s

end Sys2Proof.Machine
end

