-- ==== Sys2Proof/Machine/Views.lean ====
section
/-! DEFINITION. Views.lean: the state of view blocks and how a read of one acts (R206 to R215), taking a block (R210), the
Palette (R110, R217), and what a load waits for. -/

namespace Sys2Proof.Machine

/-! ## View blocks (R208, R209, R213) -/

/-- Physical master block of view block b, and whether its page is a master page; none where it has no page, or lies on a part that
walk mode leaves out (R20): no Copyist then recomputes the view block (log entry 57). -/
def masterOf (s : State) (v : ViewEntry) (b : Nat) : Option (Nat × Bool) :=
  ((leafOf s v.asid (v.mbase + 4096 * b)).map fun x =>
    (forwarded s.ms.dram (leafPa x.1 x.2 (v.mbase + 4096 * b)) / 4096, nbit x.2 52)).filter fun m =>
      physOf s.plat.walk (m.1 * 4096) != .absent

/-- Virtual address of the tag that a read of view block b checks: a shard view's is its shadow tag (R208, R211). -/
def tagVa (v : ViewEntry) (b : Nat) : Nat := (if v.kind = 3 then v.stag else v.tbase) + 4 * b

/-- The tag of view block b. -/
def tagOf (s : State) (v : ViewEntry) (b : Nat) : Nat :=
  match plainPa s v.asid (tagVa v b) with
  | some pa => leNat (readHome s.ms pa 4)
  | none => 0

/-- A master block's state. A page that its leaf tells to be a master page, and that no controller has met yet, has M set now
(R209). -/
def blockOf (s : State) (mb : Nat) (m : Bool) : MasterBlock :=
  match mget? mb s.ms.dram.blocks with
  | some x => x
  | none => if m && (masterSince s.ms.dram (mb * 4096)).isNone then ⟨true, 1, s.clock.ps⟩ else blockSt s.ms.dram mb

/-- A tag is at or after a version (R209). -/
def atOrAfter (t v : Nat) : Bool := decide ((t % 2 ^ 31 + 2 ^ 31 - v % 2 ^ 31) % 2 ^ 31 < 2 ^ 30)

/-- The version a recomputation under way will write into a view block (R210); none: no one is under way. A block that is
taken and not yet tagged counts as being written (log entry 14). -/
def writingVersion (s : State) (mb view : Nat) : Option Nat :=
  (s.tier.jobs.find? fun j => j.block == mb && j.views.any fun x => x.1 == view).map fun j => j.version

/-- State of a view block: 0 fresh, 1 dirty or being written, 2 POISONED (R215). -/
def viewState (s : State) (v : ViewEntry) (b : Nat) : Nat :=
  let t := tagOf s v b
  if nbit t 31 then 2
  else match masterOf s v b with
    | none => 1
    | some (mb, m) =>
      let k := blockOf s mb m
      if (mget? mb s.ms.dram.blocks).isSome && t % 2 ^ 31 == k.version && !k.dirty && (writingVersion s mb v.idx).isNone
      then 0 else 1

/-- What a read of a view block comes to (R213). -/
inductive ViewAns where
  | serve
  | stale
  | await (master version : Nat) (take : Bool)
  | faulty (cause : Nat)
  deriving DecidableEq, Repr

/-- R213; an engine's FAULT waits as WAIT does (R212). -/
def viewAns (s : State) (engine : Bool) (v : ViewEntry) (b : Nat) : ViewAns :=
  match viewState s v b, masterOf s v b with
  | 2, _ => .faulty 0x0A
  | 0, _ => .serve
  | _, none => .stale
  | _, some (mb, m) =>
    let w := writingVersion s mb v.idx
    let k := blockOf s mb m
    match v.policy, engine with
    | 1, _ => match w with
      | some x => .await mb x false
      | none => .stale
    | 2, false => .faulty 0x09
    | _, _ => .await mb k.version (k.dirty || w.isNone)

/-- Views that cover a master block, with the number of the view block, in ascending index. -/
def viewsOver (s : State) (mb : Nat) : List (ViewEntry × Nat) :=
  (views s).filterMap fun v => (offsetIn s v.asid v.mbase v.mlen (mb * 4096)).map fun off => (v, off / 4096)

/-- The Copyist takes a master block (R210): it reads the entries that cover it, DIRTY is cleared and a recomputation of its views
begins. -/
def takeBlock (s : State) (mb : Nat) : State :=
  if deadStack s (stackOf (mb * 4096)) then s
  else
  let vs := viewsOver s mb
  let s := vs.foldl (fun s x => deviceRead s (s.die0.viewTable + 128 * x.1.idx) 128) s
  let m := vs.any fun x => (masterOf s x.1 x.2).any fun y => y.2
  let k := blockOf s mb m
  let s := { s with ms := { s.ms with dram := { s.ms.dram with blocks := mput mb { k with dirty := false } s.ms.dram.blocks } } }
  match vs with
  | [] => s
  | _ => { s with tier := { s.tier with jobs := s.tier.jobs ++
      [{ block := mb, version := k.version, views := vs.map fun x => (x.1.idx, x.2), stopped := false, parked := none, data := none }] } }

/-- A view block has reached a version, is POISONED, or belongs to no view any more. -/
def waitOver (s : State) (w : ViewWait) : Bool :=
  match (views s).find? fun v => v.idx == w.view with
  | none => true
  | some v => let t := tagOf s v w.vblock; nbit t 31 || atOrAfter t w.version

/-- View blocks that a read of n bytes checks at the home: the elements' and scales' (R212). -/
def viewParts (s : State) (pa n : Nat) : List (ViewEntry × Nat) :=
  ((viewHits s pa n).filterMap fun (v, p, b) => if p = .tag then none else some (v, b)).dedup

/-! ## The Palette (R110, R217) -/

/-- Folio of a physical address. -/
def folioOf (pa : Nat) : Nat := pa / Config.folioBytes

/-- A physical address of Vellum. -/
def isVellum (pa : Nat) : Bool := decide (Config.vellumBase ≤ pa) && decide (pa < Config.vellumEnd)

/-- DRAM stack that holds a folio's Palette copy: one on the die of its Vellum stack (R110). -/
def paletteStack (folio : Nat) : Nat :=
  let v := (folio * Config.folioBytes - Config.vellumBase) / Config.vellumStackBytes
  v / 2 * 4 + Config.paletteHash folio % 4

/-- The folio becomes the most recently used. -/
def useFolio (s : State) (f : Nat) : State :=
  if s.tier.palette.contains f then
    { s with tier := { s.tier with palette := s.tier.palette.filter (fun x => x != f) ++ [f] } }
  else s

/-- A fill starts unless the folio is resident or being filled. -/
def startFill (s : State) (f : Nat) : State :=
  if s.tier.palette.contains f || s.tier.fills.contains f then s
  else { s with tier := { s.tier with fills := s.tier.fills ++ [f] } }

/-- A load of a core goes past its L1 and team copies. -/
def goesHome (s : State) (core : Nat) (a : Attr) (pa : Nat) : Bool :=
  servedUncached s.ms.dram a pa ||
    ((findLine s.ms.cache.l1 core (lineOf pa)).isNone && (findLine s.ms.cache.team (teamOf core) (lineOf pa)).isNone)

end Sys2Proof.Machine
end

