-- ==== Sys2Proof/Machine/Memory.lean ====
section
/-! DEFINITION. Memory.lean: loads and stores of the three spaces, their long results and late traps (R300, R373 to R378,
R400, R404 to R406), and the steps that bring a long result to its end. -/

namespace Sys2Proof.Machine

/-! ## Shared pieces -/

/-- Bytes of a size field (R302). -/
def sizeBytes : MemSize → Nat
  | .b8 => 1 | .b16 => 2 | .b32 => 4 | .b64 => 8 | .b128 => 16

/-- Registers of a size (R373). -/
def sizeRegs (n : MemSize) : Nat := max 1 (sizeBytes n / 4)

/-- Cache class of a group's region (R103, R225). -/
def clsOf (s : State) (g : Group) : Nat := (termsOf s g.launch g.wg).elim 0 fun r => r.cls

/-- Cache policy of an access (R101). -/
def polOf (s : State) (g : Group) (p : Split) : Pol :=
  { code := (hxOf p).pol.toNat, rc := (hxOf p).rc.toNat, cls := clsOf s g }

/-- An outstanding fence holds accesses of lanes to ranges of global addresses (R126, R215). The memory pipe takes no access
behind a fence: the instruction is held in its collector (log entry 15). -/
def fenceHolds (s : State) (g : Group) (ls : List Nat) (ranges : List (Nat × Nat)) : Bool :=
  s.ms.cache.fences.any fun f => f.group == g.id && (f.lanes &&& laneBits ls) != 0 &&
    (match f.range with
     | none => true
     | some r => f.isView || ranges.any (meets r))

/-- Byte ranges of accesses. -/
def rangesOf (n : Nat) (as : List (Nat × Nat)) : List (Nat × Nat) := as.map fun a => (a.2, n)

/-- Watchpoints, then outstanding fences, then the effect. -/
def guarded (s : State) (g : Group) (p : Split) (rd wr : Bool) (n : Nat) (as : List (Nat × Nat)) (eff : State) : State :=
  match watchTrap s g rd wr n as with
  | some t => takeTrap s g p t none
  | none => if fenceHolds s g (as.map (·.1)) (rangesOf n as) then hold s g p else eff

/-- A value read from memory as a word (R374). -/
def extend (bytes : Nat) (sext : Bool) (x : Nat) : Nat :=
  if sext && decide (bytes < 4) then (BitVec.ofInt 32 (sextNat x (8 * bytes))).toNat else x

/-- Register writes of a part whose data are known. -/
def partWrites (x : LoadPart) : List (Nat × Word) :=
  let d := extend x.bytes x.sext (x.data.getD 0)
  (List.range (max 1 (x.bytes / 4))).map fun k => (x.reg + k, BitVec.ofNat 32 (d / 2 ^ (32 * k)))

/-- Vector destinations of parts. -/
def partsV (ps : List LoadPart) : List (Nat × Word) :=
  (ps.filter fun x => !x.isScalar).flatMap fun x => (partWrites x).map fun w => (x.lane * 256 + w.1, w.2)

/-- Scalar destinations of parts. -/
def partsS (ps : List LoadPart) : List (Nat × Word) := (ps.filter fun x => x.isScalar).flatMap partWrites

/-! ## Reading the data of a load -/

/-- Poison that parts meet where they are read (R108, R375). -/
def poisonBad (ms : MemSys) (core : Nat) (ps : List LoadPart) : List LateBad :=
  ps.filterMap fun x => match loadPoison ms core x.pa x.bytes with
    | [] => none
    | _ :: _ => some { lane := x.lane, cause := 0x0D, addr := BitVec.ofNat 64 (x.va / 32 * 32), idx := x.idx }

/-- A core reads a line for a load; its own write-combined bytes of that line drain first (R97, R376). -/
def loadLine (now core : Nat) (a : Attr) (pol : Pol) (line : Nat) (ms : MemSys) : MemSys × List Byte :=
  let ms := if (mget? core ms.cache.wc).any fun w => w.line == line then drainWc now core ms else ms
  fetchLine now core a (effPol a pol) true line ms

/-- Reads the lines of some parts, each once (R102). -/
def readLines (now core : Nat) : List LoadPart → MemSys → List (Nat × List Byte) → MemSys × List (Nat × List Byte)
  | [], ms, got => (ms, got)
  | x :: r, ms, got =>
    if got.any fun l => l.1 == lineOf x.pa then readLines now core r ms got
    else
      let l := loadLine now core x.attr x.pol (lineOf x.pa) ms
      readLines now core r l.1 (got ++ [(lineOf x.pa, l.2)])

/-- Data of a part among the lines read. -/
def fillPart (lines : List (Nat × List Byte)) (x : LoadPart) : LoadPart :=
  match lines.find? fun l => l.1 == lineOf x.pa with
  | some l => { x with data := some (leNat (sliceOf l.2 (x.pa % 128) x.bytes)) }
  | none => x

/-- Reads the parts that a test takes: the state, the parts, and the poison found once their atoms are decoded (R269). -/
def readParts (s : State) (core : Nat) (now? : LoadPart → Bool) (ps : List LoadPart) : State × List LoadPart × List LateBad :=
  let mine := ps.filter now?
  let r := readLines s.clock.ps core mine s.ms []
  let bad := poisonBad r.1 core mine
  (putMs s r.1, ps.map (fun x => if now? x then fillPart r.2 x else x), bad)

/-! ## What a load meets at its blocks and folios (R110, R213) -/

/-- What parts have met so far: waits, folios, conditions, and whether a STALE view was read. -/
structure LoadPlan where
  st : State
  waits : List (LoadPart × ViewWait) := []
  folios : List (LoadPart × Nat) := []
  bad : List LateBad := []
  stale : Bool := false

/-- Under WAIT the load covers every master write that happens-before it: those to the master block that its core and team still hold
reach the home first (R132, R213). -/
def pushMaster (s : State) (g : Group) (vb : ViewEntry × Nat) : State :=
  match masterOf s vb.1 vb.2, vb.1.policy with
  | some (mb, _), 0 => putMs s (release s.clock.ps g.core g.id .dev (fun l => forwarded s.ms.dram (l * 128) / 4096 == mb) s.ms)
  | _, _ => s

/-- One view block of a part. -/
def planView (g : Group) (x : LoadPart) (l : LoadPlan) (vb : ViewEntry × Nat) : LoadPlan :=
  let l := { l with st := pushMaster l.st g vb }
  match viewAns l.st false vb.1 vb.2 with
  | .serve => l
  | .stale => { l with stale := true }
  | .await mb ver take =>
    { l with st := if take then takeBlock l.st mb else l.st, waits := l.waits ++ [(x, ⟨vb.1.idx, vb.2, mb, ver⟩)] }
  | .faulty c =>
    { l with bad := l.bad ++ [{ lane := x.lane, cause := c, addr := BitVec.ofNat 64 x.va,
                                info := BitVec.ofNat 64 (vb.1.idx + vb.2 * 2 ^ 32), idx := x.idx }] }

/-- One part: its folio, or its view blocks. -/
def planPart (g : Group) (l : LoadPlan) (x : LoadPart) : LoadPlan :=
  if !goesHome l.st g.core x.attr x.pa then l
  else if isVellum x.pa then
    let f := folioOf x.pa
    if l.st.tier.palette.contains f then { l with st := useFolio l.st f }
    else { l with st := startFill l.st f, folios := l.folios ++ [(x, f)] }
  else (viewParts l.st x.pa x.bytes).foldl (planView g x) l

/-- A part that need not wait. -/
def LoadPlan.clear (l : LoadPlan) (x : LoadPart) : Bool :=
  !(l.waits.any (fun w => w.1 == x) || l.folios.any (fun f => f.1 == x) ||
    l.bad.any fun b => b.lane == x.lane && b.idx == x.idx)

/-- The long results of a load whose every part is known: with a condition, the registers below the lowest at which one was
found are written, and the rest becomes a late trap (R375, R378). -/
def settleLoad (r : LongResult) (ps : List LoadPart) (bad : List LateBad) : List LongResult :=
  match bad with
  | [] => [{ r with kind := .value, v := partsV ps, s := partsS ps, parts := [] }]
  | b :: t =>
    let j := t.foldl (fun m x => min m x.idx) b.idx
    let at_ := (b :: t).filter fun x => x.idx == j
    let low := at_.foldl (fun m x => if x.lane < (m : LateBad).lane then x else m) (at_.headD b)
    let same := at_.filter fun x => x.cause == low.cause
    let below := ps.filter fun x => decide (x.idx < j)
    let trap : LongResult := { r with kind := .late same, owner := laneBits (same.map fun x => x.lane), parts := [] }
    if below.isEmpty then [trap] else [{ r with kind := .value, v := partsV below, s := partsS below, parts := [] }, trap]

/-- The outstanding result of a load: what is known at once is captured now (R376). -/
def loadResult (s : State) (g : Group) (p : Split) (ls : List Nat) (ps : List LoadPart) : State × Bool × List LongResult :=
  let l := ps.foldl (planPart g) { st := s }
  let r := readParts l.st g.core l.clear ps
  let base : LongResult := { kind := .value, pc := startPc p, next := p.pc + 4, owner := ownLanes p, lanes := laneBits ls, parts := r.2.1 }
  let bad := l.bad ++ r.2.2
  match l.folios, l.waits, bad with
  | [], [], [] => (r.1, l.stale, settleLoad base r.2.1 [])
  | fs, ws, bs => (r.1, l.stale, [{ base with kind := .mem (fs.map (·.2)).dedup (ws.map (·.2)).dedup bs }])

/-- Issues a load: its results become outstanding. -/
def startLoad (s : State) (g : Group) (p : Split) (ls : List Nat) (ps : List LoadPart) : State × Group :=
  let r := loadResult s g p ls ps
  (r.1, addPend { g with vstale := g.vstale || r.2.1 } r.2.2)

/-! ## LD, LDA, LDC (R373 to R376) -/

/-- Registers that operands of the VM format read: the base pair once an active lane needs it (R55). -/
def vmRange (g : Group) (ls : List Nat) (rs : List Nat) (sb : BitVec 5) : Option Trap :=
  (vRange g ls rs).or (if ls.isEmpty then none else sRange g (laneBits ls) (basePair sb))

/-- Addresses of the active lanes. -/
def vmAccesses (g : Group) (p : Split) (a : BitVec 6) (sb : BitVec 5) (ls : List Nat) : List (Nat × Nat) :=
  ls.map fun l => (l, (vmAddr g p a sb l).toNat)

/-- Parts of a vector load: one for each lane. -/
def lanePart (e n : Nat) (sx : Bool) (pol : Pol) (idx : Nat) (as : List (Nat × Nat)) (xs : List (Nat × Nat × Attr)) :
    List LoadPart :=
  (as.zip xs).map fun (a, x) =>
    { lane := a.1, reg := e, idx := idx, va := a.2, pa := x.2.1, bytes := n, sext := sx, attr := x.2.2, pol := pol }

/-- R373 to R376. -/
def execLd (y : Bool) (gd : Guard) (d a : BitVec 6) (b : BitVec 5) (n : MemSize) (x : Bool) (s : State) : Answer1 :=
  issueAt (.ld y gd d a b n x) { rc := true, pol := true, imms := 2 } s fun g p =>
    let ls := active g p gd
    orTrap s g p (vmRange g ls (a.toNat :: span d (sizeRegs n)) b)
      (let k := sizeBytes n
       let as := vmAccesses g p a b ls
       withChecked s g p 1 .read (checkLanes s (whoOf s g) .read false 1 k k as) fun xs =>
         guarded s g p true false k as
           (let s := noteAll s (whoOf s g) (as.map (·.2))
            let r := startLoad s g p ls (lanePart (eff g d.toNat) k x (polOf s g p) 0 as xs)
            finish r.1 r.2 p y))

/-- Reads of a typed buffer become long results (R300). -/
def typedLoad (s : State) (g : Group) (p : Split) (y : Bool) (ls : List Nat) (e n : Nat) (sx : Bool)
    (rd : Nat → List Byte) : State :=
  let v := ls.flatMap fun l =>
    let d := extend n sx (leNat (rd l))
    (List.range (max 1 (n / 4))).map fun k => (l * 256 + e + k, BitVec.ofNat 32 (d / 2 ^ (32 * k)))
  finish s (addLong g p ls v [] none) p y

/-- Checks and holding of a typed access, then its effect (R91, R126). -/
def typedOp (s : State) (g : Group) (p : Split) (code limit n : Nat) (as : List (Nat × Nat)) (eff : State) : State :=
  match typedCheck code limit n as with
  | some t => takeTrap s g p t none
  | none => if fenceHolds s g (as.map (·.1)) [] then hold s g p else eff

/-- R373 to R376: the A-store window (R24). -/
def execLda (y : Bool) (gd : Guard) (d a : BitVec 6) (b : BitVec 5) (n : MemSize) (x : Bool) (s : State) : Answer1 :=
  issueAt (.lda y gd d a b n x) { imms := 2 } s fun g p =>
    let ls := active g p gd
    let w := wgOf s g.launch g.wg
    let k := sizeBytes n
    let as := vmAccesses g p a b ls
    orTrap s g p (vmRange g ls (a.toNat :: span d (sizeRegs n)) b)
      (typedOp s g p 1 (aWindow w) k as
        (typedLoad s g p y ls (eff g d.toNat) k x fun l => aRead s w (vmAddr g p a b l).toNat k))

/-- C-store bytes that a group reserves on its core (R90). -/
def cWindow (s : State) (g : Group) : Nat := (launchOf s g.launch).desc.ctiles * 2048

/-- Number of a C-store byte of a group. -/
def cKey (s : State) (g : Group) (a : Nat) : Nat := bufKey g.core (mget 0 g.core (wgOf s g.launch g.wg).cBase + a)

/-- Bytes lie in a tile of a request that no MWAIT has covered (R130). -/
def openTile (s : State) (g : Group) (a n : Nat) : Bool :=
  s.sched.groups.any fun h => h.launch == g.launch && h.wg == g.wg && h.core == g.core &&
    h.posted.any fun t => meets (t.tile, 2048) (a, n)

/-- C-store bytes a lane reads; open where a tile is not waited for (R130, log entry 2). -/
def cRead (s : State) (g : Group) (lane a n : Nat) : List Byte :=
  if openTile s g a n then (List.range n).map fun i => (Config.freeWord (s.free + lane * 16 + i)).setWidth 8
  else (List.range n).map fun i => mget 0 (cKey s g (a + i)) s.cores.cstore

/-- The counter moves on where an access met an open tile. -/
def spendFree (s : State) (b : Bool) : State := if b then { s with free := s.free + freeStep } else s

/-- R373 to R376: the C-store. -/
def execLdc (y : Bool) (gd : Guard) (d a : BitVec 6) (b : BitVec 5) (n : MemSize) (x : Bool) (s : State) : Answer1 :=
  issueAt (.ldc y gd d a b n x) { imms := 2 } s fun g p =>
    let ls := active g p gd
    let k := sizeBytes n
    let as := vmAccesses g p a b ls
    orTrap s g p (vmRange g ls (a.toNat :: span d (sizeRegs n)) b)
      (typedOp s g p 1 (cWindow s g) k as
        (typedLoad (spendFree s (as.any fun z => openTile s g z.2 k)) g p y ls (eff g d.toNat) k x
          fun l => cRead s g l (vmAddr g p a b l).toNat k))

/-! ## ST, STA, STC (R404, R405) -/

/-- The order in which the lanes of an instruction meet a place, and the state after a free order has been used. -/
def laneTurns (s : State) (key : Nat → Nat) (ls : List Nat) : List Nat × State :=
  (laneOrder s.free key ls, spendFree s !decide (ls.map key).Nodup)

/-- Key of a lane in a list of pairs. -/
def keyIn (xs : List (Nat × Nat)) (l : Nat) : Nat := ((xs.find? fun x => x.1 == l).map (·.2)).getD 0

/-- Data of a store: the low n bytes of consecutive registers, read at issue (R404). -/
def storeData (g : Group) (lane e n : Nat) : List Byte :=
  (((List.range (max 1 (n / 4))).flatMap fun k => leBytes 4 (getV g lane (e + k)).toNat)).take n

/-- Stores lanes' bytes to global memory; `own`: the lanes whose writes they are, where they are not each its own. -/
def storeLanes (s : State) (g : Group) (pol : Pol) (xs : List (Nat × Nat × Attr)) (data : Nat → List Byte)
    (own : Option (List Nat) := none) : State :=
  let t := laneTurns s (keyIn (xs.map fun x => (x.1, x.2.1))) (xs.map (·.1))
  let ms := t.1.foldl (fun ms l => match xs.find? fun x => x.1 == l with
    | some x => storeBytes s.clock.ps g.core x.2.2 (effPol x.2.2 pol) x.2.1 (data l) ms ((own.getD [l]).map fun k => (g.id, k))
    | none => ms) t.2.ms
  putMs t.2 ms

/-- R404, R405. -/
def execSt (y : Bool) (gd : Guard) (d a : BitVec 6) (b : BitVec 5) (n : MemSize) (s : State) : Answer1 :=
  issueAt (.st y gd d a b n) { pol := true, imms := 2 } s fun g p =>
    let ls := active g p gd
    orTrap s g p (vmRange g ls (a.toNat :: span d (sizeRegs n)) b)
      (let k := sizeBytes n
       let as := vmAccesses g p a b ls
       withChecked s g p 1 .write (checkLanes s (whoOf s g) .write false 2 k k as) fun xs =>
         guarded s g p false true k as
           (let s := noteAll s (whoOf s g) (as.map (·.2))
            finish (storeLanes s g (polOf s g p) xs fun l => storeData g l (eff g d.toNat) k) g p y))

/-- R404, R405: the A-store window. -/
def execSta (y : Bool) (gd : Guard) (d a : BitVec 6) (b : BitVec 5) (n : MemSize) (s : State) : Answer1 :=
  issueAt (.sta y gd d a b n) { imms := 2 } s fun g p =>
    let ls := active g p gd
    let w := wgOf s g.launch g.wg
    let k := sizeBytes n
    let as := vmAccesses g p a b ls
    orTrap s g p (vmRange g ls (a.toNat :: span d (sizeRegs n)) b)
      (typedOp s g p 2 (aWindow w) k as
        (let t := laneTurns s (keyIn as) ls
         let s := t.1.foldl (fun s l => aWrite w (keyIn as l) (storeData g l (eff g d.toNat) k) s) t.2
         finish s (t.1.foldl (fun h l => noteWindow (keyIn as l) (storeData g l (eff g d.toNat) k).length h) g) p y))

/-- R404, R405: the C-store; a tile that no MWAIT has covered holds an open value after (R130). -/
def execStc (y : Bool) (gd : Guard) (d a : BitVec 6) (b : BitVec 5) (n : MemSize) (s : State) : Answer1 :=
  issueAt (.stc y gd d a b n) { imms := 2 } s fun g p =>
    let ls := active g p gd
    let k := sizeBytes n
    let as := vmAccesses g p a b ls
    orTrap s g p (vmRange g ls (a.toNat :: span d (sizeRegs n)) b)
      (typedOp s g p 2 (cWindow s g) k as
        (let t := laneTurns s (keyIn as) ls
         let c := t.1.foldl (fun m l =>
           let at_ := keyIn as l
           let bs := if openTile s g at_ k then
               (List.range k).map fun i => (Config.freeWord (s.free + l * 16 + i)).setWidth 8
             else storeData g l (eff g d.toNat) k
           bs.zipIdx.foldl (fun m (x, i) => mset 0 (cKey s g (at_ + i)) x m) m) t.2.cores.cstore
         let s := spendFree { t.2 with cores := { t.2.cores with cstore := c } } (as.any fun z => openTile s g z.2 k)
         finish s g p y))

/-! ## LDM, STM (R377, R378, R406) -/

/-- Where a register-by-register transfer stops. -/
inductive MultiEnd where
  | whole
  | trap (idx : Nat) (t : Trap)
  | park (idx va level : Nat) (lanes : BitVec 128)
  | held (idx : Nat)
  deriving DecidableEq, Repr

/-- Accesses of register i of a transfer. -/
def wordAccesses (as : List (Nat × Nat)) (i : Nat) : List (Nat × Nat) := as.map fun a => (a.1, (a.2 + 4 * i) % 2 ^ 64)

/-- Checks registers one after another; those that pass, and why it stops (R257). -/
def scanWords (s : State) (g : Group) (acc : Acc) (wr : Bool) (as : List (Nat × Nat)) :
    List Nat → List (Nat × List (Nat × Nat × Attr)) × MultiEnd
  | [] => ([], .whole)
  | i :: r =>
    let ws := wordAccesses as i
    match checkLanes s (whoOf s g) acc false acc.code 4 4 ws with
    | .trap t => ([], .trap i { t with progress := i })
    | .park va lv ls => ([], .park i va lv ls)
    | .wait => ([], .held i)
    | .ok xs =>
      match watchTrap s g (!wr) wr 4 ws with
      | some t => ([], .trap i { t with progress := i })
      | none =>
        if fenceHolds s g (as.map (·.1)) (rangesOf 4 ws) then ([], .held i)
        else
          let t := scanWords s g acc wr as r
          ((i, xs) :: t.1, t.2)

/-- Ends a transfer: past it, or stopped with the progress recorded (R257). -/
def endWords (s : State) (g : Group) (p : Split) (y : Bool) (acc : Acc) : MultiEnd → State
  | .whole => finish s g p y
  | .trap i t => takeTrap s g { p with progress := i } t none
  | .park i va lv ls => parkOn s g { p with progress := i } 1 acc va lv (some ls)
  | .held i => hold s g { p with progress := i }

/-- Register numbers of a transfer that are still to be moved. -/
def wordsLeft (p : Split) (c : BitVec 4) : List Nat :=
  (List.range (c.toNat + 1)).filter fun i => decide (p.progress ≤ i)

/-- R257, R377, R378. -/
def execLdm (y : Bool) (gd : Guard) (d a : BitVec 6) (b : BitVec 5) (c : BitVec 4) (s : State) : Answer1 :=
  issueAt (.ldm y gd d a b c) { rc := true, pol := true, imms := 2 } s fun g p =>
    let ls := active g p gd
    let as := vmAccesses g p a b ls
    orTrap s g p ((vmRange g ls (a.toNat :: span d (c.toNat + 1)) b).or (misaligned 4 as))
      (let r := scanWords s g .read false as (if ls.isEmpty then [] else wordsLeft p c)
       let s := r.1.foldl (fun s x => noteAll s (whoOf s g) ((wordAccesses as x.1).map (·.2))) s
       let ps := r.1.flatMap fun x =>
         lanePart (eff g d.toNat + x.1) 4 false (polOf s g p) x.1 (wordAccesses as x.1) x.2
       let t := if ps.isEmpty then (s, g) else startLoad s g p ls ps
       endWords t.1 t.2 p y .read r.2)

/-- Data of an STM: what its first issue captured, or the registers (R406). -/
def stmData (g : Group) (p : Split) (e : Nat) (lane i : Nat) : Word :=
  match p.captured.find? fun x => x.1 == lane * 16 + i with
  | some x => x.2
  | none => getV g lane (e + i)

/-- R257, R406. -/
def execStm (y : Bool) (gd : Guard) (d a : BitVec 6) (b : BitVec 5) (c : BitVec 4) (s : State) : Answer1 :=
  issueAt (.stm y gd d a b c) { pol := true, imms := 2 } s fun g p =>
    let ls := active g p gd
    let as := vmAccesses g p a b ls
    orTrap s g p ((vmRange g ls (a.toNat :: span d (c.toNat + 1)) b).or (misaligned 4 as))
      (let e := eff g d.toNat
       let cap := ls.flatMap fun l => (List.range (c.toNat + 1)).map fun i => (l * 16 + i, stmData g p e l i)
       let r := scanWords s g .write true as (if ls.isEmpty then [] else wordsLeft p c)
       let s := r.1.foldl (fun (s : State) x =>
         storeLanes (noteAll s (whoOf s g) ((wordAccesses as x.1).map (·.2))) g (polOf s g p) x.2
           fun l => leBytes 4 (stmData g p e l x.1).toNat) s
       endWords s g { p with captured := cap } y .write r.2)

/-! ## SLD, SST (R400) -/

/-- Address of the SM format. -/
def smAddr (g : Group) (p : Split) (sb : BitVec 5) (i : BitVec 6) : Nat :=
  (getS64 g (2 * sb.toNat) + BitVec.ofInt 64 (4 * immSM p i)).toNat

/-- Scalar registers of SLD and SST. -/
def smRegs (d : BitVec 9) (sb : BitVec 5) (z : Bool) : List Nat :=
  d.toNat :: (if z then [d.toNat + 1] else []) ++ basePair sb

/-- The checks of one scalar access; its fence holds every enabled lane. -/
def scalarMem (s : State) (g : Group) (p : Split) (acc : Acc) (wr : Bool) (n va : Nat)
    (eff : List (Nat × Nat × Attr) → State) : State :=
  let lanes := allOf g p
  withChecked s g p 1 acc (checkObject s (whoOf s g) lanes acc false acc.code n n va) fun xs =>
    match watchTrap s g (!wr) wr n [(0, va)] with
    | some t => takeTrap s g p { t with lanes := lanes } none
    | none => if fenceHolds s g (enabled g p) [(va, n)] then hold s g p else eff xs

/-- R400. -/
def execSld (y : Bool) (gd : Guard) (d : BitVec 9) (b : BitVec 5) (i : BitVec 6) (z : Bool) (s : State) : Answer1 :=
  issueQ (.sld y gd d b i z) { rc := true, pol := true, imms := 2 } y gd s fun g p =>
    let n := if z then 8 else 4
    let va := smAddr g p b i
    orTrap s g p (sCheck g p (smRegs d b z))
      (scalarMem s g p .read false n va fun xs =>
        let s := noteAll s (whoOf s g) [va]
        let ps := xs.map fun x =>
          ({ lane := x.1, reg := d.toNat, isScalar := true, va := va, pa := x.2.1, bytes := n, attr := x.2.2,
             pol := polOf s g p } : LoadPart)
        let r := loadResult s g p (enabled g p) ps
        -- a condition concerns every enabled lane of the split
        let wide := fun (bs : List LateBad) => bs.flatMap fun b => (enabled g p).map fun l => { b with lane := l }
        let res := r.2.2.map fun q => match q.kind with
          | .mem fs ws bs => { q with kind := .mem fs ws (wide bs) }
          | _ => q
        finish r.1 (addPend { g with vstale := g.vstale || r.2.1 } res) p y)

/-- R400. A peer write of it is each enabled lane's (log entry 57). -/
def execSst (y : Bool) (gd : Guard) (d : BitVec 9) (b : BitVec 5) (i : BitVec 6) (z : Bool) (s : State) : Answer1 :=
  issueQ (.sst y gd d b i z) { pol := true, imms := 2 } y gd s fun g p =>
    let n := if z then 8 else 4
    let va := smAddr g p b i
    orTrap s g p (sCheck g p (smRegs d b z))
      (scalarMem s g p .write true n va fun xs =>
        let s := noteAll s (whoOf s g) [va]
        let x := if z then (getS64 g d.toNat).toNat else (getS g d.toNat).toNat
        -- the access is in the order of each of the split's lanes
        finish (storeLanes s g (polOf s g p) xs (fun _ => leBytes n x) (some (enabled g p))) g p y)

/-! ## Long results coming to their end (R175, R300, R375) -/

/-- Takes a drained trap: the split's outstanding results are written (R247, step 1). A late trap goes first. -/
def drainOne (s : State) (gid sid : Nat) : State :=
  match findGroup s gid with
  | none => s
  | some g =>
    match findSplit g sid with
    | none => s
    | some p =>
      match p.wait with
      | .drain t redo =>
        if hasLate g p then putGroup s (putSplit g (backTo p .ready))
        else match outstanding g p with
          | [] => takeTrap s g { p with wait := .ready } t redo
          | _ => s
      | _ => s

/-- Every drained trap of a group that can be taken. -/
def drainAll (s : State) (gid : Nat) : State :=
  match findGroup s gid with
  | none => s
  | some g => g.splits.foldl (fun s p => drainOne s gid p.id) s

/-- Element k of the outstanding results of a split, replaced by others. -/
def replacePend (g : Group) (r : LongResult) (rs : List LongResult) : Group :=
  { g with pend := g.pend.flatMap fun x => if x == r then rs else [x] }

/-- A group after a result has been written. -/
def writeLong (s : State) (g : Group) (r : LongResult) : State :=
  let g := writeResult s.free { g with pend := g.pend.erase r } r
  drainAll (putGroup (spendFree s !r.clobbered.isEmpty) (wakeOprdy g)) g.id

/-- Conditions that parts meet at POISONED view blocks once they are read (R213). -/
def viewBad (s : State) (ws : List ViewWait) (ps : List LoadPart) : List LateBad :=
  ps.flatMap fun x => (viewParts s x.pa x.bytes).filterMap fun (v, b) =>
    if ws.any (fun w => w.view == v.idx && w.vblock == b) && nbit (tagOf s v b) 31 then
      some { lane := x.lane, cause := 0x0A, addr := BitVec.ofNat 64 x.va,
             info := BitVec.ofNat 64 (v.idx + b * 2 ^ 32), idx := x.idx }
    else none

/-- A load of a group whose folios are resident and whose view blocks are written gets its data. -/
def completeLoad (s : State) (g : Group) (r : LongResult) (fs : List Nat) (ws : List ViewWait) (bad : List LateBad) : State :=
  let s := fs.foldl useFolio s
  let late := fun x : LoadPart => x.data.isNone && !bad.any fun b => b.lane == x.lane && b.idx == x.idx
  let vb := viewBad s ws (r.parts.filter late)
  let q := readParts s g.core late r.parts
  let all := bad ++ vb ++ q.2.2
  let wide := if r.parts.any fun x => x.isScalar then
      all.flatMap fun b => ((List.range 128).filter fun l => r.lanes.getLsbD l).map fun l => { b with lane := l }
    else all
  match settleLoad r q.2.1 wide with
  | [one] => if one.kind == .value then writeLong q.1 (replacePend g r [one]) one
             else drainAll (putGroup q.1 (wakeOprdy (replacePend g r [one]))) g.id
  | rs => drainAll (putGroup q.1 (wakeOprdy (replacePend g r rs))) g.id

/-- R300: the k-th outstanding result of the split, once its value is known. -/
def execLongResultWritten (grp sp k : Nat) (s : State) : Answer1 :=
  match findGroup s grp with
  | none => .next s
  | some g =>
    match (findSplit g sp).bind fun p => (outstanding g p)[k]? with
    | none => .next s
    | some r =>
      match r.kind with
      | .value => .next (writeLong s g r)
      | .mem fs ws bad =>
        if r.aborted then .next s
        else
        let missing := fs.filter fun f => !s.tier.palette.contains f
        if !missing.isEmpty then .next (missing.foldl startFill s)
        else if ws.all (waitOver s) then .next (completeLoad s g r fs ws bad)
        else .next s
      | _ => .next s

/-! ## Late traps (R375) -/

/-- The late trap of a split for a result, among its own lanes. -/
def lateTrapOf (own : BitVec 128) (bs : List LateBad) : Option Trap :=
  match bs.filter fun b => own.getLsbD b.lane with
  | [] => none
  | b :: r =>
    let ls := laneBits ((b :: r).map fun x => x.lane)
    let low := if b.cause = 0x0D then r.foldl (fun m x => if x.lane < (m : LateBad).lane then x else m) b
               else r.foldl (fun m x => if x.addr.toNat < (m : LateBad).addr.toNat then x else m) b
    some { cause := b.cause, addr := low.addr, lanes := ls, info := low.info, progress := b.idx }

/-- A result after a split has taken its late trap: other splits' lanes keep theirs. -/
def lateRest (own : BitVec 128) (r : LongResult) : List LongResult :=
  match r.kind with
  | .late bs =>
    match bs.filter fun b => !own.getLsbD b.lane with
    | [] => []
    | rest => [{ r with kind := .late rest, owner := r.owner &&& ~~~ own }]
  | _ => [r]

/-- A split in a state that a late trap ends: ready, parked by Y, or waiting for a replay (R375). -/
def takesLate : Wait → Bool
  | .ready | .held | .replay _ _ _ _ _ => true
  | _ => false

/-- A late trap that an LDM or STM takes for registers that it has moved itself, before the rest of them: TRAPRET #0 goes on through
all of it (R378, log entry 37). -/
def ownLate (p : Split) (r : LongResult) : Bool := r.pc == startPc p && p.progress != 0

/-- Where a split goes on after a late trap, and what has been moved from there on (R375). -/
def lateAfter (p : Split) (r : LongResult) : DWord × List Moved :=
  if ownLate p r then (match p.redo with | some (_, some a) => a | _ => r.next, p.later)
  else (startPc p, if p.progress = 0 && p.captured.isEmpty && p.redo.isNone && p.later.isEmpty then []
                   else ⟨p.progress, p.captured, p.redo⟩ :: p.later)

/-- R375: the split takes the late trap of its oldest such result, its other results being written. -/
def execLateTrap (grp sp : Nat) (s : State) : Answer1 :=
  match findGroup s grp with
  | none => .next s
  | some g =>
    match findSplit g sp with
    | none => .next s
    | some p =>
      if !takesLate p.wait then .next s
      else
        match (outstanding g p).find? isLate with
        | none => .next s
        | some r =>
          let own := ownLanes p
          let known := ((outstanding g p).filter fun q => q.kind == .value) != []
          let g := flushKnown s.free g p
          let s := spendFree s known
          if (outstanding g p).any fun q => !isLate q then .next (putGroup s (putSplit g (backTo p .held)))
          else
            match r.kind with
            | .late bs =>
              match lateTrapOf own bs with
              | none => .next (putGroup s (replacePend g r (lateRest own r)))
              | some t =>
                let g := replacePend g r (lateRest own r)
                let on := lateAfter p r
                .next (enterTrap s g { p with wait := .ready } t r.pc on.1 (some (r.lanes &&& own)) true on.2)
            | _ => .next s

end Sys2Proof.Machine
end

