-- ==== Sys2Proof/Machine/Control.lean ====
section
/-! DEFINITION. Control.lean: hints, branches, joins, traps by instruction, and chained items (R27 to R38, R44 to R48, R249, R303
to R306, R313 to R317, R371, R384, R386, R410). -/

namespace Sys2Proof.Machine

/-! ## Hints: they have no effect of their own (R306) -/

/-- Takes a hint into the pair; one that may not follow breaks it. -/
def takeHint (i : Instr) (mayFollow : Prefix → Bool) (add : Prefix → Prefix) (s : State)
    (note : State → Group → State := fun s _ => s) : Answer1 :=
  match curSplit s with
  | none => .fault .noIssuingSplit
  | some (g, p) =>
    if mayFollow p.hints then
      let h := { add p.hints with words := p.hints.words ++ [wordOf i], start := startPc p }
      .next (putGroup (note s g) (putSplit g { p with pc := p.pc + 4, hints := h, ypark := false }))
    else .next (takeTrap s g p (hintTrap i g p (p.hints.words.getLastD 0)) none)

/-- R303, R306, R363. -/
def execHimm (i : BitVec 21) (s : State) : Answer1 :=
  takeHint (.himm i) (fun h => decide (h.himm.length < 2)) (fun h => { h with himm := h.himm ++ [i] }) s

/-- The core's performance counters record a sched hint; nothing reads them (R304). -/
def noteSched (n : BitVec 4) (s : State) (g : Group) : State :=
  let k := g.core * 16 + n.toNat
  { s with cores := { s.cores with schedCount := mset 0 k (mget 0 k s.cores.schedCount + 1) s.cores.schedCount } }

/-- R304, R306, R364. -/
def execHx (r : BitVec 4) (pol : BitVec 3) (z sat : Bool) (had : BitVec 2) (sched : BitVec 4) (w : Bool) (s : State) :
    Answer1 :=
  takeHint (.hx r pol z sat had sched w) (fun h => h.hx.isNone && h.himm.isEmpty)
    (fun h => { h with hx := some ⟨r, pol, z, sat, had, sched, w⟩ }) s (noteSched sched)

/-- R305, R306, R362. -/
def execHfwd (k : BitVec 4) (sl : BitVec 2) (s : State) : Answer1 :=
  takeHint (.hfwd k sl) (fun h => h.words.isEmpty) (fun h => { h with hfwd := some (k, sl) }) s

/-! ## Words that only pass on -/

/-- R384. -/
def execNop (y : Bool) (gd : Guard) (s : State) : Answer1 :=
  issueAt (.nop y gd) {} s fun g p => finish s g p y

/-- R317, R380: executes as NOP. -/
def execLpad (y : Bool) (l : BitVec 12) (s : State) : Answer1 :=
  issueAt (.lpad y l) {} s fun g p => finish s g p y

/-- R38: sets the issuing split's join register. -/
def execSetj (y : Bool) (o : BitVec 13) (s : State) : Answer1 :=
  issueAt (.setj y o) {} s fun g p => finish s g { p with join := some (wordOff p.pc o) } y

/-! ## Branches -/

/-- R313, R337: the join PC is rule 1, else rule 4 of R30. -/
def execBra (y : Bool) (gd : Guard) (o : BitVec 21) (s : State) : Answer1 :=
  issueAt (.bra y gd o) {} s fun g p =>
    let t := wordOff p.pc o
    let fall := p.pc + 4
    branchTo s g p y ((active g p gd).map fun l => (l, t)) fall (some (p.join.getD (if t.ult fall then fall else t))) id

/-- The link of a call: the low word of the address after it (R313, R317). -/
def link (p : Split) : Word := (p.pc + 4).setWidth 32

/-- R313, R341: rule 3 of R30. -/
def execCall (y : Bool) (gd : Guard) (o : BitVec 21) (s : State) : Answer1 :=
  issueAt (.call y gd o) {} s fun g p =>
    let ls := active g p gd
    orTrap s g p (vRange g ls [63])
      (branchTo s g p y (ls.map fun l => (l, wordOff p.pc o)) (p.pc + 4) (some (p.pc + 4))
        (fun g => setLanes g ls (eff g 63) fun _ => link p))

/-- R314, R317, R391: rule 1, else rule 5 of R30. -/
def execRet (y : Bool) (gd : Guard) (a : BitVec 6) (s : State) : Answer1 :=
  issueAt (.ret y gd a) {} s fun g p =>
    let ls := active g p gd
    orTrap s g p (vRange g ls [a.toNat])
      (branchTo s g p y (ls.map fun l => (l, indirect p.pc (aVal g l a))) (startPc p) p.join id)

/-! ## Indirect branches (R314 to R317, R340) -/

/-- What forming the targets gives: lanes with targets and the table's join PC, or another outcome. -/
inductive Targets where
  | go (s : State) (ts : List (Nat × DWord)) (join : Option DWord)
  | stop (s : State)

/-- A lane's word as a part of a load (R315). -/
def wordPart (va bytes : Nat) (x : Nat × Nat × Attr) : LoadPart :=
  { lane := x.1, reg := 0, va := va, pa := x.2.1, bytes := bytes, attr := x.2.2, pol := {} }

/-- Reads words as loads of lanes do, own write-combined bytes drained, with what their view blocks and folios come to; the words of
the parts that need not wait (R110, R213, R315). -/
def loadWords (s : State) (g : Group) (ps : List LoadPart) : LoadPlan × List LoadPart :=
  let l := ps.foldl (planPart g) { st := s }
  let r := readParts l.st g.core l.clear ps
  ({ l with st := r.1 }, r.2.1)

/-- Some word of accesses is poisoned: the lanes, and the atom of the lowest (R315). -/
def poisonTrap (s : State) (g : Group) (n : Nat) (as : List (Nat × Nat)) (xs : List (Nat × Nat × Attr)) : Option Trap :=
  let bad := (as.zip xs).filterMap fun (a, x) => match loadPoison s.ms g.core x.2.1 n with
    | _ :: _ => some (a.1, a.2 / 32 * 32)
    | [] => none
  match bad with
  | [] => none
  | (l, va) :: r => some { cause := 0x0D, addr := BitVec.ofNat 64 va, lanes := lanesOf ((l, va) :: r) }

/-- The control-flow trap of a table index (R315). -/
def boundTrap (t : Nat) (fails : List (Nat × Word)) : Option Trap :=
  match fails with
  | [] => none
  | (l, x) :: r => some { cause := 0x07, addr := BitVec.ofNat 64 t, lanes := lanesOf ((l, x) :: r),
                          info := x ++ 0x0100_0000#32 }

/-- The trap of the lower lane, of two found at one step (R312). -/
def lowerTrap (a b : Option Trap) : Option Trap :=
  match a, b with
  | some x, some y => if (x.lanes &&& (~~~ x.lanes + 1)).ult (y.lanes &&& (~~~ y.lanes + 1)) then some x else some y
  | some x, none => some x
  | none, y => y

/-- The trap of the view blocks that words lie in, or none (R213). -/
def viewTrap (l : LoadPlan) : Option Trap :=
  match l.bad with
  | [] => none
  | b :: r => lateTrapOf (laneBits ((b :: r).map fun x => x.lane)) ((b :: r).filter fun x => x.cause == b.cause)

/-- What comes after the address checks of words that a branch reads: watchpoints, fences, then the words themselves, for which the
branch is held while a view block is written or a folio filled (R246, R312, R315, log entry 49). -/
def tableWords (s : State) (g : Group) (p : Split) (bytes : Nat) (as : List (Nat × Nat)) (xs : List (Nat × Nat × Attr))
    (f : State → List (Nat × Nat) → Option Trap → Targets) : Targets :=
  match watchTrap s g true false bytes as with
  | some t => .stop (takeTrap s g p t none)
  | none =>
    if fenceHolds s g (as.map (·.1)) (rangesOf bytes as) then .stop (hold s g p)
    else
      let r := loadWords (noteAll s (whoOf s g) (as.map (·.2))) g ((as.zip xs).map fun x => wordPart x.1.2 bytes x.2)
      let s := r.1.st
      let g := if r.1.stale then { g with vstale := true } else g
      let s := if r.1.stale then putGroup s g else s
      if !(r.1.waits.isEmpty && r.1.folios.isEmpty) then .stop (hold s g p)
      else f s (r.2.map fun x => (x.lane, x.data.getD 0)) (lowerTrap (viewTrap r.1) (poisonTrap s g bytes as xs))

/-- The targets of lanes whose index lies within the table, or the trap of the lowest lane that fails (R312, R315). -/
def tableEntries (s : State) (g : Group) (p : Split) (t : Nat) (join : Option DWord) (fails : List (Nat × Word))
    (goods : List (Nat × Nat)) : Targets :=
  match checkLanes s (whoOf s g) .read false 1 4 4 goods with
  | .trap tr => .stop (takeTrap s g p tr none)
  | .park va lv ls => .stop (parkOn s g p 1 .read va lv (some ls))
  | .wait => .stop (hold s g p)
  | .ok ys =>
    tableWords s g p 4 goods ys fun s ws bad =>
      match lowerTrap (boundTrap t fails) bad with
      | some tr => .stop (takeTrap s ((findGroup s g.id).getD g) p tr none)
      | none => .go s (ws.map fun x => (x.1, indirect p.pc (BitVec.ofNat 32 x.2))) join

/-- Targets of table mode (R315): the header's words, then the entries'. A poisoned word is found as it is read. -/
def tableTargets (s : State) (g : Group) (p : Split) (ls : List Nat) (a : BitVec 6) (h : BitVec 21) : Targets :=
  let t := (wordOff p.pc h).toNat
  let head := ls.map fun l => (l, t)
  match checkLanes s (whoOf s g) .read false 1 16 8 head with
  | .trap tr => .stop (takeTrap s g p tr none)
  | .park va lv ls => .stop (parkOn s g p 1 .read va lv (some ls))
  | .wait => .stop (hold s g p)
  | .ok xs =>
    tableWords s g p 8 head xs fun s ws bad =>
      let g := (findGroup s g.id).getD g
      match bad with
      | some tr => .stop (takeTrap s g p tr none)
      | none =>
        match ws with
        | [] => .go s [] none
        | (_, w) :: _ =>
          let count := BitVec.ofNat 32 w
          let j := BitVec.ofNat 32 (w / 2 ^ 32)
          let join := if j.getLsbD 0 then none else some (fld p.pc 32 32 ++ (j &&& 0xFFFF_FFFC#32))
          let idx := ls.map fun l => (l, aVal g l a)
          tableEntries s g p t join (idx.filter fun x => count.ule x.2)
            ((idx.filter fun x => x.2.ult count).map fun x => (x.1, (t + 16 + 4 * x.2.toNat) % 2 ^ 64))

/-- Label of an LPAD word. -/
def labelOf (w : Word) : Option (BitVec 12) :=
  match decodeWord w with
  | .ok (.lpad _ l) => some l
  | _ => none

/-- Targets of landing-pad mode (R316). -/
def padTargets (s : State) (g : Group) (p : Split) (ls : List Nat) (a : BitVec 6) (label : BitVec 12) : Targets :=
  let ts := ls.map fun l => (l, indirect p.pc (aVal g l a))
  let r := ts.foldl (fun (acc : State × List (Nat × DWord × Fetched)) t =>
    let f := fetchAt acc.1 g (laneBits [t.1]) t.2
    (match f with | .word _ s => s | _ => acc.1, acc.2 ++ [(t.1, t.2, f)])) (s, [])
  let s := r.1
  let traps := r.2.filterMap fun (l, _, f) => match f with | .trap t _ => some (l, t) | _ => none
  let hard := traps.filter fun x => x.2.cause != 0x0D
  match hard with
  | (_, t) :: _ =>
    let same := hard.filter fun x => x.2.cause == t.cause
    let low := same.foldl (fun (m : DWord) x => if x.2.addr.ult m then x.2.addr else m) t.addr
    .stop (takeTrap s g p { t with addr := low, lanes := lanesOf same } none)
  | [] =>
    match r.2.filterMap fun (_, _, f) => match f with | .park va lv => some (va, lv) | _ => none with
    | (va, lv) :: _ => .stop (parkOn s g p 1 .fetch va lv)
    | [] =>
      if r.2.any fun x => match x.2.2 with | .wait => true | _ => false then .stop (hold s g p)
      else
        let soft := traps.filter fun x => x.2.cause == 0x0D
        let poison := match soft with | (_, t) :: _ => some { t with lanes := lanesOf soft } | [] => none
        let wrong := r.2.filterMap fun (l, t, f) => match f with
          | .word w _ => if labelOf w = some label then none else some (l, t, (labelOf w).getD 0)
          | _ => none
        let mis := match wrong with
          | (l, t, found) :: more => some ({ cause := 0x07, addr := t, lanes := lanesOf ((l, t, found) :: more),
                                             info := (found ++ label).setWidth 64 } : Trap)
          | [] => none
        match lowerTrap mis poison with
        | some t => .stop (takeTrap s g p t none)
        | none => .go s ts none

/-- VSTALE of a group after its branch has read its table (R213). -/
def staleFrom (s : State) (g : Group) : Group := { g with vstale := g.vstale || (findGroup s g.id).any fun h => h.vstale }

/-- BRX, and CALLX with its link register (R340). The lanes that wait do so at the first hint of the pair, which the branch needs
to execute again, where R32 says the branch itself (log entry 49). -/
def indirectBranch (i : Instr) (y : Bool) (gd : Guard) (a : BitVec 6) (dst : Option (BitVec 6)) (s : State) : Answer1 :=
  issueAt i { imms := 1 } s fun g p =>
    let pad := (wgOf s g.launch g.wg).landingPad
    let ls := active g p gd
    let h := p.hints.himm.headD 0
    if (!pad && p.hints.himm.isEmpty) || (pad && h.toNat / 4096 != 0) then takeTrap s g p (illegal i g p) none
    else
      match vRange g ls (a.toNat :: (dst.map (·.toNat)).toList) with
      | some t => takeTrap s g p t none
      | none =>
        match (if pad then padTargets s g p ls a (h.setWidth 12) else tableTargets s g p ls a h) with
        | .stop t => t
        | .go s ts tj =>
          let join := p.join.or (tj.or (dst.map fun _ => p.pc + 4))
          branchTo s (staleFrom s g) p y ts (startPc p) join fun g => match dst with
            | some d => setLanes g ls (eff g d.toNat) fun _ => link p
            | none => g

/-- R315, R316, R340. -/
def execBrx (y : Bool) (gd : Guard) (a : BitVec 6) (s : State) : Answer1 := indirectBranch (.brx y gd a) y gd a none s

/-- R315 to R317, R340. -/
def execCallx (y : Bool) (gd : Guard) (a d : BitVec 6) (s : State) : Answer1 :=
  indirectBranch (.callx y gd a d) y gd a (some d) s

/-! ## REGANG (R36) -/

/-- The fork of a split. -/
def forkOf (g : Group) (p : Split) : Option Fork := p.fork.bind fun f => g.forks.find? fun k => k.id == f

/-- R36, R38. -/
def execRegang (y : Bool) (s : State) : Answer1 :=
  issueAt (.regang y) {} s fun g p =>
    match forkOf g p with
    | none => finish s g p y
    | some f =>
      if f.join = none ∨ f.join = some p.pc then
        putGroup s (mergeAll (putSplit g { p with wait := .regang p.pc, ypark := y, hints := {}, redo := none }))
      else finish s g p y

/-! ## TRAP and TRAPRET (R249, R410) -/

/-- R249, R410. -/
def execTrap (y : Bool) (gd : Guard) (c : BitVec 13) (s : State) : Answer1 :=
  issueAt (.trap y gd c) {} s fun g p =>
    match active g p gd with
    | [] => finish s g p y
    | ls => takeTrap s g p { cause := 0x10, lanes := laneBits ls, info := c.setWidth 64 } none

/-- R248, R249, R410. With Y it first waits for the outstanding long results. -/
def execTrapret (y : Bool) (m : RetMode) (s : State) : Answer1 :=
  issueAt (.trapret y m) {} s fun g p =>
    if y && !(outstanding g p).isEmpty then putGroup s (putSplit g { backTo p .ready with ypark := true })
    else
      match returnFrom g p m with
      | some q => putGroup s (putSplit g { q with ypark := false })
      | none => takeTrap s g p (illegal (.trapret y m) g p) none

/-! ## Chained items (R44 to R49, R131, R371, R386) -/

/-- Item of a lane. -/
def itemOf (g : Group) (lane : Nat) : Nat := g.itemBase.toNat + lane

/-- A lane's item has published a slot. -/
def hasPublished (g : Group) (lane slot : Nat) : Bool := (mget? (lane * 4 + slot) g.published).isSome

/-- Chain status of a lane (R371). -/
def chainStatus (d : LaunchDesc) (g : Group) (lane : Nat) : Word :=
  if d.kmax = 0 then 0
  else
    let pubs := (List.range 4).foldl (fun m k => m + b2n (hasPublished g lane k) * 2 ^ k) 0
    BitVec.ofNat 32 (2 ^ 31 + d.chainScope.code.toNat * 2 ^ 11 + d.kmax * 2 ^ 6 + (d.slots - 1) * 2 ^ 4 + pubs)

/-- Item index of a lane; the same linear index in a launch that is not chained (R371). -/
def itemIndex (d : LaunchDesc) (g : Group) (lane : Nat) : Word :=
  if d.kmax = 0 then BitVec.ofNat 32 ((g.wg * d.groups + g.index) * g.width + lane) else BitVec.ofNat 32 (itemOf g lane)

/-- R371. -/
def execItem (y : Bool) (gd : Guard) (d : BitVec 6) (t : Bool) (s : State) : Answer1 :=
  vecChecked (.item y gd d t) {} y gd (fun _ _ => [d.toNat]) (fun _ _ _ => none)
    (fun g _ ls =>
      let k := (launchOf s g.launch).desc
      (setLanes g ls (eff g d.toNat) fun l => if t then chainStatus k g l else itemIndex k g l, {})) s

/-- A deferred publication of a launch still has to read an item's slot (R48). -/
def deferredNeeds (s : State) (launch item slot : Nat) : Bool :=
  s.sched.deferred.any fun d => d.launch == launch && d.item == item + 1 && d.slot == slot

/-- An entry takes a publication: of the last 16 items up to its group's last (R49), and of an item of its group that a deferred
publication has to read, or that carries what others released (log entry 22). -/
def RelayEntry.takes (s : State) (e : RelayEntry) (launch : Nat) (r : RelaySlot) : Bool :=
  e.launch == launch && decide (r.item < e.first + e.width) &&
    (decide (e.first + e.width ≤ r.item + 16) ||
      (decide (e.first ≤ r.item) && (deferredNeeds s launch r.item r.slot || r.from_ != [(e.core, e.group)])))

/-- A publication reaches the Relay (R49). -/
def relayPut (s : State) (launch : Nat) (r : RelaySlot) : State :=
  let put := fun e : RelayEntry => if e.takes s launch r then { e with slots := e.slots ++ [r] } else e
  { s with sched := { s.sched with relay := s.sched.relay.map put } }

/-- Entries are freed once the group that holds their next items has retired, and no deferred publication has to read them (R49). -/
def sweepRelay (s : State) : State :=
  { s with sched := { s.sched with relay := s.sched.relay.filter fun e =>
      !e.served || s.sched.deferred.any fun d => d.launch == e.launch && decide (e.first < d.item) && decide (d.item ≤ e.first + e.width) } }

/-- A publication wakes the launch's splits that wait for a forwarded operand; they look again (R47). -/
def wakeForwarded (s : State) (launch : Nat) : State :=
  { s with sched := { s.sched with groups := s.sched.groups.map fun g =>
      if g.launch == launch then
        { g with splits := g.splits.map fun p => if p.wait == .forwarded then { p with wait := .ready } else p }
      else g } }

/-- The checks of PUB in every lane, in the order of R46. -/
def pubCheck (s : State) (g : Group) (ls : List Nat) (slot : Nat) : Option Trap :=
  let d := (launchOf s g.launch).desc
  if d.kmax = 0 then some (chainTrap (laneBits ls) 3)
  else if d.slots ≤ slot then some (chainTrap (laneBits ls) 1)
  else match ls.filter fun l => hasPublished g l slot with
    | [] => none
    | twice => some (chainTrap (laneBits twice) 0)

/-- R46, R131, R386. -/
def execPub (y : Bool) (gd : Guard) (n : BitVec 6) (sl : BitVec 2) (s : State) : Answer1 :=
  issueAt (.pub y gd n sl) {} s fun g p =>
    let ls := active g p gd
    match ls with
    | [] => finish s g p y
    | _ =>
      orTrap s g p ((vRange g ls [n.toNat]).or (pubCheck s g ls sl.toNat))
        (let sc := (launchOf s g.launch).desc.chainScope
         if relHeld s g ls sc then hold s g p else
         let s := releaseAt s g.core g.id sc
         let pubs := ls.foldl (fun m l => mput (l * 4 + sl.toNat) (aVal g l n) m) g.published
         let s := ls.foldl (fun s l => relayPut s g.launch ⟨itemOf g l, sl.toNat, aVal g l n, [(g.core, g.id)]⟩) s
         wakeForwarded (finish s { g with published := pubs } p y) g.launch)

/-- Publishes a slot of an item whose lane has retired (R48). -/
def publishLate (s : State) (d : Deferred) (v : Word × List (Nat × Nat)) : State :=
  let s := match s.sched.groups.find? fun g => holdsItem g d.launch d.item with
    | some g => putGroup s { g with published := mput ((d.item - g.itemBase.toNat) * 4 + d.slot) v.1 g.published }
    | none => s
  let s := relayPut s d.launch ⟨d.item, d.slot, v.1, ((d.core, d.group) :: v.2).dedup⟩
  wakeForwarded (sweepRelay s) d.launch

/-- What a deferred publication takes from item i − 1: its value and what it released, or the default (R48, R131); none while
unpublished. -/
def deferredValue (s : State) (d : Deferred) : Option (Word × List (Nat × Nat)) :=
  if d.item = 0 then some ((launchOf s d.launch).desc.defaults.getD d.slot 0, [])
  else slotOf s d.launch (d.item - 1) d.slot

/-- R48, R131: a release at the chain's scope, after item i − 1's, which also carries what item i − 1 released. -/
def execDeferredPublication (k : Nat) (s : State) : Answer1 :=
  match s.sched.deferred[k]? with
  | none => .next s
  | some d =>
    match deferredValue s d with
    | none => .next s
    | some v =>
      let sc := (launchOf s d.launch).desc.chainScope
      if s.plat.linkUp == 0 && peersDue s.ms d.core d.group [] sc then .next s else
      let s := releaseAt s d.core d.group sc
      .next (publishLate { s with sched := { s.sched with deferred := dropNth k s.sched.deferred } } d v)

/-! ## Ageing (R42) -/

/-- R42: a split whose counter has reached AGE_LIMIT is taken before any other of its core. The picks read the counters; this step
records the oldest such split as the first that the core takes. -/
def execAgeLimitReached (core : Nat) (s : State) : Answer1 :=
  let st := coreSt s core
  match (coreCands s core).find? fun x => decide (st.ageLimit ≤ x.age) with
  | none => .next s
  | some x =>
    let st := { st with first := (x.grp, x.sp) :: st.first.filter fun y => y != (x.grp, x.sp) }
    .next { s with cores := { s.cores with cs := (mset {} core st s.cores.cs) } }

end Sys2Proof.Machine
end

