-- ==== Sys2Proof/Machine/Atomic.lean ====
section
/-! DEFINITION. Atomic.lean: ATOM, ATOMC, AMSG and the steps of the caches: promotion, read-count expiry, prefetch, the op unit
(R101, R102, R106, R113 to R124, R323 to R330). -/

namespace Sys2Proof.Machine

/-! ## One atomic operation (R118, R121, R328, R330) -/

/-- The wider of two scopes. -/
def widest (a b : Scope) : Scope :=
  match a, b with
  | .sys, _ => .sys | _, .sys => .sys
  | .dev, _ => .dev | _, .dev => .dev
  | .team, _ => .team | _, .team => .team
  | .core, .core => .core

/-- Release actions of an atomic at its scope; peers acknowledge theirs where a port is up (R117). -/
def atomRelease (now core group : Nat) (sc : Scope) (up : Bool) (ms : MemSys) : MemSys :=
  let ms := release now core group sc allLines ms
  if sc == .core || sc == .team || !up then ms else performPeers ms

/-- What an atomic does in one lane: who, where, at which scope; what it writes where it read `old`; whether it is a release
where it writes; whether it reads. -/
structure AtomLane where
  pa : Nat
  bytes : Nat
  attr : Attr
  scope : Scope
  isRelease : Bool
  reads : Bool
  new : Nat → Option Nat

/-- A place below the home, where a release pins. -/
def AtomPlace.narrow : AtomPlace → Bool
  | .l1 | .team => true
  | _ => false

/-- The place and the scope of an atomic: those of R118, but device scope for a narrow release that cannot pin (R121, R122, R124). -/
def atomPlan (g : Group) (a : AtomLane) (ms : MemSys) : AtomPlace × Scope :=
  let pl := atomPlace ms.dram a.attr a.scope a.pa
  let sc := atomScope ms.dram a.attr a.scope a.pa
  if a.isRelease && pl.narrow && (pinAtom g.core g.launch g.wg sc (atomOf a.pa) ms.cache).isNone then (.home, .dev) else (pl, sc)

/-- An atomic in one lane: the memory system and the old value; none where its read meets poison (R329). The release goes first, so
that nothing comes between the read and the write at the place (R118); an ATOMC that then writes nothing has only written lines
back early, as their eviction may (R117). -/
def atomOne (now cls : Nat) (up : Bool) (g : Group) (a : AtomLane) (ms : MemSys) : MemSys × Option Nat :=
  let (pl, sc) := atomPlan g a ms
  let ms := if a.isRelease then atomRelease now g.core g.id sc up ms else ms
  let r := atomFetch now g.core a.attr cls pl a.pa a.bytes ms
  let poisoned := !(if pl.narrow then loadPoison r.1 g.core a.pa a.bytes else poisonedAtoms r.1.dram a.pa a.bytes).isEmpty
  if a.reads && poisoned then (r.1, none)
  else match a.new r.2 with
    | none => (r.1, some r.2)
    | some x =>
      let pins := if a.isRelease && pl.narrow then pinAtom g.core g.launch g.wg sc (atomOf a.pa) r.1.cache else none
      (atomStore now g.core pl a.pa (leBytes a.bytes x) { r.1 with cache := pins.getD r.1.cache }, some r.2)

/-- Addresses that register pairs of lanes hold. -/
def pairAccesses (g : Group) (a : BitVec 6) (ls : List Nat) : List (Nat × Nat) := ls.map fun l => (l, (pairVal g l a).toNat)

/-- An ATOM or ATOMC once its checks have passed: lanes in their turn, then the acquire, then the results. -/
def runAtoms (s : State) (g : Group) (p : Split) (y : Bool) (e n : Nat) (as : List (Nat × Nat))
    (xs : List (Nat × Nat × Attr)) (mk : Nat → Nat → Attr → AtomLane) (result acq : Bool) : State :=
  let s := noteAll s (whoOf s g) (as.map (·.2))
  let t := laneTurns s (keyIn (xs.map fun x => (x.1, x.2.1))) (xs.map (·.1))
  let r := t.1.foldl (fun (acc : MemSys × List (Nat × Option Nat)) l => match xs.find? fun x => x.1 == l with
    | some x =>
      let o := atomOne s.clock.ps (clsOf s g) (s.plat.linkUp != 0) g (mk l x.2.1 x.2.2) acc.1
      (o.1, acc.2 ++ [(l, o.2)])
    | none => acc) (t.2.ms, [])
  let sc := xs.foldl (fun c x => widest c (atomScope s.ms.dram x.2.2 (mk x.1 x.2.1 x.2.2).scope x.2.1)) Scope.core
  let ms := if acq && !xs.isEmpty then acquire g.core sc allLines r.1 else r.1
  let s := putMs t.2 ms
  let g := if acq && !xs.isEmpty then acquireWindow g else g
  let done := r.2.filterMap fun x => x.2.map fun v => (x.1, v)
  let v := if result then done.flatMap fun x =>
      (List.range (n / 4)).map fun k => (x.1 * 256 + e + k, BitVec.ofNat 32 (x.2 / 2 ^ (32 * k)))
    else []
  let g := if v.isEmpty then g else addLong g p (done.map (·.1)) v [] none
  match (r.2.filter fun x => x.2.isNone).map (·.1) with
  | [] => finish s g p y
  | bad =>
    let low := bad.foldl min (bad.headD 0)
    takeTrap s g p { cause := 0x0D, addr := BitVec.ofNat 64 (keyIn as low / 32 * 32), lanes := laneBits bad }
      (some (laneBits bad))

/-- The release of an atomic has still to wait in some lane (R117). -/
def atomHeld (s : State) (g : Group) (ls : List Nat) (xs : List (Nat × Nat × Attr)) (mk : Nat → Nat → Attr → AtomLane) : Bool :=
  xs.any fun x => relHeld s g ls (atomPlan g (mk x.1 x.2.1 x.2.2) s.ms).2

/-- The operation reads, or writes (R302). -/
def opReads (o : AtomOp) : Bool := o != .st
def opWrites (o : AtomOp) : Bool := o != .ld

/-- R118, R121, R327 to R329. -/
def execAtom (y : Bool) (gd : Guard) (d a : BitVec 6) (o : AtomOp) (r : AtomOrd) (sc : Scope) (z : Bool) (s : State) :
    Answer1 :=
  issueAt (.atom y gd d a o r sc z) {} s fun g p =>
    let ls := active g p gd
    let n := if z then 8 else 4
    let as := pairAccesses g a ls
    let acc : Acc := if o = .ld then .atomicRead else .atomic
    let rel := (r == .rel || r == .ar) && opWrites o
    orTrap s g p (vRange g ls (span a 2 ++ span d (n / 4)))
      (withChecked s g p 1 acc (checkLanes s (whoOf s g) acc false 3 n n as) fun xs =>
        guarded s g p (opReads o) (opWrites o) n as
          (let e := eff g d.toNat
           let mk := fun l pa at_ =>
             ({ pa := pa, bytes := n, attr := at_, scope := sc, isRelease := rel, reads := opReads o,
                new := fun old => if opWrites o then some (rmw o n old (leNat (storeData g l e n))) else none } : AtomLane)
           if rel && atomHeld s g ls xs mk then hold s g p
           else runAtoms s g p y e n as xs mk (opReads o) ((r == .acq || r == .ar) && opReads o)))

/-- R118, R121, R330. -/
def execAtomc (y : Bool) (gd : Guard) (d a n : BitVec 6) (sc : Scope) (z : Bool) (s : State) : Answer1 :=
  issueAt (.atomc y gd d a n sc z) {} s fun g p =>
    let ls := active g p gd
    let k := if z then 8 else 4
    let as := pairAccesses g a ls
    orTrap s g p (vRange g ls (span a 2 ++ span d (k / 4) ++ span n (k / 4)))
      (withChecked s g p 1 .atomic (checkLanes s (whoOf s g) .atomic false 3 k k as) fun xs =>
        guarded s g p true true k as
          (let e := eff g d.toNat
           let mk := fun l pa at_ =>
             ({ pa := pa, bytes := k, attr := at_, scope := sc, isRelease := true, reads := true,
                new := fun old => if old = leNat (storeData g l e k) then some (leNat (storeData g l (eff g n.toNat) k))
                                  else none } : AtomLane)
           if atomHeld s g ls xs mk then hold s g p
           else runAtoms s g p y e k as xs mk true true))

/-! ## AMSG (R119, R323, R324) -/

/-- Bytes of an AMSG. -/
def amsgBytes : AmsgSize → Nat
  | .b8 => 1 | .b16 => 2 | .b32 => 4 | .b64 => 8

/-- R119, R323, R324. -/
def execAmsg (y : Bool) (gd : Guard) (a : BitVec 5) (o : AmsgOp) (z : AmsgSize) (s : State) : Answer1 :=
  issueAt (.amsg y gd a o z) {} s fun g p =>
    let ls := active g p gd
    let ra : BitVec 6 := a ++ 0#1
    let n := amsgBytes z
    let as := pairAccesses g ra ls
    orTrap s g p (vRange g ls (span ra (if n = 8 then 4 else 3)))
      (withChecked s g p 1 .amsg (checkLanes s (whoOf s g) .amsg true 3 n n as) fun xs =>
        guarded s g p true true n as
          (let s := noteAll s (whoOf s g) (as.map (·.2))
           let ms := xs.foldl (fun ms x =>
             let ms := pushOut s.clock.ps g.core (lineOf x.2.1) ms
             let m : Amsg := { group := g.id, lane := x.1, core := g.core, pa := x.2.1, op := o, size := n,
                               data := getV g x.1 (eff g (ra.toNat + 3)) ++ getV g x.1 (eff g (ra.toNat + 2)) }
             { ms with cache := { ms.cache with amsgs := ms.cache.amsgs ++ [m] } }) s.ms
           finish (putMs s ms) g p y))

/-- R119, R324: message k arrives, after every earlier one of its lane to its slice. -/
def execAmsgExecute (k : Nat) (s : State) : Answer1 :=
  match s.ms.cache.amsgs[k]? with
  | none => .next s
  | some m =>
    if (s.ms.cache.amsgs.take k).any fun e => e.group == m.group && e.lane == m.lane && sliceNo e.pa == sliceNo m.pa then .next s
    else
      let ms := { s.ms with cache := { s.ms.cache with amsgs := dropNth k s.ms.cache.amsgs } }
      .next (putMs s (runAmsg s.clock.ps m ms))

/-! ## Steps of the caches -/

/-- R122: a retried outside access promotes the atom's pins and reserves the atom, until an access from outside their scopes is made
(log entry 15). -/
def execPinPromotion (atom : Nat) (s : State) : Answer1 :=
  let pins := s.ms.cache.homePins.filter fun p => p.atom == atom
  match pins with
  | [] => .next s
  | _ =>
    let ms := pins.foldl (promote s.clock.ps) s.ms
    let kept := ms.cache.reserved.filter fun p => !pins.any p.same
    .next (putMs s { ms with cache := { ms.cache with reserved := pins ++ kept } })

/-- R102: the line is invalidated with no write-back. -/
def execReadCountExpiry (team line : Nat) (s : State) : Answer1 :=
  .next { s with ms := dropExpired team line s.ms }

/-- A leaf that a core's translations hold for a physical page (R106): its attributes. -/
def heldLeaf (s : State) (core pa : Nat) : Option Attr :=
  (s.xlat.tlb.find? fun t => (t.holder == .core core || t.holder == .team (teamOf core)) &&
    inRange pa (entryAddr t.entry.toNat, 2 ^ pageBits t.level)).map fun t => leafAttr t.entry.toNat

/-- The held line whose accesses trained the prefetcher (R106): for the team cache the line before, for an L1 the nearer of two lines at
one stride, all in the same 64 KiB. -/
def trained (s : State) (core line : Nat) (toTeam : Bool) : Option CacheLine :=
  let near := fun l : Nat => l / 512 == line / 512
  if toTeam then
    if near (line - 1) && line != 0 then findLine s.ms.cache.team (teamOf core) (line - 1) else none
  else
    s.ms.cache.l1.find? fun c => c.owner == core && c.line != line && near c.line &&
      decide (line ≤ 2 * c.line) && near (2 * c.line - line) && (findLine s.ms.cache.l1 core (2 * c.line - line)).isSome

/-- R106: a prefetcher fetches a line, or drops it. -/
def execHardwarePrefetch (core line : Nat) (toTeam : Bool) (s : State) : Answer1 :=
  match trained s core line toTeam, heldLeaf s core (line * 128) with
  | some c, some a =>
    if a.cm != 0 || a.n || !(physOf s.plat.walk (line * 128)).isDram || s.ms.dram.nRanges.any (inRange (line * 128)) then .next s
    else .next (putMs s (fetchLine s.clock.ps core a { code := if toTeam then 3 else 0, cls := c.cls } false line s.ms).1)
  | _, _ => .next s

end Sys2Proof.Machine
end

