-- ==== Sys2Proof/Machine/Barrier.lean ====
section
/-! DEFINITION. Barrier.lean: byte barriers (R133 to R137, R332, R333), fences (R125 to R127, R355), BAR, CAD and WAITPH
(R241 to R243, R331). -/

namespace Sys2Proof.Machine

/-! ## Byte barriers (R133, R134) -/

/-- A barrier's fields; BINIT clears its reserved bits, and every other update leaves them (R133). -/
structure Bar where
  high : Nat
  err : Nat
  init : Nat
  phase : Bool
  arrivals : Nat
  pending : Nat
  deriving DecidableEq, Repr

/-- The fields of 128 bits (R133). -/
def barOf (x : Nat) : Bar :=
  { high := x / 2 ^ 84, err := nbits x 81 3, init := nbits x 65 16, phase := nbit x 64, arrivals := nbits x 48 16,
    pending := nbits x 0 48 }

/-- The 128 bits of a barrier. -/
def Bar.bits (b : Bar) : Nat :=
  b.high * 2 ^ 84 + b.err * 2 ^ 81 + b.init * 2 ^ 65 + b2n b.phase * 2 ^ 64 + b.arrivals * 2 ^ 48 + b.pending

/-- The barrier at a place. -/
def readBar (s : State) : BarPlace → Bar
  | .astore c off => barOf (leNat (bytesAt s.cores.astore (bufKey c off) 16))
  | .dram pa => barOf (leNat (readHome s.ms pa 16))

/-- An agent's access reaches a barrier's place: pins that leave the agent out are promoted, and what is read is decoded (R122,
R269). `by_`: the core the agent is located on (R111). -/
def reachBar (s : State) (pl : BarPlace) (by_ : Option Nat) : State :=
  match pl with
  | .astore _ _ => s
  | .dram pa => putMs s (reachHome s.clock.ps (Agent.ofCore by_) pa 16 s.ms)

/-- Writes a barrier at its place: the core's A-store, or the home (R134). -/
def writeBar (s : State) (pl : BarPlace) (b : Bar) (by_ : Option Nat := none) : State :=
  match pl with
  | .astore c off =>
    let bs := (leBytes 16 b.bits).zipIdx
    noteAstore { s with cores := { s.cores with
      astore := bs.foldl (fun m (x, i) => mset 0 (bufKey c (off + i)) x m) s.cores.astore } } c off 16
  | .dram pa => putMs s (engineWrite s.clock.ps (Agent.ofCore by_) pa (leBytes 16 b.bits) s.ms)

/-- The rule after every update (R134). -/
def Bar.settle (b : Bar) : Bar :=
  if b.pending = 0 ∧ b.arrivals = 0 ∧ b.err = 0 then { b with phase := !b.phase, arrivals := b.init } else b

/-- One update (R134, R136, R137). -/
def Bar.update (b : Bar) : BarUpd → Bar
  | .arrive => if b.arrivals = 0 then { b with err := 2 } else { b with arrivals := b.arrivals - 1 }
  | .deliver n => if b.pending < n then { b with pending := 0, err := 1 } else { b with pending := b.pending - n }
  | .expect n => { b with pending := (b.pending + n) % 2 ^ 48 }
  | .error c => { b with err := c }

/-- The trap of a BWAIT that finds ERR (R136). -/
def barErrTrap (addr : DWord) (lanes : BitVec 128) (err : Nat) : Trap :=
  if err = 3 then { cause := 0x0B, addr := addr, lanes := lanes, info := BitVec.ofNat 64 (11 + err * 256) }
  else { cause := if err ≤ 2 then 0x08 else 0x0D, addr := addr, lanes := lanes, info := BitVec.ofNat 64 err }

/-- An engine-delivered byte in global memory counts in an A-store barrier's phase (R128). -/
def markPhase (s : State) (pl : BarPlace) : State :=
  match pl with
  | .dram _ => s
  | .astore _ _ =>
    let x := (pl, (readBar s pl).phase)
    if s.copies.memPhases.contains x then s else { s with copies := { s.copies with memPhases := x :: s.copies.memPhases } }

/-- A phase begins at a place: nothing has been counted in it. -/
def freshPhase (s : State) (pl : BarPlace) (ph : Bool) : State :=
  { s with copies := { s.copies with memPhases := s.copies.memPhases.filter fun x => x != (pl, ph) } }

/-- Scope of the acquire of a BWAIT for a phase of a barrier (R128): that of a BARR on it, or device where the phase counted
engine-delivered bytes in global memory. -/
def waitScope (s : State) (g : Group) (pl : BarPlace) (ph : Bool) : Scope :=
  match pl with
  | .dram _ => .dev
  | .astore _ _ => if s.copies.memPhases.contains (pl, ph) then .dev else spanScope (wgOf s g.launch g.wg).cores

/-- The acquire of a BWAIT past a phase. -/
def barAcquire (s : State) (g : Group) (pl : BarPlace) (ph : Bool) : State :=
  putMs s (acquire g.core (waitScope s g pl ph) allLines s.ms)

/-- A waiter looks at its barrier: it traps on ERR, goes on past another phase, and waits otherwise (R136). -/
def wakeBar (pl : BarPlace) (b : Bar) (s : State) (x : Nat × Nat) : State :=
  match findGroup s x.1 with
  | none => s
  | some g =>
    match findSplit g x.2 with
    | none => s
    | some p =>
      match p.wait with
      | .byteBarrier pl' addr ph =>
        if pl' ≠ pl then s
        else if b.err ≠ 0 then takeTrap s g { p with wait := .ready, ypark := false } (barErrTrap addr (allOf g p) b.err) none
        else if b.phase ≠ ph then finish (barAcquire s g pl ph) (acquireWindow g) { p with wait := .ready } p.ypark
        else s
      | _ => s

/-- A saved waiter at a global barrier misses no update either: past the phase it names it goes on after its restore, which acquires,
and with ERR it then traps (R136, R265, R333). -/
def wakeSavedSplit (pl : BarPlace) (b : Bar) (g : Group) (p : Split) : Split :=
  match p.wait with
  | .byteBarrier pl' addr ph =>
    if pl' ≠ pl then p
    else if b.err ≠ 0 then { p with wait := .drain (barErrTrap addr (allOf g p) b.err) none, ypark := false }
    else if b.phase ≠ ph then advance { p with wait := .ready } p.ypark
    else p
  | _ => p

/-- The same of a saved group: one that goes on has acquired. -/
def wakeSavedGroup (pl : BarPlace) (b : Bar) (g : Group) : Group :=
  let h := { g with splits := g.splits.map (wakeSavedSplit pl b g) }
  if h == g then g else acquireWindow h

/-- The same of every saved workgroup; its A-store barriers are saved with it. -/
def wakeSaved (s : State) (pl : BarPlace) (b : Bar) : State :=
  match pl with
  | .astore _ _ => s
  | .dram _ => { s with pre := { s.pre with saved := s.pre.saved.map fun x => { x with groups := x.groups.map (wakeSavedGroup pl b) } } }

/-- A barrier's new value is written, and its waiters look again (R333). -/
def putBar (s : State) (pl : BarPlace) (b : Bar) (by_ : Option Nat := none) : State :=
  let s := wakeSaved (writeBar s pl b by_) pl b
  let ws := s.sched.groups.flatMap fun g => (g.splits.filter fun p => match p.wait with
    | .byteBarrier _ _ _ => true | _ => false).map fun p => (g.id, p.id)
  ws.foldl (wakeBar pl b) s

/-- A barrier goes from one value to the next; a phase that begins has counted nothing. -/
def moveBar (s : State) (pl : BarPlace) (old new : Bar) (by_ : Option Nat := none) : State :=
  putBar (if new.phase = old.phase then s else freshPhase s pl new.phase) pl new by_

/-- An update at a barrier's place. -/
def updateBar (s : State) (pl : BarPlace) (u : BarUpd) (by_ : Option Nat := none) : State :=
  let s := reachBar s pl by_
  moveBar s pl (readBar s pl) ((readBar s pl).update u).settle by_

/-- Posts an update that is on its way to its place. -/
def postBar (s : State) (pl : BarPlace) (u : BarUpd) (by_ : Option Nat := none) : State :=
  { s with copies := { s.copies with updates := s.copies.updates ++ [⟨pl, u, by_⟩] } }

/-- Updates already on their way to a place arrive there before a later one of their split (R333), whose access then reaches it. -/
def flushBar (s : State) (pl : BarPlace) (by_ : Option Nat) : State :=
  let mine := s.copies.updates.filter fun u => u.place == pl
  let s := { s with copies := { s.copies with updates := s.copies.updates.filter fun u => u.place != pl } }
  reachBar (mine.foldl (fun s u => updateBar s u.place u.upd u.core) s) pl by_

/-- Goes on with a group at a barrier once the updates on their way there have arrived (R333). -/
def atBar (s : State) (g : Group) (pl : BarPlace) (f : State → Group → State) : State :=
  let s := flushBar s pl (some g.core)
  match findGroup s g.id with
  | some g => f s g
  | none => s

/-- R134: the k-th update on its way arrives. -/
def execBarrierUpdate (k : Nat) (s : State) : Answer1 :=
  match s.copies.updates[k]? with
  | none => .next s
  | some u => .next (updateBar { s with copies := { s.copies with updates := dropNth k s.copies.updates } } u.place u.upd u.core)

/-! ## BINIT, BEXP, BARR, BWAIT -/

/-- What finding a barrier's place gives. -/
inductive Placed where
  | at (pl : BarPlace)
  | trap (t : Trap)
  | park (va level : Nat)
  | wait
  deriving DecidableEq, Repr

/-- The checks of a barrier address (R332, R432), and its place. -/
def placeBar (s : State) (g : Group) (lanes : BitVec 128) (code : Nat) (isGlobal : Bool) (va : Nat) : Placed :=
  if va % 16 ≠ 0 then .trap (alignTrap 16 (BitVec.ofNat 64 va) lanes)
  else if isGlobal then
    match checkObject s (whoOf s g) lanes .object true code 16 16 va with
    | .ok ((_, pa, _) :: _) => .at (.dram pa)
    | .ok [] => .wait
    | .trap t => .trap t
    | .park va lv _ => .park va lv
    | .wait => .wait
  else
    let w := wgOf s g.launch g.wg
    if aWindow w < va + 16 then .trap (permTrap 5 code (BitVec.ofNat 64 va) lanes)
    else .at (.astore (aPlace w va).1 (aPlace w va).2)

/-- Goes on with the place; a global barrier's page is noted. `code` is the access code of the instruction (R432). -/
def withPlace (s : State) (g : Group) (p : Split) (code : Nat) (isGlobal : Bool) (va : Nat) (c : Placed)
    (f : State → BarPlace → State) : State :=
  match c with
  | .at pl =>
    if fenceHolds s g (enabled g p) (if isGlobal then [(va, 16)] else []) then hold s g p
    else f (if isGlobal then noteXlate s (whoOf s g) va else s) pl
  | .trap t => takeTrap s g p t none
  | .park va lv => parkOn s g p 1 .object va lv none (some code)
  | .wait => hold s g p

/-- A barrier instruction of the current split: registers, then the place. -/
def barOp (i : Instr) (y : Bool) (gd : Guard) (n : BitVec 6) (isGlobal : Bool) (code : Nat) (regs : List Nat) (s : State)
    (f : Group → Split → Nat → State → BarPlace → State) : Answer1 :=
  issueQ i {} y gd s fun g p =>
    let x := 2 * n.toNat
    let va := (getS64 g x).toNat
    orTrap s g p (sCheck g p (x :: (x + 1) :: regs))
      (withPlace s g p code isGlobal va (placeBar s g (allOf g p) code isGlobal va) (f g p va))

/-- A barrier-overflow trap (R244). -/
def overflowBar (va : Nat) (lanes : BitVec 128) : Trap := { cause := 0x08, addr := BitVec.ofNat 64 va, lanes := lanes }

/-- R136: the count is checked before anything is written. -/
def execBinit (y : Bool) (gd : Guard) (p : BitVec 6) (sp : Bool) (c : BitVec 6) (s : State) : Answer1 :=
  barOp (.binit y gd p sp c) y gd p sp 3 [c.toNat] s fun g q va s pl =>
    let k := (getS g c.toNat).toNat
    if k = 0 ∨ 65536 ≤ k then takeTrap s g q (overflowBar va (allOf g q)) none
    else atBar s g pl fun s g =>
      putBar (freshPhase (freshPhase (finish s g q y) pl false) pl true) pl
        (({ high := 0, err := 0, init := k, phase := false, arrivals := k, pending := 0 } : Bar).settle) (some g.core)

/-- R136. -/
def execBexp (y : Bool) (gd : Guard) (p : BitVec 6) (sp : Bool) (b : BitVec 5) (s : State) : Answer1 :=
  barOp (.bexp y gd p sp b) y gd p sp 3 [2 * b.toNat, 2 * b.toNat + 1] s fun g q va s pl =>
    let n := (getS64 g (2 * b.toNat)).toNat
    atBar s g pl fun s g =>
      let b := readBar s pl
      if 2 ^ 48 ≤ b.pending + n then takeTrap s g q (overflowBar va (allOf g q)) none
      else moveBar (finish s g q y) pl b (b.update (.expect n)).settle (some g.core)

/-- Scope of a barrier instruction's release (R128). -/
def barScope (s : State) (g : Group) (isGlobal : Bool) : Scope :=
  if isGlobal then .dev else spanScope (wgOf s g.launch g.wg).cores

/-- R128, R136: the arrival is posted, after a release. -/
def execBarr (y : Bool) (gd : Guard) (p : BitVec 6) (sp : Bool) (s : State) : Answer1 :=
  barOp (.barr y gd p sp) y gd p sp 3 [] s fun g q _ s pl =>
    if relHeld s g (enabled g q) (barScope s g sp) then hold s g q
    else postBar (finish (releaseAt s g.core g.id (barScope s g sp)) g q y) pl .arrive (some g.core)

/-- R136, R333. -/
def execBwait (y : Bool) (gd : Guard) (p : BitVec 6) (sp : Bool) (h : Bool) (s : State) : Answer1 :=
  barOp (.bwait y gd p sp h) y gd p sp 0 [] s fun g q va s pl =>
    -- earlier updates of the split arrive first; the split waits meanwhile, so that it misses none
    atBar s g pl fun s g =>
      let b := readBar s pl
      if b.err ≠ 0 then takeTrap s g q (barErrTrap (BitVec.ofNat 64 va) (allOf g q) b.err) none
      else if b.phase ≠ h then finish (barAcquire s g pl h) (acquireWindow g) q y
      else putGroup s (putSplit g { backTo q (.byteBarrier pl (BitVec.ofNat 64 va) h) with ypark := y })

/-! ## Fences (R125 to R127, R355) -/

/-- Issues a fence: it becomes outstanding, and so does a result that Y waits for. -/
def postFence (s : State) (g : Group) (p : Split) (y acq rel : Bool) (sc : Scope) (range : Option (Nat × Nat))
    (q : Option Nat) (isView : Bool) : State :=
  let id := s.ms.cache.nextFence
  let f : FenceRec := { id := id, group := g.id, core := g.core, launch := g.launch, wg := g.wg, split := p.id,
                        lanes := laneBits (enabled g p), acq := acq, rel := rel,
                        scope := sc, range := range, q := q, blocks := [], isView := isView }
  let r : LongResult := { kind := .fence id, pc := startPc p, owner := ownLanes p, lanes := 0,
                          q := q.map fun n => (n, false) }
  let cache := { s.ms.cache with fences := s.ms.cache.fences ++ [f], nextFence := id + 1 }
  finish { s with ms := { s.ms with cache := cache } } (addPend g [r]) p y

/-- Parts of an order. -/
def ordAcq (o : FenceOrd) : Bool := o != .rel
def ordRel (o : FenceOrd) : Bool := o != .acq

/-- R125, R126. -/
def execFence (y : Bool) (q : BitVec 3) (sc : Scope) (o : FenceOrd) (s : State) : Answer1 :=
  issueAt (.fence y q sc o) {} s fun g p =>
    postFence s g p y (ordAcq o) (ordRel o) sc none (if sc = .sys then some q.toNat else none) false

/-- The range of FENCER and VFENCE, in four scalar registers. -/
def fenceRange (g : Group) (x : Nat) : Nat × Nat := ((getS64 g x).toNat, (getS64 g (x + 2)).toNat)

/-- A range that passes 2^64 (R432). -/
def rangeTrap (g : Group) (p : Split) (r : Nat × Nat) : Option Trap :=
  if 2 ^ 64 < r.1 + r.2 then some (permTrap 1 6 (BitVec.ofNat 64 r.1) (allOf g p)) else none

/-- R125, R126: a length of 0 orders nothing. -/
def execFencer (y : Bool) (x : BitVec 7) (sc : Scope) (o : FenceOrd) (s : State) : Answer1 :=
  issueAt (.fencer y x sc o) {} s fun g p =>
    let n := x.toNat
    orTrap s g p ((sCheck g p [n, n + 1, n + 2, n + 3]).or (rangeTrap g p (fenceRange g n)))
      (if (fenceRange g n).2 = 0 then finish s g p y
       else postFence s g p y (ordAcq o) (ordRel o) sc (some (fenceRange g n)) none false)

/-- R215, R412. -/
def execVfence (y : Bool) (n : BitVec 6) (q : BitVec 3) (s : State) : Answer1 :=
  issueAt (.vfence y n q) {} s fun g p =>
    let x := 2 * n.toNat
    orTrap s g p ((sCheck g p [x, x + 1, x + 2, x + 3]).or (rangeTrap g p (fenceRange g x)))
      (postFence s g p y true true .dev (some (fenceRange g x)) (some q.toNat) true)

/-- The lanes of a fence wait for a posted write. -/
def FenceRec.owns (f : FenceRec) (w : PeerWrite) : Bool := w.own.any fun o => o.1 == f.group && f.lanes.getLsbD o.2

/-- A fence's posted writes to a peer are given up: each atom takes effect whole or not at all (R127). Other lanes whose bytes a
write carries are still to be told. -/
def losePeer (s : State) (f : FenceRec) (code peer : Nat) : State :=
  let due := fun w : PeerWrite => w.peer == peer && w.lost.isNone && f.owns w
  let s := { s with free := s.free + freeStep }
  let mem := (s.ms.cache.peerWrites.filter due).foldl (fun m w =>
    if Config.peerAtomTookEffect (s.free + w.pa / 32) then setBytes m w.pa w.bytes else m) s.ms.mem
  let writes := s.ms.cache.peerWrites.map fun w => if due w then { w with lost := some code } else w
  { s with ms := { s.ms with mem := mem, cache := { s.ms.cache with peerWrites := writes } } }

/-- A fence's lanes have been told of their lost writes; a write that nobody waits for any more is gone. -/
def tellLost (f : FenceRec) (ws : List PeerWrite) : List PeerWrite :=
  (ws.map fun w => if w.lost.isSome then { w with own := w.own.filter fun o => !(o.1 == f.group && f.lanes.getLsbD o.2) } else w).filter
    fun w => w.lost.isNone || !w.own.isEmpty

/-- Peers with lost writes of a fence's lanes, the bytes, and the CODE of the loss. -/
def lostPeers (f : FenceRec) (ws : List PeerWrite) : List (Nat × Nat × Nat) :=
  let mine := ws.filter fun w => w.lost.isSome && f.owns w
  (mine.map fun w => w.peer).dedup.map fun n =>
    let at_ := mine.filter fun w => w.peer == n
    (n, (at_.map fun w => w.bytes.length).sum, ((at_.head?).bind (·.lost)).getD 1)

/-- A record for each peer with lost writes of a fence's lanes, in the error ring of its context (R127). -/
def recordLost (s : State) (f : FenceRec) : State :=
  let lost := lostPeers f s.ms.cache.peerWrites
  let s := { s with ms := { s.ms with cache := { s.ms.cache with peerWrites := tellLost f s.ms.cache.peerWrites } } }
  lost.foldl (fun s (n, bytes, code) =>
    let s := colophon s (dieOf f.core) 6 (f.core / 2) code (BitVec.ofNat 64 n)
    match termsOf s f.launch f.wg with
    | some r => postRecord s r.ering (launchOf s f.launch).asid (dieOf f.core) 6 8 code bytes (BitVec.ofNat 64 n) 1 f.core
    | none => s) s

/-- Gives up every peer write of a fence's lanes, with its records (R127). -/
def giveUpPeers (s : State) (f : FenceRec) (code : Nat) : State :=
  let peers := ((s.ms.cache.peerWrites.filter fun w => w.lost.isNone && f.owns w).map fun w => w.peer).dedup
  recordLost (peers.foldl (fun s n => losePeer s f code n) s) f

/-- A fence has ended: its result is known, or it had none. -/
def endFence (s : State) (f : FenceRec) (ok : Bool) : State :=
  let s := { s with ms := { s.ms with cache := { s.ms.cache with fences := s.ms.cache.fences.filter fun x => x.id != f.id } } }
  match findGroup s f.group with
  | none => s
  | some g =>
    let pend := g.pend.flatMap fun r =>
      if r.kind == .fence f.id then
        match f.q with
        | some n => [{ r with kind := .value, q := some (n, ok) }]
        | none => []
      else [r]
    let g := if f.acq && f.range.isNone then acquireWindow g else g
    drainAll (putGroup s { g with pend := pend }) f.group

/-- Pages of 64 KiB of a range. -/
def pagesIn (r : Nat × Nat) : List Nat := (List.range (rangePages r.1 r.2)).map (· + r.1 / 65536)

/-- The controllers keep the attributes of a range's pages (R108, R209). -/
def notePages (s : State) (asid : Nat) (r : Nat × Nat) : State :=
  let note := fun (d : Meta) (page : Nat) => match leafOf s asid (page * 65536) with
    | some (l, e) => noteLeaf s.clock.ps d l e
    | none => d
  { s with ms := { s.ms with dram := (pagesIn r).foldl note s.ms.dram } }

/-- Physical master blocks with an M atom in a range (R215). -/
def fenceBlocks (s : State) (asid : Nat) (r : Nat × Nat) : List Nat :=
  ((pagesIn r).flatMap fun page => match plainPa s asid (page * 65536) with
    | none => []
    | some pa => (List.range 16).filterMap fun k =>
        if meets (page * 65536 + 4096 * k, 4096) r && (masterSince s.ms.dram (pa + 4096 * k)).isSome &&
            (physOf s.plat.walk pa).isDram then some (pa / 4096 + k)
        else none).dedup

/-- After its release, a VFENCE reads the versions and takes the dirty blocks (R215). -/
def fenceTake (s : State) (f : FenceRec) (asid : Nat) (r : Nat × Nat) : State :=
  let s := notePages s asid r
  let bs := fenceBlocks s asid r
  let vs := bs.map fun b => (b, (blockSt s.ms.dram b).version)
  let s := (bs.filter fun b => (blockSt s.ms.dram b).dirty).foldl takeBlock s
  { s with ms := { s.ms with cache := { s.ms.cache with fences := s.ms.cache.fences.map fun x =>
      if x.id == f.id then { x with rel := false, blocks := vs } else x } } }

/-- Every view tag of a block is at or after its version, or POISONED. -/
def fenceReady (s : State) (f : FenceRec) : Bool :=
  f.blocks.all fun (mb, ver) => (viewsOver s mb).all fun (v, b) =>
    let t := tagOf s v b
    nbit t 31 || atOrAfter t ver

/-- Some view tag of the blocks is POISONED. -/
def fencePoisoned (s : State) (f : FenceRec) : Bool :=
  f.blocks.any fun (mb, _) => (viewsOver s mb).any fun (v, b) => nbit (tagOf s v b) 31

/-- Loads of a fence's lanes have returned (R117, R126). -/
def fenceLoads (s : State) (f : FenceRec) : Bool :=
  match findGroup s f.group with
  | none => true
  | some g => !loadsOut g ((List.range 128).filter fun l => f.lanes.getLsbD l)

/-- Address space of a fence. -/
def fenceAsid (s : State) (f : FenceRec) : Nat := (launchOf s f.launch).asid

/-- Lines that a fence's cache actions take: every line, or those that overlap its range (R126). -/
def fenceLines (s : State) (f : FenceRec) : Nat → Bool :=
  match f.range with
  | none => allLines
  | some r => fun line => (offsetIn s (fenceAsid s f) (r.1 / 128 * 128) (r.2 + r.1 % 128) (line * 128)).isSome

/-- A release fence cannot complete yet: a load of its lanes is out (R117), or a peer has to acknowledge what it writes back and no
port is up, where the fence is no FENCE.sys, which gives such writes up (R127). -/
def fenceWaits (s : State) (f : FenceRec) : Bool :=
  f.rel && (!fenceLoads s f || (f.scope != .sys && s.plat.linkUp == 0 && peersDue s.ms f.core f.group [] .dev (fenceLines s f)))

/-- The release of a fence, at device scope at least (R126); the write-combining buffer drains at any fence (R97). -/
def fenceRelease (s : State) (f : FenceRec) : State :=
  if f.rel then
    let s := putMs s (release s.clock.ps f.core f.group .dev (fenceLines s f) s.ms)
    if s.plat.linkUp == 0 then s else { s with ms := performPeers s.ms }
  else putMs s (drainWc s.clock.ps f.core s.ms)

/-- A peer link that retrains keeps a system release waiting; one that is down ends it, the writes being given up (R127). -/
def sysRelease (s : State) (f : FenceRec) : Option (State × Bool) :=
  let mine := s.ms.cache.peerWrites.filter f.owns
  if mine.isEmpty then some (s, true)
  else if mine.all fun w => w.lost.isSome then some (recordLost s f, false)
  else if s.plat.linkRetraining ≠ 0 then none
  else some (giveUpPeers s f 1, false)

/-- R126, R127, R215: the k-th fence performs its actions, and ends unless it still has to wait. -/
def execFenceCompletion (k : Nat) (s : State) : Answer1 :=
  match s.ms.cache.fences[k]? with
  | none => .next s
  | some f =>
    if fenceWaits s f then .next s
    else
      let s := fenceRelease s f
      if f.isView then
        if f.rel then .next (fenceTake s f (fenceAsid s f) (f.range.getD (0, 0)))
        else if fenceReady s f then
          .next (endFence (putMs s (acquire f.core .dev allLines s.ms)) f !fencePoisoned s f)
        else .next s
      else
        match (if f.rel && f.scope == .sys then sysRelease s f else some (s, true)) with
        | none => .next s
        | some (s, ok) =>
          let s := if f.acq then putMs s (acquire f.core f.scope (fenceLines s f) s.ms) else s
          .next (endFence s f ok)

/-! ## BAR, CAD, WAITPH (R241 to R243, R331) -/

/-- Parks a split at a barrier, past its word. -/
def parkAt (s : State) (g : Group) (p : Split) (y : Bool) (w : Wait) : State :=
  putGroup s (putSplit g { advance p y with wait := w })

/-- R128, R242, R331: the release of the arriving lanes, the arrival, and the release of the barrier once all are there. -/
def execBar (y : Bool) (s : State) : Answer1 :=
  issueAt (.bar y) {} s fun g p =>
    let sc := spanScope (wgOf s g.launch g.wg).cores
    if relHeld s g (enabled g p) sc then hold s g p
    else releaseBar (parkAt (releaseAt s g.core g.id sc) g p y .bar) g.launch g.wg

/-- R128, R242, R331. -/
def execCad (y : Bool) (lv : CadLevel) (s : State) : Answer1 :=
  issueAt (.cad y lv) {} s fun g p =>
    if !(launchOf s g.launch).desc.cosched then takeTrap s g p (permTrap 6 7 0 (allOf g p)) none
    else if relHeld s g (enabled g p) (cadScope lv) then hold s g p
    else releaseCad (parkAt (releaseAt s g.core g.id (cadScope lv)) g p y (.cad lv)) lv g

/-- R243, R331: waits while the group's phase counter is below n; Q tells whether it came in time. -/
def execWaitph (y : Bool) (n : BitVec 10) (q : BitVec 3) (s : State) : Answer1 :=
  issueAt (.waitph y n q) {} s fun g p =>
    if g.phase < n.toNat then parkAt s g p y (.phase n.toNat q)
    else finish s (setQ g q.toNat (g.phase == n.toNat)) p y

/-- R243: the counter has reached n; the split is picked before every other of its core. -/
def execWaitphRelease (grp sp : Nat) (s : State) : Answer1 :=
  match findGroup s grp with
  | none => .next s
  | some g =>
    match findSplit g sp with
    | none => .next s
    | some p =>
      match p.wait with
      | .phase n q =>
        if g.phase < n then .next s
        else
          let st := coreSt s g.core
          let st := { st with first := (grp, sp) :: st.first.filter fun x => x != (grp, sp) }
          let s := { s with cores := { s.cores with cs := (mset {} g.core st s.cores.cs) } }
          .next (putGroup s (putSplit (setQ g q.toNat true) (wake p)))
      | _ => .next s

end Sys2Proof.Machine
end

