-- ==== Sys2Proof/Machine/Rings.lean ====
section
/-! DEFINITION. Rings.lean: completion rings: engine records (R204), a producer's write, CPOLL and SLEEP (R152 to
R156, R346, R401, R431). -/

namespace Sys2Proof.Machine

/-- Translations that an engine of a die makes by the die's walkers alone. -/
def whoDie (die asid : Nat) (isSealed : Bool) : Who := ⟨[], die, asid, isSealed⟩

/-- An address of a ring: physical, or translated with the right to write it (R431). -/
def ringAddr (s : State) (r : RingRec) (acc : Acc) (a n : Nat) : Xl :=
  match r.asid with
  | none => if inDram s.plat.walk a n then .ok a {} else .bad 12
  | some asid => if canonical a then xlate s (whoDie r.die asid (asidSealed s asid)) acc true a n else .bad 1

/-- Source byte of an event about a record's producer: half its core's number, or its stack; 0 for the dispatcher (R258, R294). -/
def ringUnit (r : RingRec) : Nat :=
  if 1 ≤ r.source ∧ r.source ≤ 3 then r.unit / 2 else if 4 ≤ r.source ∧ r.source ≤ 7 then r.unit % 256 else 0

/-- The producer cannot write the record: a Colophon event takes its place (R431). -/
def ringLost (s : State) (r : RingRec) : State := colophon s r.die 11 (ringUnit r) 0 (BitVec.ofNat 64 r.header)

/-- Record k leaves the list. -/
def dropRing (s : State) (k : Nat) : State := { s with copies := { s.copies with rings := dropNth k s.copies.rings } }

/-! ## Engine fault records (R204) -/

/-- Where in its stack a virtual address lies, for the bank and column of a record; the address itself where it has no page. -/
def faultSpot (s : State) (asid va : Nat) : Nat := (plainPa s asid va).getD va % Config.stackBytes

/-- An engine fault record to the stack's ring (R204); a ring register of 0 names none (log entry 6). -/
def engineRecord (s : State) (st engine cause job asid va step launch batch : Nat) : State :=
  let ring := (ctlOf s st).engRing
  let spot := faultSpot s asid va
  if ring = 0 then s
  else postRing s ring none (st / 4)
    [BitVec.ofNat 32 (engine + 256 * cause + 65536 * (job % 65536)), 0, BitVec.ofNat 32 va, BitVec.ofNat 32 (va / 2 ^ 32),
     BitVec.ofNat 32 step, BitVec.ofNat 32 (Config.bankOf spot % 64 + 256 * st + 65536 * (Config.columnOf spot % 65536)),
     BitVec.ofNat 32 launch, BitVec.ofNat 32 batch]

/-! ## Callback records (R192, R204, R342) -/

def paddocksOf (s : State) (st : Nat) : List Paddock := mget [] st s.render.paddocks
def putPaddocks (s : State) (st : Nat) (ps : List Paddock) : State :=
  { s with render := { s.render with paddocks := (mset [] st ps s.render.paddocks) } }
def paddockOf (s : State) (st no : Nat) : Option Paddock := (paddocksOf s st).find? fun p => p.no == no
def putPaddock (s : State) (st : Nat) (p : Paddock) : State :=
  putPaddocks s st ((paddocksOf s st).map fun q => if q.no == p.no then p else q)

/-- An entry of the batch table (R183). -/
def noBatch : Batch := { words := List.replicate 12 0, asid := 0, region := 0, launch := 0 }
def batchOf (s : State) (b : Nat) : Batch := (mget? b s.render.batches).getD noBatch

/-- The ray of a callback record: its ray index, batch and stack, and the address space of its batch; SEQ not yet known. -/
def RingRec.calls (s : State) (r : RingRec) (a : WaitingRay) : Bool :=
  a.seq == none && a.header == r.header && a.work.msg.ray == r.words.getD 0 0 && a.stackNo == r.unit &&
    a.work.msg.batch == (r.words.getD 7 0).toNat % 65536 && r.asid == some (batchOf s a.work.msg.batch).asid

/-- The ray whose callback record gets an index waits for an answer with that SEQ (R342). -/
def noteSeq (s : State) (r : RingRec) (seq : Word) : State :=
  if r.job.isSome then
    let got := modifyFirst (r.calls s) (fun a => { a with seq := some seq }) s.render.answering
    { s with render := { s.render with answering := got } }
  else s

/-- A record's ray, which has its SEQ once the record has an index. -/
def rayOfCall (s : State) (r : RingRec) : Option WaitingRay :=
  match r.index with
  | some i => s.render.answering.find? fun a => r.calls s { a with seq := none } && a.seq == some (BitVec.ofNat 32 (i + 1))
  | none => s.render.answering.find? (r.calls s)

/-- A callback record of a paddock's job cannot be written: the job stops (R204). -/
def stopCall (s : State) (r : RingRec) (no va : Nat) : State :=
  let m := (rayOfCall s r).map fun a => a.work.msg
  let s := engineRecord s r.unit 1 1 no (r.asid.getD 0) va (m.elim 0 fun m => m.ray.toNat) (m.elim 0 fun m => m.launch)
    (m.elim 0 fun m => m.batch)
  match paddockOf s r.unit no with
  | some p => putPaddock s r.unit { p with stopped := true }
  | none => s

/-- Changes record k. -/
def onRing (s : State) (k : Nat) (f : RingRec → RingRec) : State :=
  { s with copies := { s.copies with rings := modifyNth f k s.copies.rings } }

/-- Record k cannot be written at an address. A callback record stops its paddock; another gives way to a Colophon event (R204,
R431). -/
def failRing (s : State) (k : Nat) (r : RingRec) (va : Nat) : State :=
  match r.job with
  | some no => onRing (stopCall s r no va) k fun x => { x with stopped := true }
  | none => dropRing (ringLost s r) k

/-- Parks record k on a page's translation fault, and with it the paddock whose job writes it (R203, R204, R431). -/
def parkRing (s : State) (k : Nat) (r : RingRec) (va level : Nat) : State :=
  let asid := r.asid.getD 0
  let page := some (r.die, asid, va)
  let s := onRing (faultRecord s r.die r.source 2 r.unit asid va level) k fun x => { x with parked := page }
  match r.job.bind (paddockOf s r.unit) with
  | some p => putPaddock s r.unit { p with parked := page }
  | none => s

/-- Nothing keeps a record from being written but its ring. -/
def RingRec.free (r : RingRec) : Bool := r.parked.isNone && !r.stopped

/-- Another record goes first: an older one for the same ring that is neither parked nor stopped, and of one Courser every older one
(R18, R152, R195). -/
def ringHeld (s : State) (k : Nat) (r : RingRec) : Bool :=
  (s.copies.rings.take k).any fun x => x.header == r.header && x.asid == r.asid &&
    (x.free || (r.source == 4 && x.source == 4 && x.unit == r.unit))

/-- Record k takes the index WIDX of its ring, which goes up by one; one that has its index keeps it (R152). -/
def takeIndex (s : State) (k : Nat) (r : RingRec) (header : Nat) : State × Nat :=
  match r.index with
  | some i => (s, i)
  | none =>
    let i := leNat (readHome s.ms (header + 16) 8)
    let s := putMs s (engineWrite s.clock.ps .device (header + 16) (leBytes 8 (i + 1)) s.ms)
    let s := noteSeq s r (BitVec.ofNat 32 (i + 1))
    (onRing s k fun x => { x with index := some i }, i)

/-- Writes record k at its place, with the SEQ of its index (R152, R153). -/
def putRecord (s : State) (k : Nat) (r : RingRec) (at_ i : Nat) : State :=
  let bs := wordsBytes (r.words.set 1 (BitVec.ofNat 32 (i + 1)))
  dropRing (putMs s (engineWrite s.clock.ps .device at_ bs s.ms)) k

/-- R152, R431: the k-th record takes an index, and is written once there is room. -/
def execRingRecordWrite (k : Nat) (s : State) : Answer1 :=
  match s.copies.rings[k]? with
  | none => .next s
  | some r =>
    if !r.free || ringHeld s k r then .next s
    else match ringAddr s r .object r.header 64 with
    | .fault lv => .next (parkRing s k r r.header lv)
    | .bad _ => .next (failRing s k r r.header)
    | .ok h _ =>
      let (s, i) := takeIndex s k r h
      let base := leNat (readHome s.ms h 8)
      let log := leNat (readHome s.ms (h + 8) 1)
      if 2 ^ log ≤ i - leNat (readHome s.ms (h + 24) 8) then .next s
      else
        let a := (base + i % 2 ^ log * 32) % 2 ^ 64
        match ringAddr s r .object a 32 with
        | .fault lv => .next (parkRing s k r a lv)
        | .bad _ => .next (failRing s k r a)
        | .ok at_ _ => .next (putRecord s k r at_ i)

/-- R155, R346: takes the next record if it is there. Poison in the header or the record raises no trap (log entry 57). -/
def execCpoll (y : Bool) (gd : Guard) (n : BitVec 6) (b : BitVec 3) (q : BitVec 3) (s : State) : Answer1 :=
  issueQ (.cpoll y gd n b q) {} y gd s fun g p =>
    let x := 2 * n.toNat
    let d := 8 * b.toNat
    let va := (getS64 g x).toNat
    let lanes := allOf g p
    orTrap s g p (sCheck g p (x :: (x + 1) :: (List.range 8).map (d + ·)))
      (withChecked s g p 1 .object (checkObject s (whoOf s g) lanes .object true 5 64 64 va) fun hs =>
        let h := match hs with | (_, pa, _) :: _ => pa | [] => 0
        let log := leNat (readHome s.ms (h + 8) 1)
        if log < 4 ∨ 20 < log then takeTrap s g p (permTrap 6 5 (BitVec.ofNat 64 va) lanes) none
        else
          let ridx := leNat (readHome s.ms (h + 24) 8)
          let a := (leNat (readHome s.ms h 8) + ridx % 2 ^ log * 32) % 2 ^ 64
          withChecked (code := some 5) s g p 1 .read (checkObject s (whoOf s g) lanes .read true 5 32 32 a) fun rs =>
            if fenceHolds s g (enabled g p) [(va, 64), (a, 32)] then hold s g p
            else
              let s := noteAll s (whoOf s g) [va, a]
              let at_ := match rs with | (_, pa, _) :: _ => pa | [] => 0
              let ms := reachHome s.clock.ps (.core g.core) at_ 32 (reachHome s.clock.ps (.core g.core) h 64 s.ms)
              let rec8 := bytesWords (readHome ms at_ 32)
              if (rec8.getD 1 0).toNat = (ridx + 1) % 2 ^ 32 then
                let ms := engineWrite s.clock.ps (.core g.core) (h + 24) (leBytes 8 (ridx + 1)) ms
                let s := putMs s (acquire g.core .dev allLines ms)
                finish s (addLong (acquireWindow g) p (enabled g p) [] (rec8.zipIdx.map fun (w, i) => (d + i, w)) (some (q.toNat, true))) p y
              else finish (putMs s ms) (addLong g p (enabled g p) [] [] (some (q.toNat, false))) p y)

/-- R156, R401. -/
def execSleep (y : Bool) (gd : Guard) (n q : BitVec 6) (s : State) : Answer1 :=
  issueQ (.sleep y gd n q) {} y gd s fun g p =>
    let x := 2 * n.toNat
    let va := (getS64 g x).toNat
    let lanes := allOf g p
    orTrap s g p (sCheck g p [x, x + 1, q.toNat])
      (withChecked (code := some 5) s g p 1 .read (checkObject s (whoOf s g) lanes .read true 5 64 64 va) fun hs =>
        let h := match hs with | (_, pa, _) :: _ => pa | [] => 0
        let s := noteXlate s (whoOf s g) va
        let ms := reachHome s.clock.ps (.core g.core) h 64 s.ms
        let s := putMs s ms
        let widx := leNat (readHome s.ms (h + 16) 8)
        if widx ≠ leNat (readHome s.ms (h + 24) 8) then finish s g p y
        else
          let us := (getS g q.toNat).toNat
          parkAt s g p y (.sleep h (if us = 0 then none else some (s.clock.ps + us * 1_000_000))))

/-- R156: the split's timeout expires. -/
def execSleepTimeout (grp sp : Nat) (s : State) : Answer1 :=
  match findGroup s grp with
  | none => .next s
  | some g =>
    match findSplit g sp with
    | none => .next s
    | some p =>
      match p.wait with
      | .sleep _ (some t) => if s.clock.ps < t then .next s else .next (putGroup s (putSplit g (wake p)))
      | _ => .next s

end Sys2Proof.Machine
end

