-- ==== Sys2Proof/Machine/Copy.lean ====
section
/-! DEFINITION. Copy.lean: the copy engines Dray and Stipple, their channels and write pointers, and decompression (R138 to
R151, R350, R351, R360, R361, R388). -/

namespace Sys2Proof.Machine

/-! ## Reading a source (R129, R144, R212) -/

/-- What an engine's read of a source comes to, with the state it leaves; `wait` names the view blocks it waits for. -/
inductive EngRead where
  | ok (s : State) (bs : List Byte)
  | park (s : State) (va level : Nat)
  | perm (s : State) (va : Nat)
  | poison (s : State) (va : Nat)
  | wait (s : State) (ws : List ViewWait)
  deriving Repr

/-- Translations of a job. -/
def whoJob (j : CopyJob) : Who := whoCore j.core j.asid j.isSealed

/-- What an engine's read meets at its view blocks. -/
structure EngViews where
  st : State
  waits : List ViewWait
  waiting : Bool := false
  poisoned : Bool := false

/-- One view block. A block met before is waited for until its tag is at or after the version it then had, whatever marks it has
received since (R212, R213). -/
def engineView (v : EngViews) (vb : ViewEntry × Nat) : EngViews :=
  match v.waits.find? fun w => w.view == vb.1.idx && w.vblock == vb.2 with
  | some w =>
    if !waitOver v.st w then { v with waiting := true }
    else { v with poisoned := v.poisoned || nbit (tagOf v.st vb.1 vb.2) 31 }
  | none =>
    match viewAns v.st true vb.1 vb.2 with
    | .await mb ver take =>
      { v with st := if take then takeBlock v.st mb else v.st, waits := v.waits ++ [⟨vb.1.idx, vb.2, mb, ver⟩], waiting := true }
    | .faulty _ => { v with poisoned := true }
    | _ => v

/-- View blocks that an engine's read must wait for; a POISONED one is read as poison (R212, log entry 19). `ws`: those that the read
has met before. -/
def engineViews (s : State) (ws : List ViewWait) (pa n : Nat) : EngViews :=
  (viewParts s pa n).foldl engineView { st := s, waits := ws }

/-- Reads n bytes within one line through the team cache. -/
def engRead (s : State) (w : Who) (core cls : Nat) (csrc : Bool) (va n : Nat) (ws : List ViewWait) : EngRead :=
  if !canonical va then .perm s va
  else match xlate s w .read false va n with
  | .bad _ => .perm s va
  | .fault lv => .park s va lv
  | .ok pa a =>
    if csrc && !a.csrc then .perm s va
    else if peerDown s .read pa then (if s.plat.linkRetraining = 0 then .perm s va else .wait s ws)
    else
      let s := noteXlate s w va
      if isVellum pa && !s.tier.palette.contains (folioOf pa) && goesHome s core a pa then .wait (startFill s (folioOf pa)) ws
      else
        let v : EngViews := if goesHome s core a pa then engineViews s ws pa n else { st := s, waits := ws }
        if v.poisoned then .poison v.st (va / 32 * 32)
        else if v.waiting then .wait v.st v.waits
        else
          let s := if isVellum pa then useFolio v.st (folioOf pa) else v.st
          let r := engineReadTeam s.clock.ps core cls a pa n s.ms
          if (teamPoison r.1 core pa n).isEmpty then .ok (putMs s r.1) r.2 else .poison (putMs s r.1) (va / 32 * 32)

/-- Reads several places one after another. -/
def engReads (w : Who) (core cls : Nat) (csrc : Bool) (ws : List ViewWait) : List (Nat × Nat) → State → List Byte → EngRead
  | [], s, got => .ok s got
  | (va, n) :: r, s, got =>
    match engRead s w core cls csrc va n ws with
    | .ok s bs => engReads w core cls csrc ws r s (got ++ bs)
    | x => x

/-- A range cut at line boundaries. -/
def lineCuts (va n : Nat) : List (Nat × Nat) :=
  (linesOf va n).map fun l => (max va (l * 128), min (va + n) (l * 128 + 128) - max va (l * 128))

/-! ## Stopping and delivering (R142, R144, R153) -/

/-- Writes a copy-fault record to the error ring of the job's region (R144). -/
def copyFault (s : State) (j : CopyJob) (status code bytes tag : Nat) : State :=
  match termsOf s j.launch j.wg with
  | some r => postRecord s r.ering j.asid (dieOf j.core) 7 status code bytes (BitVec.ofNat 64 tag)
      (if j.gather then 3 else 2) j.core
  | none => s

/-- Deliveries of a retired workgroup into its typed buffers are discarded (R351). -/
def jobDead (s : State) (j : CopyJob) : Bool := (wgOf s j.launch j.wg).groupsLeft == 0

/-- An update of the job's barrier. None where the barrier lies in a released A-store; and bytes discarded at a released buffer
are counted at no barrier (R351). -/
def jobBar (s : State) (j : CopyJob) (u : BarUpd) : State :=
  let counts : Bool := match u with | .deliver _ => true | _ => false
  match j.bar with
  | none => s
  | some (.astore c o) => if jobDead s j then s else postBar s (.astore c o) u (some j.core)
  | some (.dram a) => if jobDead s j && jobSpace j != 2 && counts then s else postBar s (.dram a) u (some j.core)

/-- A channel stops: ERR, the record, and a record for each queued copy (R144). -/
def stopChan (s : State) (key : Nat) (j : CopyJob) (status code err bytes tag : Nat) : State :=
  let rest := (chanOf s key).jobs.drop 1
  let s := copyFault (jobBar s j (.error err)) j status code bytes tag
  let s := rest.foldl (fun s k => copyFault s k 7 0 0 (dw64 k.words 0)) s
  sweepWgs (putChan s key (cleared (chanOf s key)))

/-- A channel parks on a translation fault (R144). SOURCE 2 is Dray's, 3 Stipple's. -/
def parkChan (s : State) (key : Nat) (j : CopyJob) (code : Nat) (acc : Acc) (va level : Nat) : State :=
  let s := faultRecord s (dieOf j.core) (if j.gather then 3 else 2) acc.bits j.core j.asid va level
  putChan s key { chanOf s key with parked := some (dieOf j.core, j.asid, va), parkCode := code }

/-- What delivering a chunk comes to. -/
inductive Delivery where
  | done (s : State)
  | acked (s : State) (peer : Nat)
  | stop (s : State)
  | wait (s : State)
  deriving Repr

/-- Writes a chunk at an offset of the job's destination (R129, R142). -/
def deliverBytes (s : State) (key : Nat) (j : CopyJob) (off : Nat) (bs : List Byte) : Delivery :=
  let a := jobDst j + off
  let w := wgOf s j.launch j.wg
  match jobSpace j with
  | 0 => .done (if jobDead s j then s else aWrite w a bs s)
  | 1 => .done (if jobDead s j then s else wWrite w j.core a bs s)
  | _ =>
    let va := a % 2 ^ 64
    if !canonical va then .stop (stopChan s key j 6 2 3 j.done va)
    else match xlate s (whoJob j) .write false va bs.length with
    | .bad _ => .stop (stopChan s key j 6 2 3 j.done va)
    | .fault lv => .stop (parkChan s key j 2 .write va lv)
    | .ok pa _ =>
      let s := noteXlate s (whoJob j) va
      let put := fun s : State =>
        putMs s (engineWrite s.clock.ps (.core j.core) pa bs (dropCopies s.clock.ps j.core pa bs.length s.ms))
      match physOf s.plat.walk pa with
      | .peer n =>
        if s.plat.linkUp ≠ 0 then .acked (put s) n
        else if s.plat.linkRetraining ≠ 0 then .wait s
        else .stop (stopChan s key j 6 2 3 j.done va)
      | _ => .done (put s)

/-- The head job has delivered n more bytes: its barrier, its pointer, its end. -/
def advanceJob (s : State) (key : Nat) (j : CopyJob) (n : Nat) : State :=
  let s := if jobSpace j = 2 then (j.bar.elim s fun pl => markPhase s pl) else s
  let s := jobBar s j (.deliver n)
  let j := { j with done := j.done + n, waits := [] }
  let c := chanOf s key
  let c := { c with jobs := j :: c.jobs.drop 1, parked := none }
  if jobTotal j ≤ j.done then sweepWgs (putChan s key (ended c)) else putChan s key (aimed c)

/-- A chunk's delivery with what follows from it; a chunk to a peer waits for the acknowledgement (R144). -/
def deliverChunk (s : State) (key : Nat) (j : CopyJob) (off : Nat) (bs : List Byte) : State :=
  match deliverBytes s key j off bs with
  | .done s => advanceJob s key j bs.length
  | .acked s n => { s with copies := { s.copies with peerChunks := s.copies.peerChunks ++ [(key, bs.length, n)] } }
  | .stop s => s
  | .wait s => s

/-- The outcome of a source read that is not data. Poison in the index array stops the copy as poison in its source does
(log entry 57). -/
def sourceStop (key : Nat) (j : CopyJob) (code : Nat) : EngRead → State
  | .ok s _ => s
  | .park s va lv => parkChan s key j code .read va lv
  | .perm s va => stopChan s key j 6 code 3 j.done va
  | .poison s va => stopChan s key j 9 3 5 j.done va
  | .wait s ws => putChan s key { chanOf s key with jobs := { j with waits := ws } :: (chanOf s key).jobs.drop 1 }

/-- Cache class of a job's region. -/
def jobCls (s : State) (j : CopyJob) : Nat := (termsOf s j.launch j.wg).elim 0 fun r => r.cls

/-- A channel may deliver: not parked, and no chunk of it waits for a peer. -/
def chanReady (s : State) (key : Nat) : Bool :=
  (chanOf s key).parked.isNone && !(s.copies.peerChunks.any fun x => x.1 == key) && !(chanOf s key).jobs.isEmpty

/-- R142: the channel's next chunk. -/
def execDrayChunkDelivery (core ch : Nat) (s : State) : Answer1 :=
  let key := chanKey core ch
  match (chanOf s key).jobs with
  | [] => .next s
  | j :: _ =>
    if j.gather || j.dec || !chanReady s key then .next s
    else
      let spot := jobSpot j
      let n := min spot.2 (128 - (jobDst j + spot.1) % 128)
      let e := drSize j.words
      let places := (List.range (n / e)).map fun i => (drElem j.words (spot.1 / e + i), e)
      match engReads (whoJob j) j.core (jobCls s j) false j.waits places s [] with
      | .ok s bs => .next (deliverChunk s key j spot.1 bs)
      | x => .next (sourceStop key j 1 x)

/-- R144: the peer acknowledges a chunk, which now counts as written. -/
def execPeerChunkAck (k : Nat) (s : State) : Answer1 :=
  match s.copies.peerChunks[k]? with
  | none => .next s
  | some (key, n, peer) =>
    let s := { s with copies := { s.copies with peerChunks := dropNth k s.copies.peerChunks },
                      ms := performPeer s.ms peer }
    match (chanOf s key).jobs with
    | [] => .next s
    | j :: _ => .next (advanceJob s key j n)

/-! ## Stipple (R146, R361) -/

/-- Delivers an element chunk by chunk. -/
def deliverElem (key : Nat) : Nat → List Byte → State → State
  | 0, _, s => s
  | _ + 1, [], s => s
  | k + 1, b :: bs, s =>
    match (chanOf s key).jobs with
    | [] => s
    | j :: _ =>
      let n := 128 - (jobDst j + j.done) % 128
      deliverElem key k ((b :: bs).drop n) (deliverChunk s key j j.done ((b :: bs).take n))

/-- Index j of a gather. -/
def gatherIndex (s : State) (j : CopyJob) (k : Nat) : EngRead :=
  let n := stIdxBytes j.words
  let a := dw64 j.words 2 + k * n
  if stIdxGlobal j.words then engRead s (whoJob j) j.core (jobCls s j) false (a % 2 ^ 64) n j.waits
  else .ok s (if jobDead s j then List.replicate n 0 else aRead s (wgOf s j.launch j.wg) a n)

/-- R146, R361: the channel's next element. -/
def execStippleElementDelivery (core ch : Nat) (s : State) : Answer1 :=
  let key := chanKey core ch
  match (chanOf s key).jobs with
  | [] => .next s
  | j :: _ =>
    if !j.gather || !chanReady s key then .next s
    else
      let e := stSize j.words
      match gatherIndex s j (j.done / e) with
      | .ok s ib =>
        let x := leNat ib
        let bound := dw j.words 7
        if bound ≠ 0 ∧ bound ≤ x then .next (deliverElem key (e / 4 + 2) (List.replicate e 0) s)
        else
          let places := (List.range (e / 4)).map fun i => ((dw64 j.words 0 + x * e + 4 * i) % 2 ^ 64, 4)
          match engReads (whoJob j) j.core (jobCls s j) false j.waits places s [] with
          | .ok s bs => .next (deliverElem key (e / 4 + 2) bs s)
          | y => .next (sourceStop key j 1 y)
      | y => .next (sourceStop key j 2 y)

/-! ## Decompression (R148 to R151) -/

/-- Decodes a ZRUN stream to exactly `left` bytes (R149). -/
def zrun : Nat → Nat → List Byte → Option (List Byte)
  | 0, _, _ => none
  | _ + 1, left, [] => if left = 0 then some [] else none
  | f + 1, left, t :: r =>
    let x := t.toNat
    let run := fun (n : Nat) (out rest : List Byte) =>
      if n ≤ left then (zrun f (left - n) rest).map (out ++ ·) else none
    if left = 0 then none
    else if x < 128 then (if x + 1 ≤ r.length then run (x + 1) (r.take (x + 1)) (r.drop (x + 1)) else none)
    else if x < 192 then run (x - 128 + 1) (List.replicate (x - 128 + 1) 0) r
    else if x = 192 then
      match r with
      | a :: b :: rest => run (leNat [a, b] + 65) (List.replicate (leNat [a, b] + 65) 0) rest
      | _ => none
    else none

/-- Decodes the planes of a PLANE payload (R150). -/
def planes (n : Nat) : Nat → List Byte → Option (List (List Byte))
  | 0, bs => if bs.isEmpty then some [] else none
  | k + 1, bs =>
    if bs.length < 4 then none
    else
      let len := leNat (bs.take 4)
      if bs.length < 4 + len then none
      else match zrun (len + 1) n ((bs.drop 4).take len), planes n k (bs.drop (4 + len)) with
        | some p, some r => some (p :: r)
        | _, _ => none

/-- Puts planes together: byte i of plane b is raw byte i × w + b (R150). -/
def mergePlanes (n : Nat) (ps : List (List Byte)) : List Byte :=
  (List.range n).flatMap fun i => ps.map fun p => p.getD i 0

/-- Fields of a block header (R148). -/
def hdrLen (h : Nat) : Nat := nbits h 32 24
def hdrRaw (h : Nat) : Nat := nbits h 8 24

/-- A header within its limits (R148, R151). -/
def hdrOk (h : Nat) : Bool :=
  nbits h 56 8 == 0 && decide (1 ≤ hdrRaw h) && decide (hdrRaw h ≤ 65536) && decide (nbits h 0 4 ≤ 2) &&
    (if nbits h 0 4 = 2 then decide (nbits h 4 4 ≤ 3) && hdrRaw h % 2 ^ nbits h 4 4 == 0 else nbits h 4 4 == 0)

/-- The raw bytes of a block; none: malformed (R149 to R151). -/
def decodeBlock (h : Nat) (payload : List Byte) : Option (List Byte) :=
  if !hdrOk h then none
  else match nbits h 0 4 with
    | 0 => if hdrLen h = hdrRaw h then some payload else none
    | 1 => zrun (payload.length + 1) (hdrRaw h) payload
    | _ =>
      let w := 2 ^ nbits h 4 4
      (planes (hdrRaw h / w) w payload).map (mergePlanes (hdrRaw h / w))

/-- Delivers the raw bytes of a block, of which the copy has delivered the bytes before `at_`, chunk by chunk. It ends with its copy,
and where a chunk is not delivered. -/
def deliverRaw (key : Nat) : Nat → Nat → List Byte → State → State
  | 0, _, _, s => s
  | k + 1, at_, bs, s =>
    match (chanOf s key).jobs with
    | [] => s
    | j :: _ =>
      if !j.dec || j.done != at_ || !chanReady s key then s
      else
        let rest := bs.drop (j.done - j.decRaw)
        let left := min rest.length (jobTotal j - j.done)
        let n := min left (128 - (jobDst j + j.done) % 128)
        if n = 0 then s else deliverRaw key k (at_ + n) bs (deliverChunk s key j j.done (rest.take n))

/-- A block whose bytes are all delivered gives way to the next. -/
def nextBlock (s : State) (key at_ h : Nat) : State :=
  let c := chanOf s key
  match c.jobs with
  | [] => s
  | j :: r =>
    if j.dec && j.decPos == at_ && decide (j.decRaw + hdrRaw h ≤ j.done) then
      putChan s key { c with jobs := { j with decPos := (roundUp (at_ + 8 + hdrLen h) 8) % 2 ^ 64, decIdx := j.decIdx + 1,
                                              decRaw := j.decRaw + hdrRaw h } :: r }
    else s

/-- R148: the channel decodes its next block whole, then delivers it. -/
def execDecompressBlock (core ch : Nat) (s : State) : Answer1 :=
  let key := chanKey core ch
  match (chanOf s key).jobs with
  | [] => .next s
  | j :: _ =>
    if !j.dec || !chanReady s key then .next s
    else
      let at_ := j.decPos
      match engReads (whoJob j) j.core (jobCls s j) true j.waits (lineCuts at_ 8) s [] with
      | .ok s hb =>
        let h := leNat hb
        let bad := fun s : State => stopChan s key j 9 ((0x100 + j.decIdx) % 65536) 4 j.done at_
        if !hdrOk h then .next (bad s)
        else match engReads (whoJob j) j.core (jobCls s j) true j.waits (lineCuts (at_ + 8) (hdrLen h)) s [] with
          | .ok s pb =>
            match decodeBlock h pb with
            | none => .next (bad s)
            | some raw => .next (nextBlock (deliverRaw key (raw.length + 1) j.done raw s) key at_ h)
          | x => .next (sourceStop key j 1 x)
      | x => .next (sourceStop key j 1 x)

/-! ## DRAY (R138 to R143, R350, R351) -/

/-- Words of a descriptor in scalar registers. -/
def descWords (g : Group) (d n : Nat) : List Word := (List.range n).map fun i => getS g (d + i)

/-- Misaligned fields of a Dray descriptor: its addresses go before its strides, which are none (R139, R244, log entry 51). -/
def drayAlign (ws : List Word) (lanes : BitVec 128) : Option Trap :=
  let e := if nbits (dw ws 4) 0 3 ≤ 4 then drSize ws else 1
  match (fieldAlign [(dw64 ws 0, e), (dw64 ws 2, e), (dw64 ws 6, e)] lanes).or
      (fieldAlign ((List.range 4).map fun k => (drStride ws (k + 1), e)) lanes) with
  | some t => some t
  | none => if dw64 ws 6 % 16 ≠ 0 then some (alignTrap 16 (BitVec.ofNat 64 (dw64 ws 6)) lanes) else none

/-- A field of a Dray descriptor outside its limits (R139, R140, R148). A slice of count 0 whose first index lies past the box reaches
past it too (log entry 57). -/
def drayBad (ws : List Word) (dec : Bool) (first count : Nat) : Bool :=
  let ctl := dw ws 4
  decide (4 < nbits ctl 0 3) || drDims ws == 0 || decide (5 < drDims ws) || drSpace ws == 3 || ctl / 2 ^ 9 != 0 ||
    dw ws 5 != 0 || dw ws 13 != 0 || ((List.range (drDims ws)).any fun k => decide (65535 < dw ws (8 + k))) ||
    (!dec && decide (drLast ws < first + count)) || (dec && drDims ws != 1)

/-- Bytes of the W-store that a workgroup reserves (R90). -/
def wWindow (s : State) (g : Group) : Nat := (launchOf s g.launch).desc.stencils * 8192

/-- A destination past its reservation (R91). -/
def drayBound (s : State) (g : Group) (ws : List Word) : Bool :=
  let bytes := drLast ws * drRow ws
  match drSpace ws with
  | 0 => decide (aWindow (wgOf s g.launch g.wg) < dw64 ws 2 + bytes)
  | 1 => decide (wWindow s g < dw64 ws 2 + bytes)
  | _ => false

/-- What the checks of a DRAY give. -/
inductive DrayCheck where
  | ok (pl : BarPlace)
  | trap (t : Trap)
  | park (va level : Nat) (acc : Acc)
  | wait
  deriving DecidableEq, Repr

/-- The compressed-source attribute of the source page (R148). -/
def drayCsrc (s : State) (g : Group) (ws : List Word) (lanes : BitVec 128) : DrayCheck :=
  let src := dw64 ws 0
  match checkObject s (whoOf s g) lanes .read false 1 1 1 src with
  | .ok xs => if xs.all fun x => x.2.2.csrc then .ok (.dram 0) else .trap (permTrap 6 5 (BitVec.ofNat 64 src) lanes)
  | .trap t => .trap t
  | .park va lv _ => .park va lv .read
  | .wait => .wait

/-- The checks of R350 after the register range, in order; a check that fails goes before a page that is not there (R312). -/
def drayCheck (s : State) (g : Group) (p : Split) (ws : List Word) (dec : Bool) (first count : Nat) : DrayCheck :=
  let lanes := allOf g p
  match drayAlign ws lanes with
  | some t => .trap t
  | none =>
    if drayBad ws dec first count then .trap (permTrap 6 7 0 lanes)
    else if drayBound s g ws then .trap (permTrap 5 2 (BitVec.ofNat 64 (dw64 ws 2)) lanes)
    else match placeBar s g lanes 5 (nbit (dw ws 4) 8) (dw64 ws 6), (if dec then drayCsrc s g ws lanes else .ok (.dram 0)) with
    | .trap t, _ => .trap t
    | _, .trap t => .trap t
    | _, .park va lv acc => .park va lv acc
    | .park va lv, _ => .park va lv .object
    | .at pl, .ok _ => .ok pl
    | _, _ => .wait

/-- A group's slice under the lead group's box (R140). -/
def clip (ws : List Word) (a : DrayArrival) : Nat × Nat := (a.first, min a.count (drLast ws - a.first))

/-- The lead arrival of a collective (R140). -/
def leadOf (c : DrayColl) : Option DrayArrival :=
  c.arrivals.foldl (fun best a => match best with
    | none => some a
    | some (b : DrayArrival) => if a.group < b.group then some a else some b) none

/-- Slices of the groups on one core, in increasing order of first index (R142). -/
def coreSlices (ws : List Word) (c : DrayColl) (core : Nat) : List (Nat × Nat) :=
  (((c.arrivals.filter fun a => a.core == core).map (clip ws)).filter fun x => x.2 != 0).foldr
    (fun x l => (l.filter fun y => decide (y.1 < x.1)) ++ x :: l.filter fun y => !decide (y.1 < x.1)) []

/-- The jobs that a collective starts, with their cores (R142, R148). -/
def drayJobs (s : State) (w : Workgroup) (c : DrayColl) (lead : DrayArrival) (pl : BarPlace) : List CopyJob :=
  let ws := lead.words
  let l := launchOf s w.launch
  let job := fun (core : Nat) (sl : List (Nat × Nat)) =>
    ({ launch := w.launch, wg := w.wg, core := core, asid := l.asid, isSealed := w.isSealed, gather := false, dec := c.dec,
       words := ws, slices := sl, bar := some pl, decPos := dw64 ws 0 } : CopyJob)
  if c.dec then [job lead.core []]
  else (w.cores.filter fun k => !(coreSlices ws c k).isEmpty).map fun k => job k (coreSlices ws c k)

/-- The barrier of an arrival's descriptor, a global one where its own issue has found it. -/
def barAt (w : Workgroup) (a : DrayArrival) : BarPlace :=
  if nbit (dw a.words 4) 8 then .dram a.barPa
  else .astore (aPlace w (dw64 a.words 6)).1 (aPlace w (dw64 a.words 6)).2

/-- The last arrival starts the copy (R141). None: PENDING overflows, and the collective stays as it is. ARRIVALS that are 0 already,
by too many `BARR`s meanwhile, stay 0, and no ERR is set (log entry 57). -/
def startDray (s : State) (w : Workgroup) (c : DrayColl) : Option State :=
  match leadOf c with
  | none => some s
  | some lead =>
    let pl := barAt w lead
    let jobs := drayJobs s w c lead pl
    let total := (jobs.map jobTotal).sum
    let s := if c.post then flushBar s pl (some lead.core) else s
    let b := readBar s pl
    if c.post && decide (2 ^ 48 ≤ b.pending + total) then none
    else
      let s := putWg s { wgOf s w.launch w.wg with dray := (wgOf s w.launch w.wg).dray.erase c }
      let s := if c.post then
          moveBar s pl b ({ b with pending := b.pending + total, arrivals := b.arrivals - 1 } : Bar).settle (some lead.core)
        else s
      some ((jobs.filter fun j => jobTotal j != 0).foldl (fun s j => enqueue s (chanKey j.core c.channel) j) s)

/-- Every group of a workgroup that has not retired has arrived at a collective. -/
def allArrived (s : State) (w : Workgroup) (c : DrayColl) : Bool :=
  (s.sched.groups.filter fun g => g.launch == w.launch && g.wg == w.wg).all fun g =>
    c.arrivals.any fun a => a.group == g.index

/-- A channel with no free place (R143). -/
def chanFull (s : State) (core ch : Nat) : Bool := decide (4 ≤ (chanOf s (chanKey core ch)).jobs.length)

/-- An arrival of a group at its next collective (R141): the collective, and whether it is its first. POST and DEC are the first
arrival's (log entry 57). -/
def joinDray (w : Workgroup) (a : DrayArrival) (ch : Nat) (post dec : Bool) : DrayColl × Bool :=
  match w.dray.find? fun c => !(c.arrivals.any fun x => x.group == a.group) with
  | some c => ({ c with arrivals := c.arrivals ++ [a] }, false)
  | none => ({ channel := ch, post := post, dec := dec, hold := post, arrivals := [a] }, true)

/-- A partial-gang copy trap (R244). -/
def gangTrap (g : Group) (p : Split) (mismatch : Bool) : Trap :=
  { cause := 0x06, lanes := allOf g p, info := BitVec.ofNat 64 (b2n mismatch) }

/-- The collective whose start has trapped in the group, where TRAPRET executes its DRAY again: the last one, where it has gone past
an earlier one (R141). -/
def retriedColl (w : Workgroup) (g : Group) (p : Split) : Option DrayColl :=
  if p.redo.isSome then (w.dray.filter fun c => c.trapped == some g.index).getLast? else none

/-- The start that the group's DRAY makes, as last arrival or again. An overflow traps in the group, which the collective records. -/
def makeStart (s : State) (g : Group) (p : Split) (y : Bool) (c : DrayColl) (va : Nat) : State :=
  let w := wgOf s g.launch g.wg
  match startDray s w c with
  | some s => finish s ((findGroup s g.id).getD g) p y
  | none =>
    let s := putWg s { w with dray := w.dray.map fun x => if x == c then { c with trapped := some g.index } else x }
    takeTrap s g p (overflowBar va (allOf g p)) (some (allOf g p))

/-- The group's own arrival (R141). A last arrival that finds a full channel, and a start made again that does, are held
(R143). -/
def arriveDray (s : State) (g : Group) (p : Split) (y : Bool) (a : DrayArrival) (ch : Nat) (post dec : Bool)
    (pl : BarPlace) : State :=
  let w := wgOf s g.launch g.wg
  let full := fun c : DrayColl => w.cores.any fun k => chanFull s k c.channel
  let va := dw64 a.words 6
  match retriedColl w g p with
  | some c => if full c then hold s g p else makeStart s g p y c va
  | none =>
    let r := joinDray w a ch post dec
    let hold1 := r.2 && post
    let b := readBar s pl
    if hold1 && b.arrivals == 65535 then takeTrap s g p (overflowBar va (allOf g p)) none
    else if allArrived s w r.1 && full r.1 then hold s g p
    else
      let s := if hold1 then putBar s pl ({ b with arrivals := b.arrivals + 1 } : Bar).settle (some g.core) else s
      let dray := match w.dray.find? fun c => !(c.arrivals.any fun x => x.group == a.group) with
        | some c => w.dray.map fun x => if x == c then r.1 else x
        | none => w.dray ++ [r.1]
      let s := putWg s { wgOf s g.launch g.wg with dray := dray }
      let g := (findGroup s g.id).getD g
      if allArrived s w r.1 then makeStart s g p y r.1 va else finish s g p y

/-- R138 to R143, R350, R351. -/
def execDray (y : Bool) (d : BitVec 9) (e : BitVec 5) (c : BitVec 2) (post dec : Bool) (s : State) : Answer1 :=
  issueAt (.dray y d e c post dec) {} s fun g p =>
    let ws := descWords g d.toNat 22
    let first := (getS g e.toNat).toNat
    let count := (getS g (e.toNat + 1)).toNat
    let w := wgOf s g.launch g.wg
    let mine := (retriedColl w g p).or (w.dray.find? fun x => !(x.arrivals.any fun a => a.group == g.index))
    orTrap s g p ((sCheck g p ((List.range 22).map (d.toNat + ·) ++ [e.toNat, e.toNat + 1])).or
        (if !fullGang g p then some (gangTrap g p false)
         else if mine.any fun x => x.channel != c.toNat then some (gangTrap g p true) else none))
      (match drayCheck s g p ws dec first count with
       | .trap t => takeTrap s g p t none
       | .park va lv acc => parkOn s g p 1 acc va lv
       | .wait => hold s g p
       | .ok pl =>
         if fenceHolds s g (enabled g p) [] || loadsOut g (enabled g p) then hold s g p
         else atBar s g pl fun s g =>
           let pa := match pl with | .dram pa => pa | .astore _ _ => 0
           arriveDray (releaseAt s g.core g.id .team) g p y ⟨g.index, g.core, ws, first, if dec then 0 else count, pa⟩ c.toNat post
             dec pl)

/-! ## GATH (R145, R146, R360) -/

/-- Misaligned fields of a Stipple descriptor. -/
def gathAlign (ws : List Word) (lanes : BitVec 128) : Option Trap :=
  fieldAlign [(dw64 ws 0, 4), (dw ws 4, 4), (dw64 ws 2, stIdxBytes ws), (dw64 ws 8, 16)] lanes

/-- The permission checks of GATH before its barrier's (R360). -/
def gathPerm (s : State) (g : Group) (ws : List Word) (lanes : BitVec 128) : Option Trap :=
  let e := stSize ws
  let n := dw ws 6
  let win := aWindow (wgOf s g.launch g.wg)
  if dw ws 5 / 2 ^ 12 ≠ 0 ∨ e < 4 ∨ 256 < e ∨ e % 4 ≠ 0 ∨ n = 0 ∨ 2 ^ 24 < n then some (permTrap 6 7 0 lanes)
  else if win < dw ws 4 + n * e then some (permTrap 5 2 (BitVec.ofNat 64 (dw ws 4)) lanes)
  else if !stIdxGlobal ws && decide (win < dw64 ws 2 + n * stIdxBytes ws) then
    some (permTrap 5 1 (BitVec.ofNat 64 (dw64 ws 2)) lanes)
  else none

/-- R145, R146, R360, R361. -/
def execGath (y : Bool) (gd : Guard) (d : BitVec 9) (c : Bool) (post : Bool) (s : State) : Answer1 :=
  issueQ (.gath y gd d c post) {} y gd s fun g p =>
    let ws := descWords g d.toNat 10
    let lanes := allOf g p
    let ch := 4 + b2n c
    let va := dw64 ws 8
    orTrap s g p ((sCheck g p ((List.range 10).map (d.toNat + ·))).or ((gathAlign ws lanes).or (gathPerm s g ws lanes)))
      (withPlace s g p 5 (nbit (dw ws 5) 11) va (placeBar s g lanes 5 (nbit (dw ws 5) 11) va) fun s pl =>
        let total := dw ws 6 * stSize ws
        if loadsOut g (enabled g p) || chanFull s g.core ch then hold s g p
        else atBar s g pl fun s g =>
         if post && decide (2 ^ 48 ≤ (readBar s pl).pending + total) then takeTrap s g p (overflowBar va lanes) none
         else
          let s := releaseAt s g.core g.id .team
          let l := launchOf s g.launch
          let j : CopyJob := { launch := g.launch, wg := g.wg, core := g.core, asid := l.asid,
                               isSealed := (wgOf s g.launch g.wg).isSealed, gather := true, dec := false, words := ws,
                               slices := [], bar := some pl }
          let s := enqueue (finish s g p y) (chanKey g.core ch) j
          if post then updateBar s pl (.expect total) (some g.core) else s)

/-! ## RDPTR (R147, R388) -/

/-- R147, R388. -/
def execRdptr (y : Bool) (gd : Guard) (d : BitVec 6) (c : BitVec 3) (s : State) : Answer1 :=
  issueQ (.rdptr y gd d c) {} y gd s fun g p =>
    let x := 2 * d.toNat
    orTrap s g p (sCheck g p [x, x + 1])
      (let wp := (chanOf s (chanKey g.core c.toNat)).wp
       -- of a typed destination it acquires what lies below ADDR
       let below := fun r : Nat × Nat => fld wp 60 3 == 0 && decide (r.1 + r.2 ≤ (fld wp 0 57).toNat)
       finish s (setS64 (acquireWindow g below) x wp) p y)

end Sys2Proof.Machine
end

