-- ==== Sys2Proof/Machine/Rays.lean ====
section
/-! DEFINITION. Rays.lean: the exact intersection tests (R182, R418), structures and nodes (R178 to R181), the pending list
and the records of a ray (R187, R188, R192, R194). -/

namespace Sys2Proof.Machine

/-! ## Exact numbers of a test -/

/-- A finite FP32 number in units of 2^-149. -/
def units32 (w : Word) : Option Int :=
  match ofF32 w with
  | .fin d => some ((if d.neg then -1 else 1) * (d.m * 2 ^ (d.e + 149).toNat : Nat))
  | _ => none

/-- A real number as a fraction with a positive denominator, or an infinity. -/
inductive Ext where
  | low
  | frac (n : Int) (d : Nat)
  | high
  deriving DecidableEq, Repr

/-- An FP32 number that is not NaN. -/
def ext32 (w : Word) : Option Ext :=
  match ofF32 w with
  | .nan => none
  | .inf neg => some (if neg then .low else .high)
  | .fin _ => (units32 w).map fun n => .frac n (2 ^ 149)

def Ext.le : Ext → Ext → Bool
  | .low, _ => true
  | _, .high => true
  | .frac a b, .frac c d => decide (a * d ≤ c * b)
  | _, _ => false

def Ext.max (a b : Ext) : Ext := if a.le b then b else a
def Ext.min (a b : Ext) : Ext := if a.le b then a else b

/-- A quotient of integers; the divisor is not 0. -/
def Ext.quot (n d : Int) : Ext := if d < 0 then .frac (-n) d.natAbs else .frac n d.natAbs

/-- Rounds to a format under a mode (R73). -/
def Ext.round (f : Fmt) (m : RMode) : Ext → Nat
  | .low => (roundX f (.mode m) false (.inf true)).1
  | .high => (roundX f (.mode m) false (.inf false)).1
  | .frac n d => if n = 0 then 0 else (roundQ f (.mode m) false (decide (n < 0)) ⟨n.natAbs, d, 0⟩).1

/-- A quotient rounded once, RNE, to FP32. -/
def Ext.to32 (x : Ext) : Word := BitVec.ofNat 32 (x.round .f32 .rne)

/-- Every word is a finite FP32 number. -/
def allFinite (ws : List Word) : Bool := ws.all fun w => (units32 w).isSome

/-- Finite numbers of words. -/
def unitsOf (ws : List Word) : List Int := ws.map fun w => (units32 w).getD 0

/-! ## Tests (R182, R418) -/

/-- Lower and upper end of the slab interval of one axis: origin, direction, minimum, maximum; none: empty. -/
def slabAxis (o d : Int) (lo hi : Ext) : Option (Ext × Ext) :=
  let o1 : Ext := .frac o (2 ^ 149)
  if d = 0 then (if lo.le o1 && o1.le hi then some (.low, .high) else none)
  else
    let at_ := fun (x : Ext) => match x with
      | .frac n k => Ext.quot (n * 2 ^ 149 - o * k) (d * k)
      | .low => if d < 0 then .high else .low
      | .high => if d < 0 then .low else .high
    let a := at_ lo
    let b := at_ hi
    some (if d < 0 then (b, a) else (a, b))

/-- What a box test gives: not hit, hit at an entry distance,. -/
inductive BoxHit where
  | miss
  | hit (entry : Ext)
  deriving DecidableEq, Repr

/-- Distance an open test gives. -/
def openEntry (w : Word) : Ext := (ext32 w).getD (.frac 0 1)

/-- A box of six words against a ray (R182). -/
def boxTest (geom : List Word) (tmin tmax : Word) (box : List Word) : BoxHit :=
  match box.mapM ext32 with
  | none => .miss
  | some bs =>
    if !allFinite geom then
      let r := Config.openTest (geom ++ tmin :: tmax :: box)
      if r.1 then .hit (openEntry r.2.1) else .miss
    else
      let g := unitsOf geom
      let start : Option (Ext × Ext) := some ((ext32 tmin).getD .low, (ext32 tmax).getD .high)
      let r := (List.range 3).foldl (fun (acc : Option (Ext × Ext)) k =>
        match acc, slabAxis (g.getD k 0) (g.getD (3 + k) 0) (bs.getD k .low) (bs.getD (3 + k) .low) with
        | some (lo, hi), some (a, b) => if a.le b && (lo.max a).le (hi.min b) then some (lo.max a, hi.min b) else none
        | _, _ => none) start
      match r with
      | some (lo, _) => .hit lo
      | none => .miss

def cross (a b : Int × Int × Int) : Int × Int × Int :=
  (a.2.1 * b.2.2 - a.2.2 * b.2.1, a.2.2 * b.1 - a.1 * b.2.2, a.1 * b.2.1 - a.2.1 * b.1)
def dot (a b : Int × Int × Int) : Int := a.1 * b.1 + a.2.1 * b.2.1 + a.2.2 * b.2.2
def minus (a b : Int × Int × Int) : Int × Int × Int := (a.1 - b.1, a.2.1 - b.2.1, a.2.2 - b.2.2)
def vec (xs : List Int) (k : Nat) : Int × Int × Int := (xs.getD k 0, xs.getD (k + 1) 0, xs.getD (k + 2) 0)

/-- A candidate: t, u, v rounded once, and whether it is a back face. -/
structure Cand where
  t : Word
  u : Word
  v : Word
  back : Bool
  deriving DecidableEq, Repr

/-- t lies in the ray's interval. -/
def inInterval (t : Ext) (tmin tmax : Word) : Bool :=
  ((ext32 tmin).any fun a => a.le t) && (ext32 tmax).any fun b => t.le b

/-- A triangle of nine words against a ray (R182, R418). -/
def triTest (geom : List Word) (tmin tmax : Word) (cullb : Bool) (tri : List Word) : Option Cand :=
  if !allFinite (geom ++ tri) then
    let r := Config.openTest (geom ++ tmin :: tmax :: tri)
    if r.1 && !(cullb && r.2.2.2.2) && inInterval (openEntry r.2.1) tmin tmax then some ⟨r.2.1, r.2.2.1, r.2.2.2.1, r.2.2.2.2⟩
    else none
  else
    let g := unitsOf geom
    let t := unitsOf tri
    let o := vec g 0
    let d := vec g 3
    let v0 := vec t 0
    let e1 := minus (vec t 3) v0
    let e2 := minus (vec t 6) v0
    let p := cross d e2
    let det := dot e1 p
    if det = 0 ∨ (cullb ∧ det < 0) then none
    else
      let sgn1 : Int := if det < 0 then -1 else 1
      let s0 := minus o v0
      let un := dot s0 p * sgn1
      let q := cross s0 e1
      let vn := dot d q * sgn1
      let tt := Ext.quot (dot e2 q) det
      if un < 0 ∨ vn < 0 ∨ (det.natAbs : Int) < un + vn then none
      else if !inInterval tt tmin tmax then none
      else some ⟨tt.to32, (Ext.quot un det.natAbs).to32, (Ext.quot vn det.natAbs).to32, decide (det < 0)⟩

/-- A candidate replaces the best hit: a t below, or an equal t with the lower (instance, primitive) (R182). -/
def replaces (t best : Word) (inst prim bestInst bestPrim : Word) : Bool :=
  match ext32 t, ext32 best with
  | some a, some b =>
    if !b.le a then true
    else a.le b && (inst.ult bestInst || (inst == bestInst && prim.ult bestPrim))
  | _, _ => false

/-- A sum of products of FP32 numbers, rounded once (R189). -/
def sumOfProducts (xs : List (Word × Word)) : Word :=
  if allFinite (xs.flatMap fun x => [x.1, x.2]) then
    (round32 (sumX (xs.map fun x => (ofF32 x.1).mul (ofF32 x.2)))).1
  else Config.openSum (xs.flatMap fun x => [x.1, x.2])

/-- One in FP32. -/
def one32 : Word := 0x3F80_0000#32

/-- The ray in an instance's space: origin and direction through a 3 × 4 transform (R189). -/
def transformRay (geom m : List Word) : List Word :=
  let w := fun k => geom.getD k 0
  let row := fun r c => m.getD (4 * r + c) 0
  ((List.range 3).map fun r => sumOfProducts [(row r 0, w 0), (row r 1, w 1), (row r 2, w 2), (row r 3, one32)]) ++
    (List.range 3).map fun r => sumOfProducts [(row r 0, w 3), (row r 1, w 4), (row r 2, w 5)]

/-! ## Structures (R178, R179) -/

/-- Fields of a structure descriptor. -/
def descBase (d : List Byte) (bank : Nat) : Nat := fieldAt d (8 * bank) 8
def descRoot (d : List Byte) (bank : Nat) : Nat := fieldAt d (16 + 4 * bank) 4 % 65536
def descGen (d : List Byte) : Nat := fieldAt d 24 2
def descInflight (d : List Byte) (bank : Nat) : Nat := fieldAt d (28 + 4 * bank) 4

/-- A must-be-zero field is not (R184). -/
def descBad (d : List Byte) : Bool :=
  fieldAt d 18 2 != 0 || fieldAt d 22 2 != 0 || fieldAt d 26 1 / 2 != 0 || fieldAt d 27 1 != 0 || fieldAt d 36 4 != 0 ||
    fieldAt d 56 8 != 0

/-- Address of a treelet (R179). -/
def treeletVa (base tid : Nat) : Nat := (base + tid * 65536) % 2 ^ 64

/-- A child of a node (R180). -/
structure Child where
  kind : Nat
  run : Nat
  box : List Word
  ref : Nat
  deriving DecidableEq, Repr

/-- The children in use. -/
def childrenOf (bs : List Byte) : List Child :=
  (List.range (min 4 (fieldAt bs 0 1))).map fun c =>
    { kind := nbits (fieldAt bs 2 2) (4 * c) 4, run := nbits (fieldAt bs 4 4) (8 * c) 8 + 1,
      box := bytesWords ((bs.drop (16 + 28 * c)).take 24), ref := fieldAt bs (40 + 28 * c) 4 }

/-- Bytes of a leaf record. -/
def recordBytes : Nat → Nat
  | 2 => 48 | 3 => 32 | _ => 64

/-- A reference that breaks R179 or R181, from a node of treelet tid. -/
def childBad (tid : Nat) (c : Child) : Bool :=
  let off := c.ref % 65536
  let other := c.ref / 65536 != tid
  if c.kind = 0 then false
  else if 4 < c.kind ∨ 4096 ≤ off then true
  else if c.kind = 1 then (off * 16 % 128 != 0) || (other && off != 0)
  else other || (c.kind == 4 && off * 16 % 64 != 0) ||
    ((c.kind == 2 || c.kind == 3) && decide (65536 < off * 16 + c.run * recordBytes c.kind))

/-- A malformed node (R181). -/
def nodeBad (tid : Nat) (bs : List Byte) : Bool :=
  let k := fieldAt bs 0 1
  k == 0 || decide (4 < k) || (childrenOf bs).any (childBad tid)

/-- The hit children of a node, nearest entry first, the lowest slot first among equals (R182). -/
def hitChildren (geom : List Word) (tmin tmax : Word) (cs : List Child) : List (Child × Ext) :=
  let hits := cs.filterMap fun c =>
    if c.kind = 0 then none else match boxTest geom tmin tmax c.box with | .hit e => some (c, e) | .miss => none
  hits.foldl (fun (acc : List (Child × Ext)) x =>
    (acc.takeWhile fun y => y.2.le x.2) ++ x :: acc.dropWhile fun y => y.2.le x.2) []

/-! ## The pending list (R187, R188) -/

/-- Puts an entry behind every one that is not farther; past 44 the farthest goes, and the ray is incomplete. -/
def pushPend (m : RayMsg) (tid dist : Nat) : RayMsg :=
  let ext16 := fun c => match decodeNum .f16 c with
    | .fin d => (Ext.frac ((if d.neg then -1 else 1) * (d.m * 2 ^ (d.e + 24).toNat : Nat)) (2 ^ 24))
    | .inf n => if n then Ext.low else Ext.high
    | .nan => Ext.low
  let near := fun y : Nat × Nat => (ext16 y.2).le (ext16 dist)
  let all := (m.pend.takeWhile near) ++ (tid, dist) :: m.pend.dropWhile near
  if 44 < all.length then { m with pend := all.take 44, incomplete := true } else { m with pend := all }

/-- An entry's distance is not past the ray's tmax. -/
def pendNear (m : RayMsg) (dist : Nat) : Bool :=
  match decodeNum .f16 dist, ofF32 m.tmax with
  | a, b => !b.lt a

/-- A pending entry as its word. -/
def pendWord (x : Nat × Nat) : Word := BitVec.ofNat 32 (x.1 * 65536 + x.2 % 65536)

/-- The 64 bytes of a message (R187). -/
def rayBytes (m : RayMsg) : List Byte :=
  let flags := b2n m.first + 2 * b2n m.cullb + 4 * b2n m.opq + 8 * m.bank + 16 * b2n m.back + 32 * b2n m.proc +
    64 * b2n m.incomplete + 128 * b2n m.terminated
  let four := (m.pend.take 4).map pendWord
  wordsBytes (m.geom ++ [m.tmin, m.tmax, m.ray, BitVec.ofNat 32 (m.batch + flags * 65536), m.bestPrim, m.bestInst] ++ four ++
    List.replicate (4 - four.length) 0xFFFF_FFFF#32)

/-! ## Batches (R183) -/

def Batch.hits (b : Batch) : Nat := dw64 b.words 2
def Batch.cbq (b : Batch) : Nat := dw64 b.words 6
def Batch.spill (b : Batch) : Nat := dw64 b.words 8
def Batch.depth (b : Batch) : Nat := nbits (dw b.words 10) 16 8 + 1
def Batch.mask (b : Batch) : Nat := nbits (dw b.words 10) 24 8

/-- Spill slot of a ray (R188). -/
def spillSlot (b : Batch) (ray : Word) : Nat := (b.spill + 256 * ray.toNat) % 2 ^ 64

/-- The hit record of a finished ray (R194). -/
def hitRecord (m : RayMsg) (aborted : Bool) : List Byte :=
  let hit := !aborted && m.bestPrim != 0xFFFF_FFFF#32
  let flags := b2n hit + 2 * b2n (hit && m.back) + 4 * b2n (hit && m.proc) + 8 * b2n m.incomplete + 16 * b2n aborted +
    32 * b2n m.terminated
  wordsBytes [if hit then m.tmax else 0x7F80_0000#32, if hit then m.bestPrim else 0xFFFF_FFFF#32,
    if hit then m.bestInst else 0xFFFF_FFFF#32, if hit then m.bestU else 0, if hit then m.bestV else 0,
    BitVec.ofNat 32 flags, m.ray, BitVec.ofNat 32 (m.batch + m.gen * 65536)]

/-- A ray that is finished at once as a miss (R185). -/
def emptyRay (m : RayMsg) : Bool :=
  match ext32 m.tmin, ext32 m.tmax with
  | some a, some b => !a.le b
  | _, _ => true

end Sys2Proof.Machine
end

