-- ==== Sys2Proof/Machine/Courser.lean ====
section
/-! DEFINITION. Courser.lean: engines of a stack, their faults (R203, R204), traversal (R189), paddocks and rounds (R190,
R191), hits and callbacks (R192 to R195), generations (R196, R197), RAYSEND, CBACK and ASPUB (R183 to R185, R326, R342, R387).
A Courser keeps the nodes it reads in its node cache (R186, R196, log entry 20). -/

namespace Sys2Proof.Machine

/-! ## An engine's reads and writes (R16, R186, R203, R204) -/

/-- What an engine's access comes to, with the state that its reads have left: ECC, recalled lines, translations (R269). `wait`
names the view blocks that the access waits for. -/
inductive Eng (α : Type) where
  | ok (s : State) (x : α)
  | park (s : State) (acc : Acc) (va level : Nat)
  | stop (s : State) (va cause : Nat)
  | wait (s : State) (ws : List ViewWait)

def Eng.bind {α β : Type} (e : Eng α) (f : State → α → Eng β) : Eng β :=
  match e with
  | .ok s x => f s x
  | .park s a va lv => .park s a va lv
  | .stop s va c => .stop s va c
  | .wait s ws => .wait s ws

/-- Translations of a stack's engine in an address space. -/
def whoEng (s : State) (st asid : Nat) : Who := whoStack st asid (asidSealed s asid)

/-- Reads n bytes in an address space past every home cache; `ws`: the view blocks that the read has met before (R212). -/
def engineLoad (s : State) (st asid : Nat) (dram : Bool) (va n : Nat) (ws : List ViewWait) : Eng (List Byte) :=
  let w := whoEng s st asid
  if !canonical va then .stop s va 1
  else match xlate s w .read dram va n with
  | .bad _ => .stop (noteWalk s w va) va 1
  | .fault lv => .park s .read va lv
  | .ok pa _ =>
    let s := noteXlate s w va
    if isVellum pa && !s.tier.palette.contains (folioOf pa) then .wait (startFill s (folioOf pa)) ws
    else
      let v := engineViews s ws pa n
      if v.poisoned then .stop v.st va 2
      else if v.waiting then .wait v.st v.waits
      else
        let s := if isVellum pa then useFolio v.st (folioOf pa) else v.st
        let r := engineRead s.clock.ps pa n s.ms
        let s := putMs s r.1
        if (poisonedAtoms s.ms.dram pa n).isEmpty then .ok s r.2 else .stop s va 2

/-- Writes bytes in an address space, in device DRAM. -/
def engineStore (s : State) (st asid va : Nat) (bs : List Byte) : Eng Unit :=
  let w := whoEng s st asid
  if !canonical va then .stop s va 1
  else match xlate s w .write true va bs.length with
  | .bad _ => .stop (noteWalk s w va) va 1
  | .fault lv => .park s .write va lv
  | .ok pa _ =>
    let s := noteXlate s w va
    .ok (putMs s (engineWrite s.clock.ps .device pa bs s.ms)) ()

/-- Physical place of an object that an op unit updates; `told` is the access a fault record gives (R258). -/
def engineObject (s : State) (st asid : Nat) (told : Acc) (va n : Nat) : Eng Nat :=
  let w := whoEng s st asid
  if !canonical va then .stop s va 1
  else match xlate s w .object true va n with
  | .bad _ => .stop (noteWalk s w va) va 1
  | .fault lv => .park s told va lv
  | .ok pa _ => .ok (noteXlate s w va) pa

/-! ## Node caches (R16, R186, R196) -/

/-- Lines of 128 bytes that a Courser's node cache of 4 MiB holds. -/
def nodeLines : Nat := 32768

/-- A Courser keeps a node that it has read; past its capacity the one read longest ago goes (log entry 20). -/
def keepNode (s : State) (st asid va : Nat) (bs : List Byte) : State :=
  let all := ⟨st, asid, va, bs⟩ :: s.render.nodes
  let mine := all.filter fun l => l.stack == st
  let kept := if mine.length ≤ nodeLines then all
    else (all.filter fun l => l.stack != st) ++ mine.take nodeLines
  { s with render := { s.render with nodes := kept } }

/-- Some line of the caches is no copy any more. -/
def dropNodes (s : State) (gone : NodeLine → Bool) : State :=
  { s with render := { s.render with nodes := s.render.nodes.filter fun l => !gone l } }

/-- A node as a Courser gets it: from its cache, where the page may still be read, or else past the home caches. -/
def nodeLoad (s : State) (st asid va : Nat) (ws : List ViewWait) : Eng (List Byte) :=
  let held := s.render.nodes.find? fun l => l.stack == st && l.asid == asid && l.va == va
  match held, xlate s (whoEng s st asid) .read true va 128 with
  | some l, .ok _ _ => .ok (noteXlate s (whoEng s st asid) va) l.bytes
  | _, .ok pa _ =>
    let plain := (viewParts s pa 128).isEmpty
    (engineLoad s st asid true va 128 ws).bind fun s bs => .ok (if plain then keepNode s st asid va bs else s) bs
  | _, _ => engineLoad s st asid true va 128 ws

/-- A `RAYSEND` of a core sees what has been released before it: a node that has changed at its home is read again (R186). -/
def freshNodes (s : State) : State :=
  dropNodes s fun l => (plainPa s l.asid l.va).all fun pa => readHome s.ms pa 128 != l.bytes

/-! ## Chains in State -/

def chainAt (s : State) (st : Nat) : WaitChain := mget {} st s.render.waiting
def putChain (s : State) (st : Nat) (c : WaitChain) : State :=
  { s with render := { s.render with waiting := (mset {} st c s.render.waiting) } }

/-- Job number of the waiting chain, and of no job (R204). -/
def chainJob : Nat := 0xFFFE
def noJob : Nat := 0xFFFF

/-- A job of a Courser stops with its record (R204). -/
def stopJob (s : State) (st job cause va : Nat) (m : RayMsg) : State :=
  let s := engineRecord s st 1 cause job (batchOf s m.batch).asid va m.ray.toNat m.launch m.batch
  if job = chainJob then putChain s st { chainAt s st with stopped := true }
  else match paddockOf s st job with
    | some p => putPaddock s st { p with stopped := true }
    | none => s

/-- A job of a Courser parks on a page (R203). -/
def parkJob (s : State) (st job asid : Nat) (acc : Acc) (va level : Nat) : State :=
  let s := faultRecord s (st / 4) 4 acc.bits st asid va level
  let page := some (st / 4, asid, va)
  if job = chainJob then putChain s st { chainAt s st with parked := page }
  else match paddockOf s st job with
    | some p => putPaddock s st { p with parked := page }
    | none => s

/-- Stops or parks a job for what its access met. -/
def haltJob {α : Type} (st job : Nat) (m : RayMsg) (e : Eng α) : State :=
  match e with
  | .ok s _ => s
  | .wait s _ => s
  | .park s acc va lv => parkJob s st job (batchOf s m.batch).asid acc va lv
  | .stop s va c => stopJob s st job c va m

/-- Changes the state that an access leaves. -/
def Eng.over {α : Type} (f : State → State) : Eng α → Eng α
  | .ok s x => .ok (f s) x
  | .park s a va lv => .park (f s) a va lv
  | .stop s va c => .stop (f s) va c
  | .wait s ws => .wait (f s) ws

/-- View blocks that an access waits for. -/
def Eng.waits {α : Type} : Eng α → List ViewWait
  | .wait _ ws => ws
  | _ => []

/-! ## Finishing a ray (R194) -/

/-- The barrier's subtraction of a ray that its Courser has finished, and then those of INFLIGHT. -/
def settleRay (s : State) (st : Nat) (w : RayWork) : State :=
  let s := postBar s (.dram w.msg.bar) (.deliver 32)
  let subs := (w.exc.map fun e => (e.desc, e.bank)).toList ++ [(w.msg.desc, w.msg.bank)]
  { s with render := { s.render with subs := s.render.subs ++ subs.map fun x => ⟨x.1, x.2, st, some w.msg.bar⟩ } }

/-- The hit record, then the subtractions. -/
def finishRay (s : State) (st : Nat) (w : RayWork) (aborted : Bool) : Eng Unit :=
  let b := batchOf s w.msg.batch
  let va := (b.hits + 32 * w.msg.ray.toNat) % 2 ^ 64
  match engineStore s st b.asid va (hitRecord w.msg aborted) with
  | .ok s _ => .ok (settleRay s st w) ()
  | e => if aborted then .ok (settleRay s st w) () else e

/-- A ray finishes by an abort. -/
def abortRay (s : State) (st : Nat) (w : RayWork) : State :=
  match finishRay s st w true with
  | .ok s _ => s
  | _ => s

/-! ## Traversal (R182, R188, R189) -/

/-- What one step of a ray's traversal comes to. -/
inductive Visit where
  | more (s : State) (w : RayWork)
  | finish (s : State) (w : RayWork)
  | forward (s : State) (w : RayWork) (tid dist : Nat)
  | call (s : State) (w : RayWork) (c : Cand) (prim inst : Word) (isProc : Bool)
  | halt (w : RayWork) (e : Eng Unit)

/-- An access of a step; if it does not succeed the ray stands as it did before the step. -/
def onEng {α : Type} (w : RayWork) (e : Eng α) (f : State → α → Visit) : Visit :=
  match e with
  | .ok s x => f s x
  | .park s a va lv => .halt w (.park s a va lv)
  | .stop s va c => .halt w (.stop s va c)
  | .wait s ws => .halt w (.wait s ws)

/-- The ray's geometry and stack where it is, and the id of its structure's treelet at an address. -/
def RayWork.here (w : RayWork) : List Word × List RayRef × Nat :=
  match w.exc with
  | some e => (e.geom, e.stack, e.base)
  | none => (w.msg.geom, w.stack, w.msg.base)

def RayWork.setStack (w : RayWork) (st : List RayRef) : RayWork :=
  match w.exc with
  | some e => { w with exc := some { e with stack := st } }
  | none => { w with stack := st }

/-- Instance id of candidates (R189). -/
def RayWork.instOf (w : RayWork) : Word := w.exc.elim 0xFFFF_FFFF#32 fun e => e.inst

/-- Bytes 80 to 95 of a spill slot: the number of spilled entries, and zeros (R188). -/
def countBytes (n : Nat) : List Byte := leBytes 2 n ++ List.replicate 14 0

/-- Writes the spilled part of a pending list that has changed (R188). -/
def storePend (s : State) (st : Nat) (old new : RayMsg) : Eng Unit :=
  let b := batchOf s new.batch
  if old.pend.drop 4 = new.pend.drop 4 then .ok s ()
  else
    let rest := new.pend.drop 4
    engineStore s st b.asid ((spillSlot b new.ray + 80) % 2 ^ 64) (countBytes rest.length ++ wordsBytes (rest.map pendWord))

/-- A candidate becomes the best hit, its u and v written to the spill slot (R187, R188). -/
def takeHit (s : State) (st : Nat) (m : RayMsg) (c : Cand) (prim inst : Word) (isProc : Bool) : Eng RayMsg :=
  let b := batchOf s m.batch
  (engineStore s st b.asid ((spillSlot b m.ray + 72) % 2 ^ 64)
      (wordsBytes [c.u, c.v] ++ countBytes (m.pend.drop 4).length)).bind fun s _ =>
    .ok s { m with tmax := c.t, bestPrim := prim, bestInst := inst, bestU := c.u, bestV := c.v, back := c.back, proc := isProc }

/-- Kind of a child's reference. -/
def refKind : Nat → RefKind
  | 1 => .node | 2 => .tris | 3 => .procs | _ => .inst

/-- A node: its hit children in the treelet go on the stack, the others on the pending list. -/
def visitNode (s : State) (st asid : Nat) (w : RayWork) (addr : Nat) (rest : List RayRef) : Visit :=
  let (geom, _, base) := w.here
  onEng w (nodeLoad s st asid addr w.waits) fun s bs =>
    let tid := (addr + 2 ^ 64 - base) % 2 ^ 64 / 65536
    if nodeBad tid bs then .halt w (.stop s addr 3)
    else
      let hits := hitChildren geom w.msg.tmin w.msg.tmax (childrenOf bs)
      let local1 := hits.filter fun x => w.exc.isSome || x.1.ref / 65536 == tid
      let far := if w.exc.isSome then [] else hits.filter fun x => x.1.ref / 65536 != tid
      let refs := local1.map fun x =>
        (⟨refKind x.1.kind, (treeletVa base (x.1.ref / 65536) + x.1.ref % 65536 * 16) % 2 ^ 64, x.1.run⟩ : RayRef)
      let stack := refs ++ rest
      if 64 < stack.length then .halt w (.stop s addr 4)
      else
        let m := far.foldl (fun m x => pushPend m (x.1.ref / 65536) (x.2.round .f16 .rd)) w.msg
        onEng w (storePend s st w.msg m) fun s _ => .more s ({ w with msg := m }.setStack stack)

/-- One record of a run has been seen: the rest of the run stays. -/
def nextRecord (r : RayRef) (size : Nat) (rest : List RayRef) : List RayRef :=
  if r.left ≤ 1 then rest else { r with addr := (r.addr + size) % 2 ^ 64, left := r.left - 1 } :: rest

/-- A triangle: accepted, called back or passed over. -/
def visitTri (s : State) (st asid : Nat) (w : RayWork) (r : RayRef) (rest : List RayRef) : Visit :=
  onEng w (engineLoad s st asid true r.addr 48 w.waits) fun s bs =>
    if fieldAt bs 40 4 / 2 ≠ 0 ∨ fieldAt bs 44 4 ≠ 0 then .halt w (.stop s r.addr 3)
    else
      let next := w.setStack (nextRecord r 48 rest)
      let prim := BitVec.ofNat 32 (fieldAt bs 36 4)
      match triTest w.here.1 w.msg.tmin w.msg.tmax w.msg.cullb (bytesWords (bs.take 36)) with
      | none => .more s next
      | some c =>
        if nbit (fieldAt bs 40 4) 0 || w.msg.opq then
          if replaces c.t w.msg.tmax w.instOf prim w.msg.bestInst w.msg.bestPrim then
            onEng w (takeHit s st w.msg c prim w.instOf false) fun s m =>
              if m.first then .finish s { next with msg := m } else .more s { next with msg := m }
          else .more s next
        else .call s next c prim w.instOf false

/-- A procedural record. -/
def visitProc (s : State) (st asid : Nat) (w : RayWork) (r : RayRef) (rest : List RayRef) : Visit :=
  onEng w (engineLoad s st asid true r.addr 32 w.waits) fun s bs =>
    if fieldAt bs 28 4 ≠ 0 then .halt w (.stop s r.addr 3)
    else
      let next := w.setStack (nextRecord r 32 rest)
      match boxTest w.here.1 w.msg.tmin w.msg.tmax (bytesWords (bs.take 24)) with
      | .miss => .more s next
      | .hit e => .call s next ⟨e.to32, 0, 0, false⟩ (BitVec.ofNat 32 (fieldAt bs 24 4)) w.instOf true

/-- An instance record: an excursion begins (R189). -/
def visitInst (s : State) (st asid : Nat) (w : RayWork) (r : RayRef) (rest : List RayRef) : Visit :=
  if w.exc.isSome then .halt w (.stop s r.addr 3)
  else
    onEng w (engineLoad s st asid true r.addr 64 w.waits) fun s bs =>
      if fieldAt bs 61 3 ≠ 0 then .halt w (.stop s r.addr 3)
      else if fieldAt bs 60 1 &&& (batchOf s w.msg.batch).mask = 0 then .more s { w with stack := rest }
      else
        let dva := fieldAt bs 48 8
        if dva % 64 ≠ 0 then .halt w (.stop s r.addr 3)
        else
          onEng w (engineLoad s st asid true dva 64 w.waits) fun s d =>
            if descBad d then .halt w (.stop s dva 3)
            else
              onEng w (engineObject s st asid .object dva 64) fun s pa =>
                let bank := descGen d % 2
                let n := (descInflight d bank + 1) % 2 ^ 32
                let s := putMs s (engineWrite s.clock.ps .device (pa + 28 + 4 * bank) (leBytes 4 n) s.ms)
                let e : Excursion :=
                  { inst := BitVec.ofNat 32 (fieldAt bs 56 4), desc := pa, base := descBase d bank, bank := bank,
                    geom := transformRay w.msg.geom (bytesWords (bs.take 48)),
                    stack := [⟨.node, treeletVa (descBase d bank) (descRoot d bank), 1⟩] }
                .more s { w with stack := rest, exc := some e }

/-- One step of a ray. -/
def visitOne (s : State) (st : Nat) (w : RayWork) : Visit :=
  let asid := (batchOf s w.msg.batch).asid
  match w.here.2.1 with
  | r :: rest =>
    match r.kind with
    | .node => visitNode s st asid w r.addr rest
    | .tris => visitTri s st asid w r rest
    | .procs => visitProc s st asid w r rest
    | .inst => visitInst s st asid w r rest
  | [] =>
    match w.exc with
    | some e =>
      .more { s with render := { s.render with subs := s.render.subs ++ [⟨e.desc, e.bank, st, none⟩] } } { w with exc := none }
    | none =>
      match w.msg.pend.filter fun x => pendNear w.msg x.2 with
      | [] => .finish s w
      | (tid, dist) :: more =>
        let m := { w.msg with pend := more }
        onEng w (storePend s st w.msg m) fun s _ => .forward s { w with msg := m } tid dist

/-- Steps of a ray until something leaves the Courser; a ray that is still at work stays in its paddock. -/
def traverse (st : Nat) : Nat → State → RayWork → Visit
  | 0, s, w => .halt w (.wait s [])
  | k + 1, s, w =>
    match visitOne s st w with
    | .more s w => traverse st k s { w with waits := [] }
    | v => v

/-- Steps of a ray in one round. -/
def roundSteps : Nat := 65536

/-! ## Placing messages (R190, R227) -/

/-- A message as it lies in a chain: its 64 bytes, the next slot, and the number of spilled entries (R188). Best u and v are written
by the hit that becomes best (R187). -/
def storeLink (s : State) (st : Nat) (w : RayWork) (next : Nat) : Eng Unit :=
  let b := batchOf s w.msg.batch
  let slot := spillSlot b w.msg.ray
  (engineStore s st b.asid slot (rayBytes w.msg ++ leBytes 8 next)).bind fun s _ =>
    engineStore s st b.asid ((slot + 80) % 2 ^ 64) (countBytes (w.msg.pend.drop 4).length)

/-- Writes a chain's slots, each with the address of the next. -/
def storeChain (st : Nat) : List RayWork → State → Eng Unit
  | [], s => .ok s ()
  | w :: r, s =>
    let next := match r with | x :: _ => spillSlot (batchOf s x.msg.batch) x.msg.ray | [] => 0
    (storeLink s st w next).bind fun s _ => storeChain st r s

/-- The slots that an appended message changes: its own and that of the old tail. -/
def chainTail (ws : List RayWork) : List RayWork := ws.drop (ws.length - 2)

/-- A message joins a paddock: its FIFO, or its spill chain. -/
def joinPaddock (s : State) (st no : Nat) (w : RayWork) : State :=
  match paddockOf s st no with
  | none => s
  | some p =>
    if p.spill.isEmpty && decide (p.fifo.length < (batchOf s w.msg.batch).depth) then
      putPaddock s st { p with fifo := p.fifo ++ [w] }
    else
      let s := putPaddock s st { p with spill := p.spill ++ [w] }
      haltJob st no w.msg (storeChain st (chainTail (p.spill ++ [w])) s)

/-- The message joins the waiting chain. -/
def joinChain (s : State) (st va : Nat) (w : RayWork) : State :=
  let c := chainAt s st
  let rays := c.rays ++ [(va, w)]
  let s := putChain s st { c with rays := rays }
  haltJob st chainJob w.msg (storeChain st (chainTail (rays.map (·.2))) s)

/-- Paddocks of a Courser that a region holds. -/
def holdsPaddocks (s : State) (st region : Nat) : Nat := ((paddocksOf s st).filter fun p => p.region == region).length

/-- A paddock is free for a batch's message (R190, R227). -/
def roomFor (s : State) (st : Nat) (b : Batch) : Bool :=
  decide ((paddocksOf s st).length < 64) && decide (holdsPaddocks s st b.region < b.paddocks)

/-- The lowest paddock number that is free. -/
def freeNo (ps : List Paddock) : Nat := ((List.range 64).find? fun n => !(ps.any fun p => p.no == n)).getD 0

/-- Assigns a free paddock to a treelet. -/
def assignPaddock (s : State) (st va : Nat) (w : RayWork) : State × Nat :=
  let ps := paddocksOf s st
  let b := batchOf s w.msg.batch
  let no := freeNo ps
  (putPaddocks s st (ps ++ [{ no := no, treelet := va, tid := w.tid, asid := b.asid, region := b.region }]), no)

/-- A message arrives at a Courser (R190). -/
def placeRay (s : State) (st : Nat) (w : RayWork) : State :=
  let b := batchOf s w.msg.batch
  let va := treeletVa w.msg.base w.tid
  match (paddocksOf s st).find? fun p => p.treelet == va && p.asid == b.asid with
  | some p => joinPaddock s st p.no w
  | none =>
    if roomFor s st b then
      let r := assignPaddock s st va w
      joinPaddock r.1 st r.2 w
    else joinChain s st va w

/-- Empty paddocks are freed, once their callback records are written, and free ones go to the first waiting messages whose
regions may hold one more (R190). -/
def freePaddocks (st : Nat) : Nat → State → State
  | 0, s => s
  | k + 1, s =>
    let calls := fun p : Paddock => s.copies.rings.any fun r => r.unit == st && r.job == some p.no
    let s := putPaddocks s st ((paddocksOf s st).filter fun p =>
      !(p.fifo.isEmpty && p.spill.isEmpty && !p.stopped && p.parked.isNone && !calls p))
    let c := chainAt s st
    if c.stopped || c.parked.isSome then s
    else match c.rays.find? fun x => roomFor s st (batchOf s x.2.msg.batch) with
    | none => s
    | some (va, w) =>
      let asid := (batchOf s w.msg.batch).asid
      let goes := fun x : Nat × RayWork => x.1 == va && (batchOf s x.2.msg.batch).asid == asid
      let r := assignPaddock s st va w
      let rest := c.rays.filter fun x => !goes x
      let s := putChain r.1 st { c with rays := rest }
      let s := haltJob st chainJob w.msg (storeChain st (rest.map (·.2)) s)
      freePaddocks st k ((c.rays.filter goes).foldl (fun s x => joinPaddock s st r.2 x.2) s)

/-- Frees and assigns all that can be. -/
def settlePaddocks (s : State) (st : Nat) : State := freePaddocks st 65 s

/-! ## Routes (R17, R204) -/

/-- The stack of a treelet, by its address in the batch's address space; of a page under forwarding, that of its destination
(R278, log entry 57). -/
def routeOf (s : State) (w : Who) (m : RayMsg) (tid : Nat) : Eng Nat :=
  let va := treeletVa m.base tid
  if !canonical va then .stop s va 1
  else match xlate s w .read true va 64 with
  | .bad _ => .stop (noteWalk s w va) va 1
  | .fault lv => .park s .read va lv
  | .ok pa _ => .ok (noteXlate s w va) (stackOf (forwarded s.ms.dram pa))

/-- A route fails: the ray finishes as a miss, with a record that names no job (R204). -/
def failRoute (s : State) (st va : Nat) (w : RayWork) : State :=
  engineRecord (abortRay s st w) st 1 1 noJob (batchOf s w.msg.batch).asid va w.msg.ray.toNat w.msg.launch w.msg.batch

/-- A fresh traversal of a treelet. -/
def atTreelet (m : RayMsg) (tid : Nat) : RayWork :=
  { msg := m, tid := tid, stack := [⟨.node, treeletVa m.base tid, 1⟩] }

/-! ## Callbacks (R192) -/

/-- The words of a callback record. -/
def callWords (st : Nat) (m : RayMsg) (c : Cand) (prim inst : Word) (isProc : Bool) : List Word :=
  [m.ray, 0, c.t, prim, inst, c.u, c.v, BitVec.ofNat 32 (m.batch + 65536 * (if isProc then 2 else 1) + 2 ^ 24 * st)]

/-- The callback ring can be reached (R204, R431). -/
def reachRing (s : State) (st asid header : Nat) : Eng Unit :=
  (engineObject s st asid .write header 64).bind fun s h =>
    let s := deviceRead s h 64
    let base := leNat (readHome s.ms h 8)
    let log := leNat (readHome s.ms (h + 8) 1)
    let widx := leNat (readHome s.ms (h + 16) 8)
    (engineObject s st asid .write ((base + widx % 2 ^ log * 32) % 2 ^ 64) 32).bind fun s _ => .ok s ()

/-- The ray of paddock `no` posts its callback record and waits (R192). -/
def callBack (s : State) (st no : Nat) (w : RayWork) (c : Cand) (prim inst : Word) (isProc : Bool) : Eng Unit :=
  let b := batchOf s w.msg.batch
  (reachRing s st b.asid b.cbq).bind fun s _ =>
    let call : RingRec := { header := b.cbq, asid := some b.asid, die := st / 4, words := callWords st w.msg c prim inst isProc,
                            source := 4, unit := st, job := some no }
    let s := { s with copies := { s.copies with rings := s.copies.rings ++ [call] } }
    let wait : WaitingRay :=
      { stackNo := st, work := w, header := b.cbq, seq := none, t := c.t, u := c.u, v := c.v, prim := prim, inst := inst,
        back := c.back, isProc := isProc }
    .ok { s with render := { s.render with answering := s.render.answering ++ [wait] } } ()

/-! ## Rounds (R191, R195) -/

/-- What a round does with one message: the state, and whether the round goes on. -/
def runRay (s : State) (st no : Nat) (w : RayWork) : State × Bool :=
  -- the message has left the FIFO; a halted job has it back at the head
  let back := fun (s : State) (w : RayWork) => match paddockOf s st no with
    | some p => putPaddock s st { p with fifo := w :: p.fifo }
    | none => s
  let stay := fun (w : RayWork) (e : Eng Unit) =>
    (haltJob st no w.msg (e.over fun s => back s { w with waits := e.waits }), false)
  if s.render.dying.contains w.msg.launch then (abortRay s st w, true)
  else match traverse st roundSteps s w with
  | .more s w => (back s w, false)
  | .halt w e => stay w e
  | .finish s w =>
    match finishRay s st w false with
    | .ok s _ => (s, true)
    | e => stay w e
  | .forward s w tid dist =>
    match routeOf s (whoEng s st (batchOf s w.msg.batch).asid) w.msg tid with
    | .ok s st' =>
      let f : Flight := { work := atTreelet w.msg tid, stack := some st', core := 0, courser := some st }
      ({ s with render := { s.render with flying := s.render.flying ++ [f] } }, true)
    | .stop s va _ => (failRoute s st va w, true)
    | e => stay { w with msg := { w.msg with pend := (tid, dist) :: w.msg.pend } } (e.bind fun s _ => .ok s ())
  | .call s w' c prim inst isProc =>
    match callBack s st no w' c prim inst isProc with
    | .ok s _ => (s, true)
    | e => stay w e

/-- The messages of a round, in order. -/
def roundRays (st no : Nat) : List RayWork → State → State
  | [], s => s
  | w :: r, s =>
    let x := runRay s st no w
    if x.2 then roundRays st no r x.1
    else match paddockOf x.1 st no with
      | some p => putPaddock x.1 st { p with fifo := p.fifo ++ r }
      | none => x.1

/-- Messages of a paddock. -/
def Paddock.count (p : Paddock) : Nat := p.fifo.length + p.spill.length

/-- A paddock that a round may serve. -/
def Paddock.ready (p : Paddock) : Bool := !p.fifo.isEmpty && !p.stopped && p.parked.isNone

/-- The first of two paddocks under R191. -/
def firstOf (a b : Paddock) : Paddock :=
  if 8 ≤ a.unserved ∨ 8 ≤ b.unserved then
    (if a.unserved < b.unserved then b else if b.unserved < a.unserved then a else if b.tid < a.tid then b else a)
  else if a.count < b.count then b
  else if b.count < a.count then a
  else if b.tid < a.tid then b else a

/-- The paddock a round serves. -/
def selectPaddock (ps : List Paddock) : Option Paddock :=
  (ps.filter Paddock.ready).foldl (fun acc p => match acc with | none => some p | some a => some (firstOf a p)) none

/-- Messages move from the spill chain into the FIFO (R191). -/
def refillFifo (s : State) : Nat → Paddock → Paddock
  | 0, p => p
  | k + 1, p =>
    match p.spill with
    | w :: r => if p.fifo.length < (batchOf s w.msg.batch).depth then
        refillFifo s k { p with fifo := p.fifo ++ [w], spill := r } else p
    | [] => p

/-- Rays of launches that have ended finish as by an abort (R250). -/
def abortDying (s : State) (st : Nat) : State :=
  let dead := fun w : RayWork => s.render.dying.contains w.msg.launch
  let ps := paddocksOf s st
  let c := chainAt s st
  let gone := (ps.flatMap fun p => p.fifo ++ p.spill) ++ c.rays.map (·.2) ++
    (s.render.answering.filter fun a => a.stackNo == st).map fun a => a.work
  let s := putPaddocks s st (ps.map fun p => { p with fifo := p.fifo.filter fun w => !dead w, spill := p.spill.filter fun w => !dead w })
  let s := putChain s st { chainAt s st with rays := c.rays.filter fun x => !dead x.2 }
  let s := { s with render := { s.render with answering := s.render.answering.filter fun a => !(a.stackNo == st && dead a.work) } }
  (gone.filter dead).foldl (fun s w => abortRay s st w) s

/-- R191: one round of a Courser. -/
def execCourserRound (st : Nat) (s : State) : Answer1 :=
  let s := abortDying s st
  match selectPaddock (paddocksOf s st) with
  | none => .next (settlePaddocks s st)
  | some p =>
    let ps := (paddocksOf s st).map fun q =>
      if q.no = p.no then { q with fifo := [], unserved := 0 }
      else if q.count = 0 then q else { q with unserved := q.unserved + 1 }
    let s := roundRays st p.no p.fifo (putPaddocks s st ps)
    let s := match paddockOf s st p.no with
      | some q => putPaddock s st (refillFifo s (q.spill.length + 1) q)
      | none => s
    .next (settlePaddocks s st)

/-- Whom a RAYSEND's message translates for. -/
def flightWho (s : State) (f : Flight) : Who :=
  let asid := (batchOf s f.work.msg.batch).asid
  whoCore f.core asid (asidSealed s asid)

/-- Stack that a message goes to: the one its sender has found, or finds now. -/
def flightTo (s : State) (f : Flight) : Option Nat :=
  f.stack.or (match routeOf s (flightWho s f) f.work.msg f.work.tid with | .ok _ st => some st | _ => none)

/-- An earlier message of the same sender to the same Courser arrives first; one that its sender holds on a fault has not been sent
(R18, R191, R204). -/
def flightHeld (s : State) (k : Nat) (f : Flight) : Bool :=
  (s.render.flying.take k).any fun x => x.parked.isNone && x.courser == f.courser && (f.courser.isSome || x.core == f.core) &&
    flightTo s x == flightTo s f

/-- The same of answers; those of one split are applied in the order of issue (R18, R342). -/
def answerHeld (s : State) (k : Nat) (a : Answer) : Bool :=
  (s.render.answers.take k).any fun x => x.stack == a.stack && ((x.parked.isNone && x.core == a.core) || x.split == a.split)

/-- R190, R204: the k-th message on its way is routed by its sender, if it still has to be, and arrives. A ray with an empty
interval finishes at once (R185). -/
def execRayMessageArrival (k : Nat) (s : State) : Answer1 :=
  match s.render.flying[k]? with
  | none => .next s
  | some f =>
    if f.parked.isSome || flightHeld s k f then .next s
    else
      let gone := fun s : State => { s with render := { s.render with flying := dropNth k s.render.flying } }
      let w := f.work
      let home := stackOf w.msg.desc
      match f.stack with
      | some st =>
        if s.render.dying.contains w.msg.launch then .next (abortRay (gone s) st w)
        else .next (settlePaddocks (placeRay (gone s) st w) st)
      | none =>
        if s.render.dying.contains w.msg.launch then .next (abortRay (gone s) home w)
        else if emptyRay w.msg then
          match finishRay s home w false with
          | .ok s _ => .next (gone s)
          | .stop s va _ => .next (failRoute (gone s) home va w)
          | .park s acc va lv =>
            let asid := (batchOf s w.msg.batch).asid
            let s := faultRecord s (home / 4) 4 acc.bits home asid va lv
            .next { s with render := { s.render with flying := modifyNth (fun x : Flight =>
              { x with parked := some (home / 4, asid, va) }) k s.render.flying } }
          | .wait s _ => .next s
        else
          let asid := (batchOf s w.msg.batch).asid
          match routeOf s (flightWho s f) w.msg w.tid with
          | .ok s st => .next (settlePaddocks (placeRay (gone s) st w) st)
          | .stop s va _ => .next (failRoute (gone s) home va w)
          | .park s acc va lv =>
            let s := faultRecord s (dieOf f.core) 1 acc.bits f.core asid va lv
            .next { s with render := { s.render with flying := modifyNth (fun x : Flight =>
              { x with parked := some (dieOf f.core, asid, va) }) k s.render.flying } }
          | .wait s _ => .next s

/-! ## RAYSEND (R183 to R185, R387) -/

/-- First misaligned field of a batch descriptor. -/
def rayAlign (ws : List Word) (lanes : BitVec 128) : Option Trap :=
  fieldAlign [(dw64 ws 0, 64), (dw64 ws 4, 16), (dw64 ws 2, 32), (dw64 ws 8, 256)] lanes

/-- The messages of the lanes (R185). -/
def rayMsgs (g : Group) (ls : List Nat) (a : BitVec 6) (o c f : Bool) (ws : List Word) (d : List Byte) (desc bar : Nat) :
    List RayMsg :=
  let bank := descGen d % 2
  ls.map fun l =>
    let x := fun k => getV g l (eff g (a.toNat + k))
    { geom := (List.range 6).map x, tmin := x 6, tmax := x 7, ray := ws.getD 11 0 + BitVec.ofNat 32 l,
      batch := dw ws 10 % 65536, first := f, cullb := c, opq := o, bank := bank, back := false, proc := false,
      incomplete := false, terminated := false, bestPrim := 0xFFFF_FFFF#32, bestInst := 0xFFFF_FFFF#32, gen := descGen d,
      base := descBase d bank, desc := desc, bar := bar, launch := g.launch }

/-- R183 to R185, R387. -/
def execRaysend (y : Bool) (gd : Guard) (a : BitVec 6) (sr : BitVec 9) (o c f : Bool) (s : State) : Answer1 :=
  issueAt (.raysend y gd a sr o c f) {} s fun g p =>
    let ls := active g p gd
    match ls with
    | [] => finish s g p y
    | _ =>
      let n := sr.toNat
      let lanes := laneBits ls
      let ws := descWords g n 12
      let l := launchOf s g.launch
      let b := dw ws 10 % 65536
      let sva := dw64 ws 0
      let bva := dw64 ws 4
      orTrap s g p ((vRange g ls (span a 8)).or ((sRange g lanes ((List.range 12).map (n + ·))).or (rayAlign ws lanes)))
        (match checkObject s (whoOf s g) lanes .object true 5 64 64 sva, checkObject s (whoOf s g) lanes .object true 5 16 16 bva with
         | .trap t, _ => takeTrap s g p t none
         | _, .trap t => takeTrap s g p t none
         | xs, ys =>
           if b < l.desc.batchBase ∨ l.desc.batchBase + l.desc.batchCount ≤ b then takeTrap s g p (permTrap 6 7 0 lanes) none
           else withChecked s g p 1 .object xs fun xs => withChecked s g p 1 .object ys fun ys =>
             let desc := match xs with | (_, pa, _) :: _ => pa | [] => 0
             let bar := match ys with | (_, pa, _) :: _ => pa | [] => 0
             if fenceHolds s g ls [(sva, 64), (bva, 16)] then hold s g p
             else
               let s := noteAll s (whoOf s g) [sva, bva]
               let s := putMs s (reachHome s.clock.ps (.core g.core) desc 64 s.ms)
               let d := readHome s.ms desc 64
               if descBad d then takeTrap s g p (permTrap 6 5 (BitVec.ofNat 64 sva) lanes) none
               else atBar s g (.dram bar) fun s g =>
                if 2 ^ 48 ≤ (readBar s (.dram bar)).pending + 32 * ls.length then takeTrap s g p (overflowBar bva lanes) none
                else
                 let bank := descGen d % 2
                 let k := (descInflight d bank + ls.length) % 2 ^ 32
                 let ms := engineWrite s.clock.ps (.core g.core) (desc + 28 + 4 * bank) (leBytes 4 k) s.ms
                 let entry : Batch := { words := ws, asid := l.asid, region := l.desc.region, launch := l.id,
                                         paddocks := (termsOf s g.launch g.wg).elim 64 fun r => r.paddocks }
                 let flights := (rayMsgs g ls a o c f ws d desc bar).map fun m =>
                   ({ work := atTreelet m (descRoot d bank), stack := none, core := g.core } : Flight)
                 let s := freshNodes (putMs s ms)
                 let s := { s with render := { s.render with batches := mput b entry s.render.batches,
                                                             flying := s.render.flying ++ flights } }
                 updateBar (finish s g p y) (.dram bar) (.expect (32 * ls.length)) (some g.core))

/-! ## CBACK (R193, R342) -/

/-- R193, R342. -/
def execCback (y : Bool) (gd : Guard) (b : BitVec 3) (c : CbackCode) (s : State) : Answer1 :=
  issueQ (.cback y gd b c) {} y gd s fun g p =>
    let n := 8 * b.toNat
    let l := launchOf s g.launch
    orTrap s g p (sCheck g p ((List.range 8).map (n + ·)))
      (let ws := descWords g n 8
       let st := nbits (dw ws 7) 24 3
       let s := if s.plat.walk && decide (4 ≤ st) then s
         else { s with render := { s.render with answers := s.render.answers ++
           [{ core := g.core, split := (g.id, p.id), stack := st, asid := l.asid, region := l.desc.region, words := ws, code := c }] } }
       finish s g p y)

/-- The ray that an answer matches. -/
def matchAnswer (s : State) (a : Answer) : Option WaitingRay :=
  s.render.answering.find? fun r =>
    let b := batchOf s r.work.msg.batch
    r.stackNo == a.stack && r.work.msg.ray == a.words.getD 0 0 && r.seq == some (a.words.getD 1 0) &&
      r.work.msg.batch == dw a.words 7 % 65536 && b.asid == a.asid && b.region == a.region

/-- The candidate that an answer offers: a procedural record's t, u and v come from the block (R193). -/
def offered (r : WaitingRay) (a : Answer) : Cand :=
  if r.isProc then ⟨a.words.getD 2 0, a.words.getD 5 0, a.words.getD 6 0, false⟩ else ⟨r.t, r.u, r.v, r.back⟩

/-- The candidate passes R182 against the ray's interval and best hit. -/
def passes (m : RayMsg) (c : Cand) (prim inst : Word) : Bool :=
  (match ext32 c.t with
   | some t => inInterval t m.tmin m.tmax
   | none => false) && replaces c.t m.tmax inst prim m.bestInst m.bestPrim

/-- The ray goes on after an answer: it ends, or rejoins its paddock. -/
def afterAnswer (s : State) (st : Nat) (w : RayWork) (ends : Bool) : Eng Unit :=
  if ends then finishRay s st w false else .ok (settlePaddocks (placeRay s st w) st) ()

/-- Answer k waits for a page that a write of its ray has met (R203, R204). -/
def parkAnswer (s : State) (k st asid : Nat) (acc : Acc) (va level : Nat) : State :=
  let s := faultRecord s (st / 4) 4 acc.bits st asid va level
  { s with render := { s.render with answers := modifyNth (fun x : Answer =>
      { x with parked := some (st / 4, asid, va) }) k s.render.answers } }

/-- R193, R342: the k-th answer is applied to the ray it matches. -/
def execCallbackAnswerArrival (k : Nat) (s : State) : Answer1 :=
  match s.render.answers[k]? with
  | none => .next s
  | some a =>
    let gone := fun s : State => { s with render := { s.render with answers := dropNth k s.render.answers } }
    if a.parked.isSome || answerHeld s k a then .next s
    else match matchAnswer s a with
    | none => .next (gone s)
    | some r =>
      let m := r.work.msg
      let free := fun s : State =>
        { s with render := { s.render with answering := s.render.answering.erase r } }
      let c := offered r a
      let took := a.code != .ignore && passes m c r.prim r.inst
      let stop := fun (m : RayMsg) => if a.code == .terminate then { m with terminated := true, pend := [] } else m
      let ends := a.code == .terminate || (took && m.first)
      let asid := (batchOf s m.batch).asid
      -- a ray that no paddock's round works at finishes by an abort where a write of it fails (log entry 21)
      let go := fun (s : State) (m : RayMsg) =>
        let w := { r.work with msg := stop m }
        match afterAnswer (free (gone s)) a.stack w ends with
        | .ok t _ => t
        | .park _ acc va lv => parkAnswer s k a.stack asid acc va lv
        | .stop t va _ => failRoute t a.stack va w
        | .wait _ _ => s
      if took then
        match takeHit s a.stack m c r.prim r.inst r.isProc with
        | .ok s m => .next (go s m)
        | .park s acc va lv => .next (parkAnswer s k a.stack asid acc va lv)
        | .stop s va _ => .next (failRoute (free (gone s)) a.stack va r.work)
        | .wait s _ => .next s
      else .next (go s m)

/-- A launch has retired: its rays that wait for an answer finish as by an abort (R353). -/
def abortWaiting (s : State) (launch : Nat) : State :=
  let mine := s.render.answering.filter fun a => a.work.msg.launch == launch
  let s := { s with render := { s.render with answering := s.render.answering.filter fun a => a.work.msg.launch != launch } }
  mine.foldl (fun s a => abortRay s a.stackNo a.work) s

/-! ## Generations (R196, R197, R326) -/

/-- Writes the retirement record of a generation. -/
def retireGen (s : State) (pa : Nat) (d : List Byte) (asid gen : Nat) : State :=
  postRecord s (BitVec.ofNat 64 (fieldAt d 40 8)) asid (stackOf pa / 4) 4 0 0 gen (BitVec.ofNat 64 (fieldAt d 48 8))

/-- A subtraction arrives after its ray's at the barrier (R194), and after earlier ones of its Courser to its slice (R18). -/
def subHeld (s : State) (k : Nat) (x : InflightSub) : Bool :=
  x.bar.any (fun b => s.copies.updates.any fun u => u.place == .dram b) ||
    (s.render.subs.take k).any fun y => y.courser == x.courser && sliceNo y.desc == sliceNo x.desc

/-- R194, R197: the k-th subtraction arrives at its descriptor. -/
def execInflightSubtraction (k : Nat) (s : State) : Answer1 :=
  match s.render.subs[k]? with
  | none => .next s
  | some x =>
    if subHeld s k x then .next s
    else
    let pa := x.desc
    let bank := x.bank
    let s := { s with render := { s.render with subs := dropNth k s.render.subs } }
    let s := deviceRead s (pa + 24) 12
    let d := readHome s.ms pa 64
    let n := (descInflight d bank + 2 ^ 32 - 1) % 2 ^ 32
    let s := putMs s (engineWrite s.clock.ps .device (pa + 28 + 4 * bank) (leBytes 4 n) s.ms)
    let old := (descGen d + 65535) % 65536
    if n = 0 ∧ old % 2 = bank ∧ nbit (fieldAt d 26 1) 0 then
      let s := putMs s (engineWrite s.clock.ps .device (pa + 26) (leBytes 1 (fieldAt d 26 1 / 2 * 2)) s.ms)
      .next (retireGen s pa d (mget 0 pa s.render.published) old)
    else .next s

/-- The flip at the op unit: the state, and Q. -/
def flipGen (s : State) (core pa asid : Nat) : State × Bool :=
  let d := readHome s.ms pa 64
  if nbit (fieldAt d 26 1) 0 then (s, false)
  else
    let gen := descGen d
    let s := putMs s (engineWrite s.clock.ps (.core core) (pa + 24) (leBytes 2 (gen + 1)) s.ms)
    let s := { s with render := { s.render with published := mset 0 pa asid s.render.published } }
    if descInflight d (gen % 2) = 0 then (retireGen s pa d asid gen, true)
    else (putMs s (engineWrite s.clock.ps (.core core) (pa + 26) (leBytes 1 (fieldAt d 26 1 + 1)) s.ms), true)

/-- Every Courser's node cache drops the lines of the 4 GiB from an address (R196). -/
def dropBank (s : State) (asid base : Nat) : State :=
  dropNodes s fun l => l.asid == asid && decide ((l.va + 2 ^ 64 - base) % 2 ^ 64 < 2 ^ 32)

/-- R196, R326: the release, the invalidation, then the flip; Qn is a long result. -/
def execAspub (y : Bool) (gd : Guard) (n : BitVec 6) (q : BitVec 3) (s : State) : Answer1 :=
  issueQ (.aspub y gd n q) {} y gd s fun g p =>
    let x := 2 * n.toNat
    let va := (getS64 g x).toNat
    let lanes := allOf g p
    orTrap s g p (sCheck g p [x, x + 1])
      (withChecked s g p 1 .object (checkObject s (whoOf s g) lanes .object true 5 64 64 va) fun xs =>
        let pa := match xs with | (_, pa, _) :: _ => pa | [] => 0
        if relHeld s g (enabled g p) .dev || fenceHolds s g (enabled g p) [(va, 64)] then hold s g p
        else
          let s := noteXlate s (whoOf s g) va
          let s := releaseAt s g.core g.id .dev
          let asid := (launchOf s g.launch).asid
          let s := putMs s (reachHome s.clock.ps (.core g.core) pa 64 s.ms)
          let d := readHome s.ms pa 64
          let s := dropBank s asid (descBase d ((descGen d + 1) % 2))
          let r := flipGen s g.core pa asid
          finish r.1 (addLong g p [] [] [] (some (q.toNat, r.2))) p y)

end Sys2Proof.Machine
end

