-- ==== Sys2Proof/Machine/Sfu.lean ====
section
/-! DEFINITION. Sfu.lean: the special functions of R85. Each exact result is worked out here to about 200 bits; the
part's own answer is an opaque function of Config, taken where it lies within the bound and replaced by the correctly
rounded result where it does not (log entry 9). sqrt is correctly rounded. -/

namespace Sys2Proof.Machine

/-- π in units of 2^-400. -/
def piFix : Nat := 0x3243f6a8885a308d313198a2e03707344a4093822299f31d0082efa98ec4e6c89452821e638d01377be5466cf34e90c6cc0ac
/-- ln 2 in units of 2^-256. -/
def ln2Fix : Nat := 0xb17217f7d1cf79abc9e3b39803f2f6af40f343267298b62d8a0d175b8baafa2b

/-- Floor of the square root, bit by bit from bit k down. -/
def isqrtGo (n : Nat) : Nat → Nat → Nat
  | 0, r => if (r + 1) * (r + 1) ≤ n then r + 1 else r
  | k + 1, r => isqrtGo n k (if (r + 2 ^ (k + 1)) * (r + 2 ^ (k + 1)) ≤ n then r + 2 ^ (k + 1) else r)

/-- Floor of the square root. -/
def isqrt (n : Nat) : Nat := isqrtGo n (Nat.log2 n / 2 + 1) 0

/-- Square root of a positive dyadic, with a sticky last bit. -/
def sqrtDy (d : Dy) : Dy :=
  let odd := d.e % 2 != 0
  let m := (if odd then 2 * d.m else d.m) * 2 ^ 400
  let e := (if odd then d.e - 1 else d.e)
  let s := isqrt m
  ⟨false, 2 * s + (if s * s = m then 0 else 1), e / 2 - 201⟩

/-- Reciprocal of a positive dyadic, with a sticky last bit. -/
def recipDy (d : Dy) : Dy :=
  let n := 2 ^ 300
  ⟨d.neg, 2 * (n / d.m) + (if n % d.m = 0 then 0 else 1), -d.e - 301⟩

/-- Taylor sum of exp from term t, whose next divisor is k; x in units of 2^-256. -/
def taylor (x : Nat) : Nat → Nat → Nat → Nat
  | 0, _, t => t
  | f + 1, k, t => t + taylor x f (k + 1) (t * x / 2 ^ 256 / k)

/-- exp of x in units of 2^-256, below 1. -/
def expFix (x : Nat) : Nat := taylor x 70 1 (2 ^ 256)

/-- Alternating sum t − t x²/(k(k+1)) + …: sine from t = x, k = 2; cosine from t = 1, k = 1. -/
def altSum (x2 : Nat) : Nat → Nat → Int → Int
  | 0, _, t => t
  | f + 1, k, t => t + altSum x2 f (k + 2) (-(t * (x2 : Int) / (2 : Int) ^ 256 / ((k * (k + 1) : Nat) : Int)))

/-- 2^x of a finite x, as a dyadic; the exponent is held to ±400, beyond every FP32 result. -/
def ex2Dy (d : Dy) : Dy :=
  let fx : Int := if 0 ≤ d.e + 256 then ((d.m * 2 ^ (d.e + 256).toNat : Nat) : Int) else ((d.m / 2 ^ (-(d.e + 256)).toNat : Nat) : Int)
  let x : Int := if d.neg then -fx else fx
  let n := x / 2 ^ 256
  let f := (x % 2 ^ 256).toNat
  ⟨false, 2 * expFix (f * ln2Fix / 2 ^ 256) + 1, max (-400) (min 400 n) - 257⟩

/-- Bits of log2 of y in [1, 2), y in units of 2^-256. -/
def lg2Go : Nat → Nat → Nat → Nat
  | 0, _, acc => acc
  | k + 1, y, acc =>
    let z := y * y / 2 ^ 256
    if 2 ^ 257 ≤ z then lg2Go k (z / 2) (2 * acc + 1) else lg2Go k z (2 * acc)

/-- log2 of a positive dyadic. -/
def lg2Dy (d : Dy) : Dy :=
  let k := Nat.log2 d.m
  let y := d.m * 2 ^ (256 - k)
  let fr := lg2Go 100 y 0
  let v : Int := ((k : Int) + d.e) * 2 ^ 100 + fr
  ⟨decide (v < 0), 2 * v.natAbs + (if y = 2 ^ 256 then 0 else 1), -101⟩

/-- sin (cosine when asked) of a finite x: exact range reduction by π/2. -/
def sinCosDy (cosine : Bool) (d : Dy) : Dy :=
  let x := if 0 ≤ d.e + 400 then d.m * 2 ^ (d.e + 400).toNat else d.m / 2 ^ (-(d.e + 400)).toNat
  let q := 2 * x / piFix
  let r : Nat := (2 * x - q * piFix) / 2 ^ 145
  let x2 : Nat := r * r / 2 ^ 256
  let s := altSum x2 40 2 (r : Int)
  let c := altSum x2 40 1 ((2 : Int) ^ 256)
  let v : Int := match cosine, q % 4 with
    | false, 0 => s | false, 1 => c | false, 2 => -s | false, _ => -c
    | true, 0 => c | true, 1 => -s | true, 2 => -c | true, _ => s
  let w : Int := if !cosine && d.neg then -v else v
  ⟨decide (w < 0), w.natAbs, -256⟩

/-- Distance of two dyadics is at most b. -/
def within (a c b : Dy) : Bool := !b.lt { (a.add { c with neg := !c.neg }) with neg := false }

/-- ulp of R85, times k. -/
def ulps (k : Nat) (y : Dy) : Dy := ⟨false, k, max ((Nat.log2 y.m : Int) + y.e) (-126) - 23⟩

/-- The part's answer where it lies within the bound, else the rounded exact one (R85). -/
def pick (cand : Word) (y bound : Dy) : Word :=
  match ofF32 cand with
  | .fin c => if within c y bound then cand else (round32 (.fin y)).1
  | _ => (round32 (.fin y)).1

/-- Flags of an inexact finite answer: underflow where the value returned is tiny (R73, R88, R398). -/
def sfuFlags (r : Word) : FpFlags := flagsOf false false (nbits r.toNat 23 8 == 0) true

/-- A power of two. -/
def isPow2 (m : Nat) : Bool := m != 0 && m == 2 ^ Nat.log2 m

def nan32 : Word := 0x7FC00000#32
def inf32 (neg : Bool) : Word := if neg then 0xFF800000#32 else 0x7F800000#32
def zero32 (neg : Bool) : Word := if neg then 0x80000000#32 else 0#32

/-- The part's answer and its flags, or the rounded result where that overflows. -/
def sfuPick (cand : Word) (y bound : Dy) : Word × FpFlags :=
  if (round32 (.fin y)).2.overflow then round32 (.fin y) else (pick cand y bound, sfuFlags (pick cand y bound))

/-- The result of a function (R85) before FTZ; `cand` is the part's own answer. -/
def sfuFin (f : SfuFn) (cand : Word) (x : XVal) : Word × FpFlags :=
  match f, x with
  | _, .nan => (nan32, {})
  | .rcp, .inf n => (zero32 n, {})
  | .rcp, .fin d =>
    if d.m = 0 then (inf32 d.neg, { divZero := true })
    else if isPow2 d.m && -126 ≤ -((Nat.log2 d.m : Int) + d.e) then round32 (.fin (recipDy d))
    else sfuPick cand (recipDy d) (ulps 1 (recipDy d))
  | .rsq, .inf n => if n then (nan32, {}) else (0#32, {})
  | .rsq, .fin d =>
    if d.m = 0 then (inf32 d.neg, { divZero := true })
    else if d.neg then (nan32, {})
    else
      let k := (Nat.log2 d.m : Int) + d.e
      if isPow2 d.m && k % 2 == 0 then round32 (.fin ⟨false, 1, -(k / 2)⟩)
      else sfuPick cand (sqrtDy (recipDy d)) (ulps 2 (sqrtDy (recipDy d)))
  | .sqrt, .inf n => if n then (nan32, {}) else (inf32 false, {})
  | .sqrt, .fin d => if d.m = 0 then (zero32 d.neg, {}) else if d.neg then (nan32, {}) else round32 (.fin (sqrtDy d))
  | .ex2, .inf n => if n then (0#32, {}) else (inf32 false, {})
  | .ex2, .fin d =>
    if d.m = 0 then (0x3F800000#32, {})
    else
      let n := roundInt .rz d
      if within d ⟨d.neg, n, 0⟩ ⟨false, 0, 0⟩ && decide (n < 128) && (!d.neg || decide (n ≤ 126)) then
        round32 (.fin ⟨false, 1, if d.neg then -(n : Int) else n⟩)
      else sfuPick cand (ex2Dy d) (ulps 2 (ex2Dy d))
  | .lg2, .inf n => if n then (nan32, {}) else (inf32 false, {})
  | .lg2, .fin d =>
    if d.m = 0 then (inf32 true, { divZero := true })
    else if d.neg then (nan32, {})
    else if isPow2 d.m then
      let k := (Nat.log2 d.m : Int) + d.e
      round32 (.fin ⟨decide (k < 0), k.natAbs, 0⟩)
    else
      let near := !d.lt ⟨false, 1, -1⟩ && !(Dy.lt ⟨false, 2, 0⟩ d)
      sfuPick cand (lg2Dy d) (if near then ⟨false, 1, -22⟩ else ulps 2 (lg2Dy d))
  | .sin, .inf _ => (nan32, {})
  | .sin, .fin d => if d.m = 0 then (zero32 d.neg, {}) else sfuPick cand (sinCosDy false d) ⟨false, 1, -20⟩
  | .cos, .inf _ => (nan32, {})
  | .cos, .fin d => if d.m = 0 then (0x3F800000#32, {}) else sfuPick cand (sinCosDy true d) ⟨false, 1, -20⟩

/-- SFU on an FP32 pattern (R82, R85). -/
def sfu32 (ftz : Bool) (f : SfuFn) (a : Word) : Word × FpFlags :=
  withInvalid [a] (flush32 ftz (sfuFin f (Config.sfu f a) (in32 ftz a)))

end Sys2Proof.Machine
end

