-- ==== Sys2Proof/Machine/VecFloat.lean ====
section
/-! DEFINITION. VecFloat.lean: FP32 and packed arithmetic, conversion, special functions, quantisation and the Hadamard
transform (R76 to R83, R336, R347 to R349, R354 to R359, R398). -/

namespace Sys2Proof.Machine

/-- Saturation of an instruction that HX.sat or FMT.SAT asks for it (R74). -/
def satOf (p : Split) : Bool := (hxOf p).sat || fmtSat p.fmt

/-- Size of a Hadamard code: none, 16, 32, 64. -/
def hadSize : Nat → Nat
  | 1 => 16 | 2 => 32 | 3 => 64 | _ => 0

/-- Hadamard size of a split: HX.had, else FMT.HAD (R81). -/
def hadOf (p : Split) : Nat := hadSize (if (hxOf p).had = 0 then fmtHad p.fmt else (hxOf p).had.toNat)

/-! ## Conversion (R76, R348) -/

def modeOf : Rnd → RMode
  | .rn => .rne | .rz => .rz | .rd => .rd | .ru => .ru

/-- Element format of a source code; none for S32 and U32. -/
def srcFmt : CvtSrc → Option Fmt
  | .f32 => some .f32 | .f16 => some .f16 | .bf16 => some .bf16 | .e4m3 => some .e4m3 | .e5m2 => some .e5m2
  | .tp8 => some .tp8 | .e2m3 => some .e2m3 | .e3m2 => some .e3m2 | .e2m1 => some .e2m1 | .s8 => some .s8
  | .s32 | .u32 => none

/-- Float format of a destination code; none for S32 and U32. -/
def dstFmt : CvtDst → Option Fmt
  | .f32 => some .f32 | .f16 => some .f16 | .bf16 => some .bf16 | .e4m3 => some .e4m3 | .e5m2 => some .e5m2
  | .tp8 => some .tp8 | .s32 | .u32 => none

/-- An integer as an exact value. -/
def ofIntX (x : Int) : XVal := .fin ⟨decide (x < 0), x.natAbs, 0⟩

/-- Value of a source operand. -/
def cvtValue (ftz z : Bool) (src : CvtSrc) (a : Word) : XVal :=
  match src with
  | .f32 => in32 ftz a
  | .s8 => if z then decodeU8 (a.toNat % 256) else decodeNum .s8 (a.toNat % 256)
  | .s32 => ofIntX a.toInt
  | .u32 => ofIntX a.toNat
  | x => match srcFmt x with | some f => decodeNum f (a.toNat % 2 ^ f.width) | none => .nan

/-- A source that is an integer (R348). -/
def intSrc : CvtSrc → Bool
  | .s8 | .s32 | .u32 => true
  | _ => false

/-- A signalling NaN source in FP32, FP16 or BF16 (R348). -/
def cvtSnan (src : CvtSrc) (a : Word) : Bool :=
  match src with
  | .f32 => isSnan .f32 a.toNat
  | .f16 => isSnan .f16 (a.toNat % 65536)
  | .bf16 => isSnan .bf16 (a.toNat % 65536)
  | _ => false

/-- A code of a format is subnormal. -/
def isSubCode (f : Fmt) (c : Nat) : Bool :=
  match f.ieee with
  | some (eb, fb, _) => nbits c fb eb == 0 && nbits c 0 fb != 0
  | none => false

/-- A result written under FTZ: a subnormal becomes zero of its sign and sets underflow (R82). -/
def flushCode (ftz : Bool) (f : Fmt) (r : Nat × FpFlags) : Nat × FpFlags :=
  if ftz && isSubCode f r.1 then (r.1 / 2 ^ (f.width - 1) * 2 ^ (f.width - 1), r.2.or (flagsOf false false true false))
  else r

/-- Float to the same format (R348): the input, also an infinite one under saturation, where R74 gives M for any infinite result
(log entry 52). -/
def cvtSame (ftz : Bool) (f : Fmt) (a : Word) : Nat × FpFlags :=
  let c := a.toNat % 2 ^ f.width
  if (decodeNum f c).isNan then (f.nan.getD c, {})
  else if f = .f32 then (if ftz && isSub32 c then c / 2 ^ 31 * 2 ^ 31 else c, {})
  else flushCode ftz f (c, {})

/-- Conversion to S32 or U32 (R76): bounds, and the value where it fits. -/
def cvtInt (uns : Bool) (m : RMode) (x : XVal) : Nat × FpFlags :=
  let lo : Int := if uns then 0 else -(2 ^ 31)
  let hi : Int := if uns then 2 ^ 32 - 1 else 2 ^ 31 - 1
  let code := fun v : Int => (BitVec.ofInt 32 v).toNat
  let bad := flagsOf true false false false
  match x with
  | .nan => (0, bad)
  | .inf neg => (code (if neg then lo else hi), bad)
  | .fin d =>
    let n : Int := roundInt m d
    let v := if d.neg then -n else n
    if v < lo then (code lo, bad)
    else if hi < v then (code hi, bad)
    else
      let exact := x.eq (ofIntX v)
      (code v, flagsOf false false false (!exact && !(uns && v = 0)))

/-- CVT of one value (R76, R348). -/
def cvtWord (ftz z sat : Bool) (src : CvtSrc) (dst : CvtDst) (m : RMode) (a : Word) : Word × FpFlags :=
  let x := cvtValue ftz z src a
  let r : Nat × FpFlags :=
    match dstFmt dst with
    | some f =>
      if srcFmt src = some f then cvtSame ftz f a
      else flushCode ftz f (roundX f (.mode m) sat x)
    | none => cvtInt (dst == .u32) (if intSrc src then .rz else m) x
  (BitVec.ofNat 32 r.1, r.2.or (flagsOf (cvtSnan src a) false false false))

/-! ## The lane-wise instructions -/

/-- R82, R354. -/
def execFadd (y : Bool) (g : Guard) (d a : BitVec 6) (b : Src) (s : State) : Answer1 :=
  laneFp (.fadd y g d a b) (acceptFwd b) y g d a (some b) (fun p x z _ => fadd32 (fmtFtz p.fmt) x z) s

/-- R82, R354. -/
def execFmul (y : Bool) (g : Guard) (d a : BitVec 6) (b : Src) (s : State) : Answer1 :=
  laneFp (.fmul y g d a b) (acceptFwd b) y g d a (some b) (fun p x z _ => fmul32 (fmtFtz p.fmt) x z) s

/-- R82, R354. -/
def execFmin (y : Bool) (g : Guard) (d a : BitVec 6) (b : Src) (s : State) : Answer1 :=
  laneFp (.fmin y g d a b) (acceptFwd b) y g d a (some b) (fun p x z _ => fminmax32 (fmtFtz p.fmt) false x z) s

/-- R82, R354. -/
def execFmax (y : Bool) (g : Guard) (d a : BitVec 6) (b : Src) (s : State) : Answer1 :=
  laneFp (.fmax y g d a b) (acceptFwd b) y g d a (some b) (fun p x z _ => fminmax32 (fmtFtz p.fmt) true x z) s

/-- R82, R356. -/
def execFfma (y : Bool) (g : Guard) (d a : BitVec 6) (b : Src) (s : State) : Answer1 :=
  laneFp (.ffma y g d a b) (acceptFwd b) y g d a (some b)
    (fun p x z old => fma32 (fmtFtz p.fmt) false false x z old) s

/-- R82, R356. -/
def execFfnma (y : Bool) (g : Guard) (d a : BitVec 6) (b : Src) (s : State) : Answer1 :=
  laneFp (.ffnma y g d a b) (acceptFwd b) y g d a (some b)
    (fun p x z old => fma32 (fmtFtz p.fmt) true false x z old) s

/-- R82, R356. -/
def execFfms (y : Bool) (g : Guard) (d a : BitVec 6) (b : Src) (s : State) : Answer1 :=
  laneFp (.ffms y g d a b) (acceptFwd b) y g d a (some b)
    (fun p x z old => fma32 (fmtFtz p.fmt) false true x z old) s

/-- R82, R358, R359. -/
def execFsetp (y : Bool) (g : Guard) (pd : BitVec 3) (c : FCond) (a : BitVec 6) (b : Src) (m : Comb) (s : State) : Answer1 :=
  vecOp (.fsetp y g pd c a b m) (acceptFwd b) y g [a.toNat] (some b)
    (fun g p ls bv => (setPreds g ls pd.toNat fun l =>
        comb m (getP g l pd.toNat) (fcond (fmtFtz p.fmt) c (aVal g l a) (bv l)).1,
      laneFlags ls fun l => (fcond (fmtFtz p.fmt) c (aVal g l a) (bv l)).2)) s

/-- R85, R398: long; the destination registers are those computed at issue (R397). -/
def execSfu (y : Bool) (g : Guard) (d a : BitVec 6) (f : SfuFn) (s : State) : Answer1 :=
  vecOp (.sfu y g d a f) {} y g [a.toNat, d.toNat] none
    (fun g p ls _ =>
      (if ls.isEmpty then g
       else addLong g p ls (ls.map fun l => (l * 256 + eff g d.toNat, (sfu32 (fmtFtz p.fmt) f (aVal g l a)).1)) [] none,
       laneFlags ls fun l => (sfu32 (fmtFtz p.fmt) f (aVal g l a)).2)) s

/-- R83, R336. -/
def execHfma2 (y : Bool) (g : Guard) (d a : BitVec 6) (b : Src) (s : State) : Answer1 :=
  laneFp (.hfma2 y g d a b) { acceptFwd b with sat := true } y g d a (some b)
    (fun p x z old => packFma .f16 (satOf p) x z old) s

/-- R83, R336. -/
def execBfma2 (y : Bool) (g : Guard) (d a : BitVec 6) (b : Src) (s : State) : Answer1 :=
  laneFp (.bfma2 y g d a b) { acceptFwd b with sat := true } y g d a (some b)
    (fun p x z old => packFma .bf16 (satOf p) x z old) s

/-- R83, R336. -/
def execHadd2 (y : Bool) (g : Guard) (d a : BitVec 6) (b : Src) (s : State) : Answer1 :=
  laneFp (.hadd2 y g d a b) { acceptFwd b with sat := true } y g d a (some b)
    (fun p x z old => packAdd .f16 (satOf p) x z old) s

/-- R83, R336. -/
def execHmul2 (y : Bool) (g : Guard) (d a : BitVec 6) (b : Src) (s : State) : Answer1 :=
  laneFp (.hmul2 y g d a b) { acceptFwd b with sat := true } y g d a (some b)
    (fun p x z old => packMul .f16 (satOf p) x z old) s

/-- R76, R347, R348. -/
def execCvt (y : Bool) (g : Guard) (d a : BitVec 6) (src : CvtSrc) (dst : CvtDst) (r : Rnd) (s : State) : Answer1 :=
  laneFp (.cvt y g d a src dst r) { z := src == .s8, sat := (dstFmt dst).isSome } y g d a none
    (fun p x _ _ => cvtWord (fmtFtz p.fmt) (hxOf p).z (satOf p) src dst (modeOf r) x) s

/-- R82, R357. -/
def execFrnd (y : Bool) (g : Guard) (d a : BitVec 6) (r : Rnd) (s : State) : Answer1 :=
  laneFp (.frnd y g d a r) {} y g d a none (fun p x _ _ => frnd32 (fmtFtz p.fmt) (modeOf r) x) s

/-! ## Blocks (R75, R77 to R81, R349) -/

/-- The generator of a lane from a seed (R75). -/
def seedLane (seed : Word) (lane : Nat) : Word :=
  let g := seed ^^^ (BitVec.ofNat 32 lane * 0x9E3779B9#32)
  if g = 0 then 1 else g

/-- One draw: the generator's next state is the draw (R75). -/
def draw (g : Word) : Word :=
  let g := g ^^^ (g <<< 13)
  let g := g ^^^ (g >>> 17)
  g ^^^ (g <<< 5)

/-- n draws. -/
def draws : Nat → Word → List Word
  | 0, _ => []
  | n + 1, g => draw g :: draws n (draw g)

/-- Elements of a block of QNT and DQN (R80). -/
def blockN (scale : Nat) : Nat := if scale = 2 then 16 else 32

/-- Registers of n codes of a format. -/
def codeRegs (f : Fmt) (n : Nat) : Nat := n * f.width / 32

/-- How the elements of a QNT are rounded: by QRND, with the lane's draws under SR. -/
def qntChoices (qrnd n : Nat) (gen : Word) : List Choice :=
  if qrnd = 2 then (draws n gen).map fun d => .draw d.toNat
  else List.replicate n (.mode (if qrnd = 1 then .rz else .rne))

/-- Scale byte, codes and flags of one lane's QNT. -/
def qntLane (g : Group) (p : Split) (a : BitVec 6) (lane : Nat) : Nat × List Nat × FpFlags :=
  let n := blockN (fmtScale p.fmt)
  let xs := (span a n).map fun r => in32 (fmtFtz p.fmt) (getV g lane (eff g r))
  quantBlock (fmtA p.fmt) (fmtScale p.fmt) (fmtSpare p.fmt) (qntChoices (fmtQrnd p.fmt) n (g.gens.getD lane 0)) xs

/-- Writes consecutive registers of a lane. -/
def setRun (g : Group) (lane e : Nat) (ws : List Word) : Group :=
  ws.zipIdx.foldl (fun h (w, i) => setV h lane (e + i) w) g

/-- Scalar or format conditions of QNT and DQN: AFMT must not be FP32. -/
def blockFmt (i : Instr) (g : Group) (p : Split) : Option Trap :=
  if fmtA p.fmt = .f32 then some (illegal i g p) else none

/-- Registers of QNT and DQN: values, codes, and the scale where there is one. -/
def blockRegs (p : Split) (vals codes : BitVec 6) (b : BitVec 6) : List Nat :=
  let n := blockN (fmtScale p.fmt)
  span vals n ++ span codes (codeRegs (fmtA p.fmt) n) ++ (if fmtScale p.fmt = 0 then [] else [b.toNat])

/-- The register that b names in QNT and DQN. -/
def srcReg : Src → BitVec 6
  | .v n => n
  | .s n => n

/-- R80: every lane reads before any writes. The scale is written last, where its register lies among those of the codes (log
entry 52). -/
def execQnt (y : Bool) (gd : Guard) (d a : BitVec 6) (b : Src) (s : State) : Answer1 :=
  vecChecked (.qnt y gd d a b) {} y gd (fun _ p => blockRegs p a d (srcReg b)) (fun g p _ => blockFmt (.qnt y gd d a b) g p)
    (fun g p ls =>
      let n := blockN (fmtScale p.fmt)
      let f := fmtA p.fmt
      let put := fun (h : Group) (l : Nat) =>
        let r := qntLane g p a l
        let h := setRun h l (eff g d.toNat) (packCodes f.width (codeRegs f n) r.2.1)
        if fmtScale p.fmt = 0 then h else setV h l (eff g (srcReg b).toNat) (BitVec.ofNat 32 (r.1 % 256))
      let gens := if fmtQrnd p.fmt = 2 then
          g.gens.zipIdx.map fun (x, l) => if ls.contains l then (draws n x).getLastD x else x
        else g.gens
      ({ ls.foldl put g with gens := gens }, laneFlags ls fun l => (qntLane g p a l).2.2)) s

/-- Values and flags of one lane's DQN (R80). -/
def dqnLane (g : Group) (p : Split) (a : BitVec 6) (b : BitVec 6) (lane : Nat) : List (Word × FpFlags) :=
  let n := blockN (fmtScale p.fmt)
  let f := fmtA p.fmt
  let sb := if fmtScale p.fmt = 0 then 0 else (getV g lane (eff g b.toNat)).toNat % 256
  let spare := if fmtSpare p.fmt then some g.spa.toNat else none
  let codes := unpackCodes f.width n ((span a (codeRegs f n)).map fun r => getV g lane (eff g r))
  codes.map fun c =>
    let x := elemValue f (fmtScale p.fmt) sb spare false c
    let r := out32 (fmtFtz p.fmt) x
    let made := elemMade f (fmtScale p.fmt) sb spare false c
    (r.1, r.2.or (flagsOf made false false false))

/-- R80. -/
def execDqn (y : Bool) (gd : Guard) (d a : BitVec 6) (b : Src) (s : State) : Answer1 :=
  vecChecked (.dqn y gd d a b) {} y gd (fun _ p => blockRegs p d a (srcReg b)) (fun g p _ => blockFmt (.dqn y gd d a b) g p)
    (fun g p ls =>
      (ls.foldl (fun h l => setRun h l (eff g d.toNat) ((dqnLane g p a (srcReg b) l).map (·.1))) g,
        laneFlags ls fun l => (dqnLane g p a (srcReg b) l).foldl (fun fl r => fl.or r.2) {})) s

/-- Outputs and flags of one lane's HAD (R81). -/
def hadLane (g : Group) (p : Split) (a : BitVec 6) (lane : Nat) : List (Word × FpFlags) :=
  let h := hadOf p
  let xs := (span a h).map fun r => in32 (fmtFtz p.fmt) (getV g lane (eff g r))
  (hadAll h xs).map fun x =>
    let r := out32 (fmtFtz p.fmt) x
    (r.1, r.2.or (flagsOf (x.isNan && !(xs.any XVal.isNan)) false false false))

/-- R81. -/
def execHad (y : Bool) (gd : Guard) (d a : BitVec 6) (s : State) : Answer1 :=
  vecChecked (.had y gd d a) { had := true } y gd (fun _ p => span a (hadOf p) ++ span d (hadOf p))
    (fun g p _ => if hadOf p = 0 then some (illegal (.had y gd d a) g p) else none)
    (fun g p ls =>
      (ls.foldl (fun h l => setRun h l (eff g d.toNat) ((hadLane g p a l).map (·.1))) g,
        laneFlags ls fun l => (hadLane g p a l).foldl (fun fl r => fl.or r.2) {})) s

end Sys2Proof.Machine
end

