-- ==== Sys2Proof/Machine/YokeUnit.lean ====
section
/-! DEFINITION. YokeUnit.lean: the Yoke (08): stencil slots and planes, shape records, MMA and LDSTN, the reservation table
and its grants, the arithmetic of a pass (R86), OPRDY and MWAIT. -/

namespace Sys2Proof.Machine

/-! ## Checks of the format (R160) -/

/-- A format, scale mode or FMT Hadamard that R160 and R172 refuse. -/
def formatBad (p : Split) (f : Fmt) : Bool :=
  match yokeClass f with
  | none => true
  | some (_, k, sc) =>
    (fmtScale p.fmt != 0 && !sc) || fmtScale p.fmt == 3 ||
      ((hxOf p).had == 0 && fmtHad p.fmt != 0 && k % hadSize (fmtHad p.fmt) != 0)

/-- A hint field that the format does not admit (R171, R172). -/
def yokeHintBad (p : Split) (f : Fmt) : Bool :=
  ((hxOf p).z && f != .s8) || ((hxOf p).had != 0 && kBlock f % hadSize (hxOf p).had.toNat != 0)

/-- The word of the pair's HX. -/
def hxWord (p : Split) : Word := p.hints.words.getD (if p.hints.hfwd.isSome then 1 else 0) 0

/-- The checks that depend on FMT, in the order of R312. -/
def yokeFmtCheck (i : Instr) (g : Group) (p : Split) (f : Fmt) : Option Trap :=
  if formatBad p f then some (illegal i g p)
  else if yokeHintBad p f then some (hintTrap i g p (hxWord p))
  else none

/-! ## Checks of a shape record (R161) -/

/-- A reserved value, a non-zero must-be-zero bit, or a KLEN past the K-block. -/
def shapeBad (ws : List Word) (isB : Bool) (k : Nat) : Bool :=
  shEstride ws == 0 || dw ws 3 / 2 ^ 17 != 0 || dw ws 7 != 0 ||
    (if isB then decide (k < shKlen ws) || dw ws 6 / 65536 != 0 else nbits (dw ws 3) 4 13 != 0 || dw ws 6 != 0)

/-- Some element of rows and places lies outside a space of some bytes; the addresses are linear, so the corners tell. -/
def elemsOutside (ws : List Word) (w r0 r1 c1 size : Nat) : Bool :=
  [(r0, 0), (r0, c1), (r1, 0), (r1, c1)].any fun x =>
    decide (elemBit ws w x.1 x.2 < 0) || decide ((size * 8 : Nat) < elemBit ws w x.1 x.2 + w)

/-- Some scale byte lies outside. -/
def scalesOutside (ws : List Word) (lo hi size : Nat) : Bool := decide (size < shScale ws + hi) || decide (hi < lo)

/-! ## Requests (R173) -/

def yokeOf (s : State) (team : Nat) : Yoke := mget {} team s.cores.yokes
def putYoke (s : State) (team : Nat) (y : Yoke) : State :=
  { s with cores := { s.cores with yokes := (mset {} team y s.cores.yokes) } }

/-- n new entries of a core fit in the table and in the core's share of it. An entry stays until its write is performed, so that a
core never has more than 32 requests outstanding (R173, R176). -/
def tableFits (y : Yoke) (core n : Nat) : Bool :=
  let held := y.table ++ y.running
  decide (held.length + n ≤ 64) && decide ((held.filter fun r => r.core == core).length + n ≤ 32)

/-- n new entries of a workgroup fit in the table and in the core's share of it; entries of the workgroup that a restore posts again go
before them (R173, R177). -/
def yokeRoom (y : Yoke) (launch wg core n : Nat) : Bool :=
  tableFits y core n &&
    !(y.waiting.any fun r => r.launch == launch && r.wg == wg)

/-- A request enters its team's table. -/
def enterYoke (s : State) (r : YokeReq) : State :=
  let team := teamOf r.core
  let y := yokeOf s team
  putYoke s team { y with table := y.table ++ [{ r with id := y.nextId, entered := y.grants }], nextId := y.nextId + 1 }

/-- Entries that a restore posts again enter the table in their order, as far as it has room (R173, R177). -/
def admitWaiting : Nat → Yoke → Yoke
  | 0, y => y
  | k + 1, y => match y.waiting with
    | [] => y
    | r :: rest =>
      if tableFits y r.core 1 then
        admitWaiting k { y with table := y.table ++ [{ r with id := y.nextId, entered := y.grants }], nextId := y.nextId + 1,
                                waiting := rest }
      else y

/-- The number in the device of the k-th next request of a team. -/
def reqNo (y : Yoke) (team k : Nat) : Nat := (y.nextId + k) * 48 + team

/-- Requests of a group whose write has not been performed (R176), those that a save has removed among them (R177). -/
def outReqs (s : State) (g : Group) : List YokeReq :=
  let y := yokeOf s (teamOf g.core)
  (y.table ++ y.waiting ++ y.running ++ (wgOf s g.launch g.wg).removed).filter fun r => r.group == g.id

/-- Requests of a segment of a group that are outstanding (R176). -/
def segOut (s : State) (g : Group) (seg : Nat) : Nat := ((outReqs s g).filter fun r => r.seg == seg).length

/-- Segments of a split. -/
def segsOf (p : Split) : List Nat := (p.slices.map (· / 2)).dedup

/-- Every segment of a split has at most n requests outstanding. -/
def mwaitOver (s : State) (g : Group) (p : Split) (n : Nat) : Bool :=
  decide (32 ≤ n) || (segsOf p).all fun m => decide (segOut s g m ≤ n)

/-- Requests of a split's segments that have completed. -/
def coveredReqs (s : State) (g : Group) (p : Split) : List Posted :=
  g.posted.filter fun q => (segsOf p).contains q.seg && !(outReqs s g).any fun r => r.no == q.no

/-- C-store key of a group's tile. -/
def groupTile (s : State) (g : Group) (tile : Nat) : Nat := bufKey g.core (mget 0 g.core (wgOf s g.launch g.wg).cBase + tile)

/-- The tiles of completed requests are read as written from now on. One whose operand was rewritten before now is open
(R130). -/
def coverTiles (s : State) (g : Group) (p : Split) : State × Group :=
  let done := coveredReqs s g p
  let bad := done.filter fun q => q.open_ g
  let words := fun i : Nat => (List.range 512).map fun k => Config.freeWord (s.free + 512 * i + k)
  let c := bad.zipIdx.foldl (fun c (q, i) => setBytes c (groupTile s g q.tile) (wordsBytes (words i))) s.cores.cstore
  let s := if bad.isEmpty then s else { s with cores := { s.cores with cstore := c }, free := s.free + freeStep }
  (s, { g with posted := g.posted.filter fun q => !done.contains q })

/-- Splits at an MWAIT go on once its condition holds (R176). -/
def wakeMwait (s : State) (gid : Nat) : State :=
  match findGroup s gid with
  | none => s
  | some g =>
    let done := fun p : Split => match p.wait with | .mwait n => mwaitOver s g p n | _ => false
    let r := (g.splits.filter done).foldl (fun (x : State × Group) p => coverTiles x.1 x.2 p) (s, g)
    putGroup r.1 { r.2 with splits := r.2.splits.map fun p => if done p then wake p else p }

/-- Region priority of a group's workgroup (R174, R225). -/
def prioOf (s : State) (g : Group) : Nat := (termsOf s g.launch g.wg).elim 0 fun r => r.prio

/-- Physical slot of a logical one on a core's team (R159). -/
def physSlot (s : State) (g : Group) (slot : Nat) : Nat :=
  (mget [] (teamOf g.core) (wgOf s g.launch g.wg).slots).getD slot 0

/-- Spare value for FP4 codes under FMT.SPARE (R72). -/
def spareOf (f : Fmt) (fmt : Word) (v : Nat) : Option Nat := if fmtSpare fmt && f == .e2m1 then some v else none

/-! ## LDSTN (R163, R170, R379) -/

/-- Bound and record checks of LDSTN. A bound names the operand's first address (log entry 51). -/
def ldstnShape (s : State) (g : Group) (f : Fmt) (fmt : Word) (ws : List Word) (lanes : BitVec 128) : Option Trap :=
  let size := wWindow s g
  if shapeBad ws true (kBlock f) then some (permTrap 6 7 0 lanes)
  else if elemsOutside ws f.width 0 (shKlen ws - 1) (shNlen ws - 1) size then
    some (permTrap 5 1 (BitVec.ofNat 64 (shBase ws)) lanes)
  else if fmtScale fmt ≠ 0 ∧ scalesOutside ws 0 ((shNlen ws - 1) * scaleCount f (fmtScale fmt) +
      (shKlen ws - 1) / scaleBlockOf (fmtScale fmt) + 1) size then
    some (permTrap 5 1 (BitVec.ofNat 64 (shScale ws)) lanes)
  else none

/-- R161 to R164, R170 to R173, R379. -/
def execLdstn (y : Bool) (gd : Guard) (sl : BitVec 5) (pr : BitVec 9) (s : State) : Answer1 :=
  issueQ (.ldstn y gd sl pr) { z := true, had := true } y gd s fun g p =>
    let n := pr.toNat
    let lanes := allOf g p
    let f := fmtB p.fmt
    let ws := descWords g n 8
    orTrap s g p ((sCheck g p ((List.range 8).map (n + ·))).or ((yokeFmtCheck (.ldstn y gd sl pr) g p f).or
        (if (launchOf s g.launch).desc.stencils ≤ sl.toNat then some (permTrap 9 7 0 lanes)
         else ldstnShape s g f p.fmt ws lanes)))
      (let team := teamOf g.core
       if !yokeRoom (yokeOf s team) g.launch g.wg g.core 1 then hold s g p
       else
         let phys := physSlot s g sl.toNat
         let r : YokeReq :=
           { id := 0, no := reqNo (yokeOf s team) team 0, core := g.core, launch := g.launch, wg := g.wg, group := g.id,
             seg := (segsOf p).headD 0, isLoad := true,
             slot := phys, prio := prioOf s g, entered := 0, tile := 0, aReg := 0, record := some ws, fmt := p.fmt, spa := 0,
             neg := false, nacc := false, had := hadOf p, sat := false, uns := (hxOf p).z, openA := false }
         let yk := yokeOf s team
         let cls := (yokeClass f).elim 0 fun x => x.1
         let pl := (mget? phys yk.planes).getD { cls := cls }
         let s := putYoke s team { yk with planes := mput phys { pl with cls := cls } yk.planes }
         finish (enterYoke s r) g p y)

/-! ## MMA (R165 to R172, R381) -/

/-- Segments that post, and segments that break R166. -/
def mmaSegs (g : Group) (p : Split) (gd : Guard) : List Nat × List Nat :=
  let act := active g p gd
  let here := fun l => p.slices.contains (l / 4)
  let wants := (List.range (g.width / 8)).filter fun m => (segLanes m).any fun l => here l && guardP g gd l
  (wants.filter fun m => (segLanes m).all act.contains, wants.filter fun m => !(segLanes m).all act.contains)

/-- The partial-segment matrix trap. -/
def segTrap (bad : List Nat) : Option Trap :=
  match bad with
  | [] => none
  | _ => some { cause := 0x05, lanes := laneBits (bad.flatMap segLanes),
                info := BitVec.ofNat 64 ((bad.map fun m => 2 ^ m).sum) }

/-- An A operand in the A-store that the record refuses. A bound names the operand's first address (log entry 51). -/
def aShape (s : State) (g : Group) (f : Fmt) (fmt : Word) (ws : List Word) (post : List Nat) (lanes : BitVec 128) :
    Option Trap :=
  let size := aWindow (wgOf s g.launch g.wg)
  let r0 := 8 * post.headD 0
  let r1 := 8 * post.getLastD 0 + 7
  let nb := scaleCount f (fmtScale fmt)
  if shapeBad ws false 0 then some (permTrap 6 7 0 lanes)
  else if elemsOutside ws f.width r0 r1 (kBlock f - 1) size then some (permTrap 5 1 (BitVec.ofNat 64 (shBase ws)) lanes)
  else if nb ≠ 0 ∧ scalesOutside ws (r0 * nb) (r1 * nb + nb) size then
    some (permTrap 5 1 (BitVec.ofNat 64 (shScale ws)) lanes)
  else none

/-- Tiles outside the reservation. -/
def tileTrap (s : State) (g : Group) (c : Nat) (post : List Nat) : Option Trap :=
  match post.filter fun m => decide (cWindow s g < c + 2048 * m + 2048) with
  | [] => none
  | m :: r => some (permTrap 5 2 (BitVec.ofNat 64 (c + 2048 * m)) (laneBits ((m :: r).flatMap segLanes)))

/-- The stencil at the team's table is of another class (R170); the slot lies within the declared count. -/
def classTrap (i : Instr) (s : State) (g : Group) (p : Split) (f : Fmt) (slot : Nat) : Option Trap :=
  if slot < (launchOf s g.launch).desc.stencils then
    match mget? (physSlot s g slot) (yokeOf s (teamOf g.core)).planes with
    | none => none
    | some pl => if (yokeClass f).any fun x => x.1 != pl.cls then some (illegal i g p) else none
  else none

/-- No stencil has been loaded into the slot since dispatch (R170). -/
def emptyTrap (s : State) (g : Group) (slot : Nat) (lanes : BitVec 128) : Option Trap :=
  if (mget? (physSlot s g slot) (yokeOf s (teamOf g.core)).planes).isNone then some (permTrap 6 7 0 lanes) else none

/-- Posts an MMA's requests: the checks of R170 in the order of R312, then one entry for each posting segment. -/
def postMma (i : Instr) (y : Bool) (gd : Guard) (a : Nat) (slot c : Nat) (neg nacc fromStore : Bool) (s : State) : Answer1 :=
  issueAt i { z := true, sat := true, had := true } s fun g p =>
    let ls := active g p gd
    let f := fmtA p.fmt
    let sg := mmaSegs g p gd
    match sg.1 ++ sg.2 with
    | [] => finish s g p y
    | _ =>
      let lanes := laneBits ls
      let regs := if fromStore then none else vRange g ls ((List.range (aSpan f (fmtScale p.fmt))).map (a + ·))
      let sregs := c :: (if fromStore then (List.range 8).map (a + ·) else [])
      let ws := descWords g a 8
      let tile := (getS g c).toNat
      orTrap s g p (regs.or ((sRange g lanes sregs).or ((segTrap sg.2).or ((if formatBad p f then some (illegal i g p) else none).or
          -- a slot of another class goes before a hint field and before the address checks (R171, R312)
          ((classTrap i s g p f slot).or
          (if yokeHintBad p f then some (hintTrap i g p (hxWord p))
           else if tile % 2048 ≠ 0 then some (alignTrap 2048 (BitVec.ofNat 64 tile) lanes)
           else if (launchOf s g.launch).desc.stencils ≤ slot then some (permTrap 9 7 0 lanes)
           else ((if fromStore then aShape s g f p.fmt ws sg.1 lanes else none).or (tileTrap s g tile sg.1))))))))
        (let team := teamOf g.core
         let yk := yokeOf s team
         if !yokeRoom yk g.launch g.wg g.core sg.1.length then hold s g p
         else
           match emptyTrap s g slot lanes with
           | some t => takeTrap s g p t none
           | none =>
             let rec8 := if fromStore then some ws else none
             let req := fun (x : Nat × Nat) =>
               ({ id := 0, no := reqNo yk team x.2, core := g.core, launch := g.launch, wg := g.wg, group := g.id, seg := x.1,
                  isLoad := false, slot := physSlot s g slot, prio := prioOf s g, entered := 0, tile := tile + 2048 * x.1,
                  aReg := eff g a, record := rec8, fmt := p.fmt, spa := g.spa, neg := neg, nacc := nacc, had := hadOf p,
                  sat := satOf p, uns := (hxOf p).z, openA := aTouched g p.fmt (eff g a) rec8 x.1 } : YokeReq)
             let rs := sg.1.zipIdx.map req
             let s := rs.foldl enterYoke s
             finish s { g with posted := g.posted ++ rs.map fun r => ⟨r.no, r.seg, r.tile, r.aReg, r.record, r.fmt, false⟩ } p y)

/-- R165 to R173, R381: A rows from registers. -/
def execMma (y : Bool) (gd : Guard) (a : BitVec 6) (sl : BitVec 5) (c : BitVec 6) (n k : Bool) (s : State) : Answer1 :=
  postMma (.mma y gd a sl c n k) y gd a.toNat sl.toNat c.toNat n k false s

/-- R165 to R173, R381: A rows from an A-store record. -/
def execMmaAs (y : Bool) (gd : Guard) (a : BitVec 6) (sl : BitVec 5) (c : BitVec 6) (n k : Bool) (s : State) : Answer1 :=
  postMma (.mmaAs y gd a sl c n k) y gd a.toNat sl.toNat c.toNat n k true s

/-! ## Grants (R164, R174, R425) -/

def paneOf (slot : Nat) : Nat := slot % 16
def planeOf (slot : Nat) : Nat := slot / 16

/-- A request has no earlier one in the table on its slot, nor of its segment on its tile. -/
def eligible (table : List YokeReq) (r : YokeReq) : Bool :=
  !((table.takeWhile fun x => x.id != r.id).any fun x =>
    x.slot == r.slot || (!r.isLoad && !x.isLoad && x.group == r.group && x.seg == r.seg && x.tile == r.tile))

/-- The oldest of some requests, given oldest first, among the highest priority. -/
def highest (rs : List YokeReq) : Option YokeReq :=
  rs.foldl (fun acc r => match acc with
    | none => some r
    | some (a : YokeReq) => if a.prio < r.prio then some r else some a) none

/-- It has waited 512 grants or more. -/
def agedReq (y : Yoke) (r : YokeReq) : Bool := !r.isLoad && decide (r.entered + 512 ≤ y.grants)

/-- The candidate of a pane (R174, step 1). A load may shadow a pass on the pane's other plane (R164). -/
def paneCandidate (y : Yoke) (pane : Nat) : Option YokeReq :=
  let mine := y.table.filter fun r => paneOf r.slot == pane && eligible y.table r
  let busy := y.running.filter fun r => paneOf r.slot == pane
  if busy.isEmpty then
    (mine.find? (agedReq y)).or ((mine.find? fun r => !r.isLoad && planeOf r.slot == mget 0 pane y.front).or (highest mine))
  else if busy.all fun r => !r.isLoad then
    highest (mine.filter fun r => r.isLoad && !(busy.any fun b => b.slot == r.slot))
  else none

/-- Candidates in the order of their grants (R174, step 2): aged first, then by priority, then oldest. -/
def grantOrder (y : Yoke) : List YokeReq :=
  let cs := (List.range 16).filterMap (paneCandidate y)
  let before := fun a b : YokeReq =>
    if agedReq y a != agedReq y b then agedReq y a
    else if a.prio != b.prio then decide (b.prio < a.prio) else decide (a.id < b.id)
  cs.foldl (fun (acc : List YokeReq) r => (acc.takeWhile fun x => before x r) ++ r :: acc.dropWhile fun x => before x r) []

/-- One grant. -/
def grantOne (y : Yoke) (r : YokeReq) : Yoke :=
  { y with table := y.table.filter (fun x => x.id != r.id), running := y.running ++ [r], grants := y.grants + 1,
           front := if r.isLoad then y.front else (mset 0 (paneOf r.slot) (planeOf r.slot) y.front) }

/-- R174: up to two grants of a team. -/
def execYokeGrant (team : Nat) (s : State) : Answer1 :=
  let y := yokeOf s team
  .next (putYoke s team (admitWaiting 64 ((grantOrder y).take 2 |>.foldl grantOne y)))

/-! ## A pass (R86, R169) -/

/-- The values of one row or column: codes, scales, spare. -/
def rowValues (f : Fmt) (scale : Nat) (spare : Option Nat) (uns : Bool) (klen : Nat) (codes scales : List Nat) : List XVal :=
  codes.zipIdx.map fun (c, k) =>
    if klen ≤ k then .fin ⟨false, 0, 0⟩
    else elemValue f scale (scales.getD (k / scaleBlockOf scale) 0) spare uns c

/-- A scale makes a NaN of an element of a row or column (R88). -/
def rowMade (f : Fmt) (scale : Nat) (spare : Option Nat) (uns : Bool) (klen : Nat) (codes scales : List Nat) : Bool :=
  (codes.take klen).zipIdx.any fun (c, k) => elemMade f scale (scales.getD (k / scaleBlockOf scale) 0) spare uns c

/-- Row i of a request's A operand, and whether a scale or the transform made a NaN in it (R88). -/
def aRow (s : State) (g : Group) (r : YokeReq) (klen i : Nat) : List XVal × Bool :=
  let f := fmtA r.fmt
  let sc := fmtScale r.fmt
  let k := kBlock f
  let spare := spareOf f r.fmt r.spa.toNat
  let lane := 8 * r.seg + i
  let parts := match r.record with
    | some ws =>
      let rd := fun a => (aRead s (wgOf s r.launch r.wg) a 1).headD 0
      ((List.range k).map fun x => codeAt rd f.width (elemBit ws f.width lane x),
        (List.range (scaleCount f sc)).map fun j => (rd (shScale ws + lane * scaleCount f sc + j)).toNat)
    | none =>
      let n := k * f.width / 32
      (unpackCodes f.width k ((List.range n).map fun x => getV g lane (r.aReg + x)),
        (List.range (scaleCount f sc)).map fun j => nbits (getV g lane (r.aReg + n + j / 4)).toNat (8 * (j % 4)) 8)
  let xs := rowValues f sc spare r.uns klen parts.1 parts.2
  let made := rowMade f sc spare r.uns klen parts.1 parts.2
  if r.had = 0 then (xs.map (XVal.negIf r.neg), made)
  else ((hadRuns r.had (xs.length + 1) xs).map (XVal.negIf r.neg), made || hadMade r.had (xs.length + 1) xs)

/-- A product of an INT8 request is an exact integer, which has one zero (R86). -/
def XVal.oneZero : XVal → XVal
  | .fin d => if d.m = 0 then .fin ⟨false, 0, 0⟩ else .fin d
  | x => x

/-- The new value of an accumulator, with its flags. -/
def accumulate (r : YokeReq) (as bs : List XVal) (old : Word) : Word × FpFlags :=
  let ps := (as.zip bs).map fun x => if fmtA r.fmt = .s8 then (x.1.mul x.2).oneZero else x.1.mul x.2
  let sum := sumX ps
  let made := sum.isNan && !(as.any XVal.isNan) && !(bs.any XVal.isNan)
  let t := roundX .f32 (.mode .rne) r.sat sum
  let tv := decodeNum .f32 t.1
  let o := if r.nacc then .fin ⟨false, 0, 0⟩ else ofF32 old
  let total := o.add tv
  let made2 := total.isNan && !tv.isNan && !o.isNan
  let c := roundX .f32 (.mode .rne) r.sat total
  (BitVec.ofNat 32 c.1, (t.2.or c.2).or (flagsOf (made || made2) false false false))

/-- The group whose registers a request reads, unless it has retired. -/
def reqGroup (s : State) (r : YokeReq) : Option Group := findGroup s r.group

/-- A request's A operand is open: written since the group's last OPRDY before it, or since it was posted, or released (R130, log
entry 2). -/
def aOpen (s : State) (r : YokeReq) : Bool :=
  r.openA || (match reqGroup s r with
    | some g => g.posted.any fun q => q.no == r.no && q.open_ g
    | none => r.record.isNone)

/-- The 512 words that a pass writes, row by row, and its flags. -/
def passTile (s : State) (r : YokeReq) (olds : List Word) : List (Word × FpFlags) :=
  let y := yokeOf s (teamOf r.core)
  let pl := (mget? r.slot y.planes).getD { cls := 0 }
  let g := (reqGroup s r).getD ((s.sched.groups.head?).getD
    { id := 0, launch := 0, wg := 0, index := 0, core := 0, pos := 0, width := 0, vregs := 0, sregs := 0, octet := 0,
      regOffset := 0, itemBase := 0, slices := [], splits := [] })
  (List.range 8).flatMap fun i =>
    let as := aRow s g r pl.klen i
    (List.range 64).map fun n =>
      if aOpen s r then (Config.freeWord (s.free + 64 * i + n), {})
      else
        let x := accumulate r as.1 (pl.cols.getD n (List.replicate as.1.length (.fin ⟨false, 0, 0⟩))) (olds.getD (64 * i + n) 0)
        (x.1, x.2.or (flagsOf as.2 false false false))

/-- C-store key of a request's tile. -/
def tileKey (s : State) (r : YokeReq) : Nat := bufKey r.core (mget 0 r.core (wgOf s r.launch r.wg).cBase + r.tile)

/-- Request k leaves the running list; waiters and released workgroups follow. -/
def endReq (s : State) (team : Nat) (r : YokeReq) : State :=
  let y := yokeOf s team
  wakeMwait (sweepWgs (putYoke s team { y with running := y.running.filter fun x => x.id != r.id })) r.group

/-- R86, R169, R425: the team's k-th granted request, a pass, writes its tile, after every earlier one of its segment on it. -/
def execYokePassComplete (team k : Nat) (s : State) : Answer1 :=
  let y := yokeOf s team
  match y.running[k]? with
  | none => .next s
  | some r =>
    if r.isLoad || (y.running.take k).any (fun x => !x.isLoad && x.group == r.group && x.seg == r.seg && x.tile == r.tile) then
      .next s
    else
      let base := tileKey s r
      let olds := (List.range 512).map fun i => BitVec.ofNat 32 (leNat (bytesAt s.cores.cstore (base + 4 * i) 4))
      let news := passTile s r olds
      let fl := news.foldl (fun f x => f.or x.2) {}
      let c := setBytes s.cores.cstore base (wordsBytes (news.map (·.1)))
      let s := spendFree { s with cores := { s.cores with cstore := c } } (aOpen s r)
      .next (endReq (noteFlags s r.launch fl) team r)

/-- R163: the columns that a granted load writes, and whether a scale or the transform made a NaN in one (R88). A column whose
source bytes were written since the load was posted has open codes and scales (R164). -/
def planeCols (s : State) (r : YokeReq) : List (List XVal × Bool) :=
  let f := fmtB r.fmt
  let sc := fmtScale r.fmt
  let ws := r.record.getD []
  let base := bufKey r.core (mget 0 r.core (wgOf s r.launch r.wg).wBase)
  let rd := fun a => mget 0 (base + a) s.cores.wstore
  (List.range 64).map fun n =>
    let free := fun k : Nat => (Config.freeWord (s.free + 256 * n + k)).toNat
    let gone := r.openCols.contains n
    let codes := (List.range (kBlock f)).map fun k =>
      if n < shNlen ws then (if gone then free k % 2 ^ f.width else codeAt rd f.width (elemBit ws f.width k n)) else 0
    let scales := (List.range (scaleCount f sc)).map fun j =>
      if gone then free (128 + j) % 256 else (rd (shScale ws + n * scaleCount f sc + j)).toNat
    let klen := if n < shNlen ws then shKlen ws else 0
    let spare := spareOf f r.fmt (dw ws 6 % 65536)
    let xs := rowValues f sc spare r.uns klen codes scales
    let made := rowMade f sc spare r.uns klen codes scales
    if r.had = 0 then (xs, made) else (hadRuns r.had (xs.length + 1) xs, made || hadMade r.had (xs.length + 1) xs)

/-- R163, R164: the team's k-th granted request, a load, writes its plane. -/
def execStencilPlaneWritten (team k : Nat) (s : State) : Answer1 :=
  let y := yokeOf s team
  match y.running[k]? with
  | none => .next s
  | some r =>
    if !r.isLoad then .next s
    else
      let cols := planeCols s r
      let fl := flagsOf (cols.any fun c => c.2) false false false
      let cls := (mget? r.slot y.planes).elim ((yokeClass (fmtB r.fmt)).elim 0 fun x => x.1) fun p => p.cls
      let pl : Plane := { cls := cls, klen := shKlen (r.record.getD []), cols := cols.map fun c => c.1 }
      let s := putYoke s team { y with planes := mput r.slot pl y.planes }
      let s := spendFree s !r.openCols.isEmpty
      .next (endReq (noteFlags s r.launch fl) team r)

/-! ## OPRDY and MWAIT (R175, R176, R383) -/

/-- R175. -/
def execOprdy (y : Bool) (s : State) : Answer1 :=
  issueAt (.oprdy y) {} s fun g p =>
    let s := parkAt s g p y .oprdy
    match findGroup s g.id with
    | some g => putGroup s (wakeOprdy g)
    | none => s

/-- R176. -/
def execMwait (y : Bool) (n : BitVec 6) (s : State) : Answer1 :=
  issueAt (.mwait y n) {} s fun g p => wakeMwait (parkAt s g p y (.mwait n.toNat)) g.id

end Sys2Proof.Machine
end

