-- ==== Sys2Proof/Machine/Exit.lean ====
section
/-! DEFINITION. Exit.lean: EXIT, the retirement of lanes, slices, groups, workgroups and launches (R39, R48, R49, R141, R232,
R352, R353). -/

namespace Sys2Proof.Machine

/-- A long result without the results of some lanes; none where nothing of it is left (R352). -/
def discardLanes (gone : BitVec 128) (dead : Bool) (r : LongResult) : Option LongResult :=
  let out := fun l : Nat => gone.getLsbD l
  let r' := { r with
    lanes := r.lanes &&& ~~~ gone,
    v := r.v.filter fun d => !out (d.1 / 256),
    parts := r.parts.filter fun x => x.isScalar || !out x.lane,
    kind := match r.kind with
      | .mem fs ws bad => .mem fs ws (bad.filter fun b => !out b.lane)
      | .late bad => .late (bad.filter fun b => !out b.lane)
      | k => k }
  let empty := match r'.kind with
    | .value => r'.v.isEmpty && r'.s.isEmpty && r'.q.isNone
    | .mem _ _ _ => r'.parts.isEmpty
    | .late bad => bad.isEmpty
    | .wash _ => r'.v.isEmpty
    | .fence _ => false
  if dead || empty then none else some r'

/-- A slice after lanes of it have retired (R39). -/
def retireSlice (x : BitVec 4) (sl : Slice) : Slice :=
  { sl with mask := sl.mask &&& ~~~ x, live := sl.live &&& ~~~ x,
            stack := sl.stack.map fun e => { e with saved := e.saved &&& ~~~ x, pending := e.pending &&& ~~~ x } }

/-- Lanes that exit in trap state leave the resume state, and a slice without lanes goes with them (R353). -/
def leaveResume (gone : Nat → BitVec 4) (dead : Nat → Bool) (r : Resume) : Resume :=
  { r with masks := (r.masks.filter fun x => !dead x.1).map fun x => (x.1, x.2 &&& ~~~ gone x.1) }

/-- The group after lanes have retired: slices, results, and retired slices taken from splits and forks. -/
def retireLanes (g : Group) (gone : List Nat) : Group :=
  let slices := g.slices.zipIdx.map fun (sl, j) => retireSlice (sliceMask j gone) sl
  let dead := fun j : Nat => (slices.getD j ⟨0, 0, [], 0⟩).live == 0
  let liveLanes := laneBits ((List.range slices.length).flatMap fun j => if dead j then [] else sliceLanes j 15)
  { g with slices := slices,
           pend := g.pend.filterMap fun r => discardLanes (laneBits gone) ((r.owner &&& liveLanes) == 0) r,
           splits := g.splits.map fun p => { p with resume := p.resume.map (leaveResume (sliceMask · gone) dead) },
           forks := g.forks.map fun f => { f with slices := f.slices.filter fun j => !dead j } }

/-- Unpublished slots of exiting lanes of a chained launch (R48). -/
def deferLanes (s : State) (g : Group) (gone : List Nat) : List Deferred :=
  let d := (launchOf s g.launch).desc
  if d.kmax = 0 then []
  else gone.flatMap fun l => ((List.range d.slots).filter fun k => !hasPublished g l k).map fun k =>
    ⟨g.launch, itemOf g l, k, g.core, g.id⟩

/-- A group of a chained launch retires: its entry keeps the slots that deferred publications still read, and the entry of the group
before it has served (R49). -/
def relayGroup (s : State) (g : Group) : State :=
  if (launchOf s g.launch).desc.kmax = 0 then s
  else
    let need := g.published.filter fun (k, _) => deferredNeeds s g.launch (itemOf g (k / 4)) (k % 4) &&
      (relaySlot s g.launch (itemOf g (k / 4)) (k % 4)).isNone
    let slots := need.map fun (k, v) => (⟨itemOf g (k / 4), k % 4, v, [(g.core, g.id)]⟩ : RelaySlot)
    let mark := fun e : RelayEntry =>
      if e.launch == g.launch && e.group == g.id then { e with slots := e.slots ++ slots }
      else if e.launch == g.launch && e.first + e.width == g.itemBase.toNat then { e with served := true }
      else e
    { s with sched := { s.sched with relay := s.sched.relay.map mark },
             pre := { s.pre with saved := s.pre.saved.map fun x => { x with relay := x.relay.map mark } } }

/-- A collective whose start has trapped in a group that is still there, and may make it again (R141). -/
def startTrapped (s : State) (w : Workgroup) (c : DrayColl) : Bool :=
  c.trapped.any fun k => s.sched.groups.any fun g => g.launch == w.launch && g.wg == w.wg && g.index == k

/-- Starts the collective copies that wait only for groups that have retired; one that a resident group's trap has left to it is its own
(R141). Copies that find their channel full enter it when a place frees (R143, log entry 54). -/
def startDrays (s : State) (launch wg : Nat) : State :=
  (wgOf s launch wg).dray.foldl (fun s c =>
    let w := wgOf s launch wg
    if !w.dray.contains c || c.arrivals.isEmpty || startTrapped s w c || !allArrived s w c then s
    else match startDray s w c with
      | some s => s
      | none =>
        match leadOf c with
        | none => s
        | some lead =>
          updateBar (putWg s { w with dray := w.dray.erase c }) (barAt w lead) (.error 1) (some lead.core)) s

/-- The launch has completed: its record, its rays that wait for an answer (R232, R353). -/
def completeLaunch (s : State) (id : Nat) : State :=
  let l := launchOf s id
  let s := putLaunch s { l with completed := true }
  let s := sweepRelay { s with sched := { s.sched with relay := s.sched.relay.map fun e =>
    if e.launch == id then { e with served := true } else e } }
  postLaunchRecord (abortWaiting s id) l 0 (flagBits l.flags) l.retired

/-- Workgroups of a launch. -/
def gridSize (d : LaunchDesc) : Nat := d.gridX * d.gridY * d.gridZ

/-- A workgroup's last group has retired: its copies that have not started do not start; its reservations go once nothing uses
them; the launch may be complete (R39, R141, R353). -/
def retireWg (s : State) (launch wg : Nat) : State :=
  let s := putWg s { wgOf s launch wg with groupsLeft := 0, dray := [] }
  let s := { s with tier := { s.tier with tpf := s.tier.tpf.filter fun t => !(t.launch == launch && t.wg == wg && t.isLocal) } }
  let s := sweepWgs s
  let l := { launchOf s launch with retired := (launchOf s launch).retired + 1 }
  let s := putLaunch s l
  if l.retired = gridSize l.desc then completeLaunch s launch else s

/-- A group with no slice left retires, and counts as arrived at every barrier of its launch (R39, R242, R353). -/
def retireGroup (s : State) (g : Group) : State :=
  let s := relayGroup s g
  let s := sweepRelay { s with sched := { s.sched with groups := s.sched.groups.filter fun h => h.id != g.id } }
  let w := wgOf s g.launch g.wg
  if w.groupsLeft ≤ 1 then releaseAll (retireWg s g.launch g.wg) g.launch
  else
    let s := putWg s { w with groupsLeft := w.groupsLeft - 1 }
    releaseAll (startDrays s g.launch g.wg) g.launch

/-- The slices of the split that go on after an EXIT: those with an empty mask perform their join actions (R33, R352). -/
def exitConts (g : Group) (p : Split) (next : DWord) : List Cont :=
  (p.slices.filter fun j => (sliceAt g j).live != 0).map fun j => ⟨j, next, p.fmt⟩

/-- Join actions of the slices whose every running lane has exited; a slice that still runs performs those due at its next PC when
it is about to issue there (R33). -/
def settleExit (rd : Nat → Nat → MaskEntry) (g : Group) (p : Split) (cs : List Cont) : Group :=
  settleWhere (fun c => (sliceAt g c.slice).mask == 0) rd g p cs

/-- The effect of EXIT on the lanes of a split. -/
def exitLanes (s : State) (g : Group) (p : Split) (y : Bool) (gone : List Nat) : State :=
  let h := retireLanes g gone
  let q := advance p y
  let cs := exitConts h p (nextPc p)
  let due := cs.filter fun c => (sliceAt h c.slice).mask == 0
  let after := fun s : State =>
    let s := { s with sched := { s.sched with deferred := s.sched.deferred ++ deferLanes s g gone } }
    let h := mergeAll (settleExit (readEntry s h) (putSplit h q) q cs)
    let s := putGroup s (wakeOprdy h)
    if h.slices.all fun sl => sl.live == 0 then retireGroup s h
    else releaseAll s g.launch
  match refills s h due with
  | [] => after s
  | xs =>
    match checkLanes s (whoOf s g) .read false 1 32 32 (spillAccesses s g xs) with
    | .ok _ => after (noteAll s (whoOf s g) (xs.map fun x => (spillAddr s g x.1 x.2).toNat))
    | .trap t => takeTrap s g p t none
    | .park va lv _ => parkOn s g p 9 .read va lv
    | .wait => hold s g p

/-- R39, R48, R352, R353. With Y it first waits for the outstanding long results. -/
def execExit (y : Bool) (gd : Guard) (s : State) : Answer1 :=
  issueAt (.exit y gd) {} s fun g p =>
    match active g p gd with
    | [] => finish s g p y
    | gone =>
      if y && !(outstanding g p).isEmpty then putGroup s (putSplit g { backTo p .ready with ypark := true })
      else exitLanes s g p y gone

end Sys2Proof.Machine
end

