-- ==== Sys2Proof/Machine/Blake.lean ====
section
/-! DEFINITION. Blake.lean: the unkeyed BLAKE3 digest of a block (R222), whose algorithm the spec names and does not give
(log entry 24). -/

namespace Sys2Proof.Machine

/-- The initial values. -/
def blakeIv : List Word :=
  [0x6A09E667#32, 0xBB67AE85#32, 0x3C6EF372#32, 0xA54FF53A#32, 0x510E527F#32, 0x9B05688C#32, 0x1F83D9AB#32, 0x5BE0CD19#32]

/-- The permutation of the message words between rounds. -/
def blakePerm : List Nat := [2, 6, 3, 10, 7, 0, 4, 13, 1, 11, 12, 5, 9, 14, 15, 8]

/-- The quarter round on positions a, b, c and d with message words x and y. -/
def blakeG (a b c d : Nat) (x y : Word) (v : List Word) : List Word :=
  let g := fun i => v.getD i 0
  let a1 := g a + g b + x
  let d1 := (g d ^^^ a1).rotateRight 16
  let c1 := g c + d1
  let b1 := (g b ^^^ c1).rotateRight 12
  let a2 := a1 + b1 + y
  let d2 := (d1 ^^^ a2).rotateRight 8
  let c2 := c1 + d2
  let b2 := (b1 ^^^ c2).rotateRight 7
  (((v.set a a2).set b b2).set c c2).set d d2

/-- Columns and diagonals of a round. -/
def blakeQuarters : List (Nat × Nat × Nat × Nat) :=
  [(0, 4, 8, 12), (1, 5, 9, 13), (2, 6, 10, 14), (3, 7, 11, 15), (0, 5, 10, 15), (1, 6, 11, 12), (2, 7, 8, 13), (3, 4, 9, 14)]

def blakeRound (m v : List Word) : List Word :=
  blakeQuarters.zipIdx.foldl (fun v (q, i) => blakeG q.1 q.2.1 q.2.2.1 q.2.2.2 (m.getD (2 * i) 0) (m.getD (2 * i + 1) 0) v) v

/-- Rounds, the message words permuted after each. -/
def blakeRounds : Nat → List Word → List Word → List Word
  | 0, _, v => v
  | k + 1, m, v => blakeRounds k (blakePerm.map fun i => m.getD i 0) (blakeRound m v)

/-- The compression function: its first eight words. -/
def blakeCompress (cv m : List Word) (counter len flags : Nat) : List Word :=
  let v := blakeRounds 7 m (cv ++ blakeIv.take 4 ++
    [BitVec.ofNat 32 counter, BitVec.ofNat 32 (counter / 2 ^ 32), BitVec.ofNat 32 len, BitVec.ofNat 32 flags])
  (List.range 8).map fun i => v.getD i 0 ^^^ v.getD (i + 8) 0

/-- Blocks of 64 bytes of a chunk: CHUNK_START is 1, CHUNK_END 2. -/
def blakeBlocks (counter n : Nat) : Nat → List Byte → List Word → List Word
  | 0, _, cv => cv
  | k + 1, bs, cv =>
    let flags := (if k + 1 = n then 1 else 0) + (if k = 0 then 2 else 0)
    blakeBlocks counter n k (bs.drop 64) (blakeCompress cv (bytesWords (bs.take 64)) counter 64 flags)

/-- Chaining value of a chunk of 1,024 bytes. -/
def blakeChunk (counter : Nat) (bs : List Byte) : List Word := blakeBlocks counter 16 16 bs blakeIv

/-- Pairs of chaining values under their parents: PARENT is 4, ROOT 8. -/
def blakePairs (root : Bool) : List (List Word) → List (List Word)
  | a :: b :: r => blakeCompress blakeIv (a ++ b) 0 64 (if root then 12 else 4) :: blakePairs root r
  | r => r

/-- The tree over chunks whose count is a power of two. -/
def blakeTree : Nat → List (List Word) → List Word
  | 0, xs => xs.headD []
  | k + 1, xs => blakeTree k (blakePairs (k == 0) xs)

/-- The first 16 bytes of the digest of 64 KiB (R222). -/
def blakeHash (bs : List Byte) : List Byte :=
  let chunks := (List.range 64).map fun i => blakeChunk i ((bs.drop (1024 * i)).take 1024)
  wordsBytes ((blakeTree 6 chunks).take 4)

end Sys2Proof.Machine
end

