-- ==== Sys2Proof/Machine/ViewUnit.lean ====
section
/-! DEFINITION. ViewUnit.lean: VQRY, and the Copyist: taking dirty blocks, recomputing view blocks and poisoning them
(R207 to R211, R214 to R216, R416). -/

namespace Sys2Proof.Machine

/-! ## VQRY (R215, R416) -/

/-- R215, R416: the state of the view block that holds a byte. -/
def execVqry (y : Bool) (gd : Guard) (n : BitVec 6) (b q : BitVec 3) (s : State) : Answer1 :=
  issueQ (.vqry y gd n b q) {} y gd s fun g p =>
    let x := 2 * n.toNat
    let d := 8 * b.toNat
    let va := (getS64 g x).toNat
    let lanes := allOf g p
    orTrap s g p (sCheck g p [x, x + 1, d])
      (withChecked s g p 1 .read (checkObject s (whoOf s g) lanes .read false 1 1 1 va) fun xs =>
        let pa := match xs with | (_, pa, _) :: _ => pa | [] => 0
        match viewHits s pa 1 with
        | [] => takeTrap s g p (permTrap 6 1 (BitVec.ofNat 64 va) lanes) none
        | (v, _, blk) :: _ =>
          if fenceHolds s g (enabled g p) [(va, 1)] then hold s g p
          else
            let k := viewState s v blk
            finish (noteXlate s (whoOf s g) va)
              (addLong g p (enabled g p) [] [(d, BitVec.ofNat 32 k)] (some (q.toNat, k == 0))) p y)

/-- R215, R416: VSTALE is read and cleared. -/
def execVqrySt (y : Bool) (gd : Guard) (b q : BitVec 3) (s : State) : Answer1 :=
  issueQ (.vqrySt y gd b q) {} y gd s fun g p =>
    let d := 8 * b.toNat
    orTrap s g p (sCheck g p [d])
      (finish s { addLong g p (enabled g p) [] [(d, BitVec.ofNat 32 (b2n g.vstale))] (some (q.toNat, g.vstale)) with
        vstale := false } p y)

/-! ## Malformed entries (R207) -/

/-- An entry that breaks R207. -/
def ViewEntry.malformed (s : State) (v : ViewEntry) : Bool :=
  decide (2 < v.mfmt) || decide (9 < v.vfmt) || v.scale == 3 || decide (1 < v.qrnd) || v.policy == 3 || v.dirtyZero ||
  v.mbase % 4096 != 0 || v.mlen % 4096 != 0 || v.mlen == 0 || (mget? v.asid s.xlat.binds).isNone ||
  (v.kind != 3 && v.stag != 0) ||
  (match v.kind with
   | 0 => !(decide (3 ≤ v.vfmt) && decide (v.vfmt ≤ 8)) || v.had != 0
   | 2 => !(decide (3 ≤ v.vfmt) && decide (v.vfmt ≤ 8)) || v.had == 0
   | 1 => v.vfmt != v.mfmt || v.scale != 0 || v.had != 0 || v.mlen % (v.cols * v.msize) != 0 ||
       (v.tile && (v.rows % v.tr != 0 || v.cols % v.tc != 0))
   | _ => (v.vfmt != v.mfmt && !(decide (3 ≤ v.vfmt) && decide (v.vfmt ≤ 8))) || v.had != 0)

/-! ## Values (R208, R211) -/

/-- Master elements of a block, as codes. -/
def masterCodes (v : ViewEntry) (bs : List Byte) : List Nat :=
  (List.range v.perBlock).map fun k => fieldAt bs (v.msize * k) v.msize

/-- A format of the view table. -/
def fmtOf (code : Nat) : Fmt := (Fmt.ofCode code).getD .f32

/-- Elements are copied bit-exact (R211). -/
def ViewEntry.copies (v : ViewEntry) : Bool := v.kind == 1 || (v.kind == 3 && v.vfmt == v.mfmt)

/-- Codes and scale byte of a block, with SPARE (R72, R79, R211): elements equal to the spare value get code 8 and stay out of
amax, but a NaN or an infinity among the elements gives the NaN scale and codes 0. -/
def viewBlockCodes (v : ViewEntry) (xs : List XVal) : Nat × List Nat :=
  let f := fmtOf v.vfmt
  let mode := if v.qrnd = 1 then RMode.rz else RMode.rne
  let isSpare := fun x : XVal => v.spareEn && f == .e2m1 && x.eq (decodeNum .bf16 v.spare)
  if v.scale ≠ 0 && blockSpecial xs then (blockScale f v.scale xs, xs.map fun _ => 0)
  else
    let r := quantBlock f v.scale v.spareEn (xs.map fun _ => .mode mode)
      (xs.map fun x => if isSpare x then .fin ⟨false, 0, 0⟩ else x)
    (r.1, (r.2.1.zip xs).map fun (c, x) => if isSpare x then 8 else c)

/-- Cuts a list into runs of n; n = 0 is one run. -/
def runsOf {α : Type} (n : Nat) : Nat → List α → List (List α)
  | 0, _ => []
  | k + 1, xs => if xs.isEmpty then [] else if n = 0 then [xs] else xs.take n :: runsOf n k (xs.drop n)

/-- Bytes that a view block writes: elements, then scales, as (virtual address, bytes). -/
def viewWrites (v : ViewEntry) (b : Nat) (bs : List Byte) : List (Nat × List Byte) :=
  let first := b * v.perBlock
  let codes := masterCodes v bs
  if v.kind = 1 then
    codes.zipIdx.map fun (c, k) =>
      let j := first + k
      let r := j / v.cols
      let col := j % v.cols
      let at_ := if v.tile then
          (r / v.tr * (v.cols / v.tc) + col / v.tc) * (v.tr * v.tc) + r % v.tr * v.tc + col % v.tc
        else col * v.rows + r
      (v.vbase + at_ * v.msize, leBytes v.msize c)
  else if v.copies then [(v.vbase + first * v.msize, bs)]
  else
    let xs := codes.map (decodeNum (fmtOf v.mfmt))
    let ys := if v.kind = 2 then hadRuns (2 ^ (v.had + 3)) (xs.length + 1) xs else xs
    let qs := (runsOf v.scaleBlock (ys.length + 1) ys).map (viewBlockCodes v)
    let all := qs.flatMap fun q => q.2
    let elems := (v.vbase + first * v.width / 8, wordsBytes (packCodes v.width (all.length * v.width / 32) all))
    if v.scaleBlock = 0 then [elems]
    else [elems, (v.sbase + first / v.scaleBlock, qs.map fun q => BitVec.ofNat 8 q.1)]

/-- The master block holds a NaN or an infinity. -/
def hasSpecial (v : ViewEntry) (bs : List Byte) : Bool :=
  (masterCodes v bs).any fun c => match decodeNum (fmtOf v.mfmt) c with | .fin _ => false | _ => true

/-- The cause of R216 that a view block meets before it is written, the lowest first (log entry 25). -/
def viewCause (s : State) (v : ViewEntry) (d : List Byte × Bool) : Option Nat :=
  if v.malformed s then some 5
  else if v.fpol && hasSpecial v d.1 then some 1
  else if d.2 then some 2
  else none

/-! ## Writing a view (R203, R210, R212) -/

/-- Pieces of a virtual range within one page of 64 KiB each. -/
def pagePieces : Nat → Nat → List Byte → List (Nat × List Byte)
  | 0, _, _ => []
  | k + 1, va, bs =>
    let n := 65536 - va % 65536
    if bs.length ≤ n then [(va % 2 ^ 64, bs)] else (va % 2 ^ 64, bs.take n) :: pagePieces k (va + n) (bs.drop n)

/-- Physical places of pieces. A view's own bytes are view ranges, which only the Copyist writes. -/
def viewPlaces (st asid : Nat) : List (Nat × List Byte) → State → Eng (List (Nat × List Byte))
  | [], s => .ok s []
  | (va, bs) :: r, s =>
    let w := whoEng s st asid
    if !canonical va then .stop s va 1
    else match xlate { s with die0 := { s.die0 with viewTable := 0 } } w .write false va bs.length with
    | .bad _ => .stop s va 1
    | .fault lv => .park s .write va lv
    | .ok pa _ => (viewPlaces st asid r (noteXlate s w va)).bind fun s xs => .ok s ((pa, bs) :: xs)

/-- Some place lies in peer memory. -/
def peerPlaces (s : State) (xs : List (Nat × List Byte)) : List Nat :=
  (xs.filterMap fun x => match physOf s.plat.walk x.1 with | .peer n => some n | _ => none).dedup

/-- Writes bytes at their places, with the acknowledgement of what goes to a peer. -/
def writePlaces (s : State) (xs : List (Nat × List Byte)) : State :=
  let s := xs.foldl (fun s x => putMs s (engineWrite s.clock.ps .device x.1 x.2 s.ms)) s
  { s with ms := (peerPlaces s xs).foldl performPeer s.ms }

/-- The tags of a view block (R208, R211): a shard's shadow tag comes last. -/
def tagWrites (v : ViewEntry) (b t : Nat) (peer : Bool) : List (Nat × List Byte) :=
  let bs := leBytes 4 t
  if v.kind = 3 then (if peer then [(v.tbase + 4 * b, bs), (v.stag + 4 * b, bs)] else [(v.stag + 4 * b, bs)])
  else [(v.tbase + 4 * b, bs)]

/-- The view-error record (R216). -/
def viewError (s : State) (v : ViewEntry) (b cause : Nat) : State :=
  let die := (masterOf s v b).elim 0 fun m => stackOf (m.1 * 4096) / 4
  postRecord s v.ring v.asid die 5 10 (cause + 256 * (v.idx % 256)) ((v.mbase + 4096 * b) % 2 ^ 64) v.tag 6
    ((masterOf s v b).elim 0 fun m => stackOf (m.1 * 4096))

/-- Writes a view block's bytes and tag. A shard whose peer cannot acknowledge is poisoned with cause 3. -/
def writeView (s : State) (st : Nat) (v : ViewEntry) (b t : Nat) (cause : Option Nat) (ws : List (Nat × List Byte)) :
    Eng Unit :=
  let pieces := fun (xs : List (Nat × List Byte)) => xs.flatMap fun x => pagePieces (x.2.length / 65536 + 2) x.1 x.2
  (viewPlaces st v.asid (pieces (ws ++ tagWrites v b t true)) s).bind fun s xs =>
    let down := !(peerPlaces s xs).isEmpty && s.plat.linkUp == 0
    if down && s.plat.linkRetraining != 0 then .wait s []
    else if down then
      (viewPlaces st v.asid (pieces (tagWrites v b (t % 2 ^ 31 + 2 ^ 31) false)) s).bind fun s xs =>
        .ok (viewError (writePlaces s xs) v b (cause.getD 3)) ()
    else
      let s := writePlaces s xs
      .ok (match cause with | some c => viewError s v b c | none => s) ()

/-- Poisons a view block. -/
def poisonView (s : State) (st : Nat) (v : ViewEntry) (b ver cause : Nat) : Eng Unit :=
  writeView s st v b (ver % 2 ^ 31 + 2 ^ 31) (some cause) []

/-- The bytes of a view table's entry. -/
def entryBytesOf (s : State) (i : Nat) : List Byte := readHome s.ms (s.die0.viewTable + 128 * i) 128

/-- The other view blocks of a malformed entry, which are poisoned with the first one that is taken (R207). -/
def otherBlocks (s : State) (v : ViewEntry) (b : Nat) : List (Nat × Nat) :=
  if s.tier.badViews.contains (v.idx, entryBytesOf s v.idx) then []
  else ((List.range (v.mlen / 4096)).filter fun k => k != b).map fun k => (v.idx, k)

/-- A block of this malformed entry has been taken. -/
def noteBad (s : State) (i : Nat) : State :=
  { s with tier := { s.tier with badViews := (i, entryBytesOf s i) :: s.tier.badViews.filter fun x => x.1 != i } }

/-! ## The Copyist's steps (R210, R203, R204) -/

/-- Changes job k. -/
def onJob (s : State) (k : Nat) (f : ViewJob → ViewJob) : State :=
  { s with tier := { s.tier with jobs := modifyNth f k s.tier.jobs } }

/-- View and view block that a job writes next. -/
def ViewJob.now (j : ViewJob) : Option (Nat × Nat) := (j.poison ++ j.views).head?

/-- A job whose present view block is done, with further ones to poison. -/
def ViewJob.after (j : ViewJob) (more : List (Nat × Nat)) : ViewJob :=
  { j with aborted := false, poison := j.poison.drop 1 ++ more, views := if j.poison.isEmpty then j.views.drop 1 else j.views }

/-- Job k goes on to its next view block, or has ended. -/
def nextView (s : State) (k : Nat) (more : List (Nat × Nat) := []) : State :=
  match s.tier.jobs[k]? with
  | none => s
  | some j =>
    let j := j.after more
    if j.now.isNone then { s with tier := { s.tier with jobs := dropNth k s.tier.jobs } } else onJob s k fun _ => j

/-- Reads the master block once, at device scope, by a lock-step read. -/
def readMaster (s : State) (k : Nat) (j : ViewJob) : State × (List Byte × Bool) :=
  match j.data with
  | some d => (s, d)
  | none =>
    let pa := j.block * 4096
    let r := engineRead s.clock.ps pa 4096 s.ms
    let s := releaseBanks (putMs s r.1) (stackOf pa)
    let d := (r.2, !(poisonedAtoms s.ms.dram pa 4096).isEmpty)
    (onJob s k fun j => { j with data := some d }, d)

/-- A Copyist job stops with its record (R204); the fields that no rule gives it are open. -/
def stopView (s : State) (k st asid va cause b : Nat) : State :=
  let open_ := fun i => (Config.freeWord (s.free + i)).toNat
  let s := engineRecord s st 3 cause b asid va (open_ 0) (open_ 1) 0
  freeBanks (onJob { s with free := s.free + freeStep } k fun j => { j with stopped := true })

/-- An older recomputation of the same master block is under way: it writes its tags first (R210). -/
def jobHeld (s : State) (k : Nat) (j : ViewJob) : Bool := (s.tier.jobs.take k).any fun x => x.block == j.block

/-- Version that a job writes into the tag of its present view block: the one it took, and of a block that is only poisoned that of its
own master block. -/
def ViewJob.tagVersion (s : State) (j : ViewJob) (v : ViewEntry) (b : Nat) : Nat :=
  if j.poison.isEmpty then j.version else (masterOf s v b).elim 0 fun m => (blockOf s m.1 m.2).version

/-- Writes the present view block of job k, tag last, and tells the cause of its poison if it has one. -/
def writeNow (s : State) (k : Nat) (j : ViewJob) (st : Nat) (v : ViewEntry) (b : Nat) : Option Nat × Eng Unit :=
  let ver := j.tagVersion s v b
  if j.aborted then (none, poisonView s st v b ver 4)
  else if !j.poison.isEmpty then (none, poisonView s st v b ver 5)
  else
    let r := readMaster s k j
    match viewCause r.1 v r.2 with
    | some c => (some c, poisonView r.1 st v b ver c)
    | none => (none, writeView r.1 st v b ver none (viewWrites v b r.2.1))

/-- R207, R210, R211, R216: the k-th recomputation writes its next view block. -/
def execViewBlockRecompute (k : Nat) (s : State) : Answer1 :=
  match s.tier.jobs[k]? with
  | none => .next s
  | some j =>
    if j.stopped || j.parked.isSome || jobHeld s k j then .next s
    else
      let st := stackOf (j.block * 4096)
      match j.now with
      | none => .next (nextView s k)
      | some (i, b) =>
        let v := readView s.ms s.die0.viewTable i
        let out := writeNow s k j st v b
        let more := if out.1 = some 5 then otherBlocks s v b else []
        match out.2 with
        | .ok s _ => .next (nextView (if out.1 = some 5 then noteBad s i else s) k more)
        | .park s acc va lv =>
          let s := faultRecord s (st / 4) 6 acc.bits st v.asid va lv
          .next (onJob s k fun j => { j with parked := some (st / 4, v.asid, va) })
        | .stop s va c => .next (stopView s k st v.asid va c b)
        | .wait s _ => .next s

/-- An aborted job poisons its view block with cause 4 and goes on with its next view (R204, R216); where the tag's page or the link
keeps that from being done at once, it is the job's next step. A tag that cannot be written at all leaves the record alone. -/
def abortView (s : State) (k : Nat) : State :=
  match s.tier.jobs[k]? with
  | none => s
  | some j =>
    let st := stackOf (j.block * 4096)
    let s := onJob s k fun j => { j with stopped := false, parked := none, aborted := true }
    match j.now with
    | none => nextView s k
    | some (i, b) =>
      let v := readView s.ms s.die0.viewTable i
      match poisonView s st v b (j.tagVersion s v b) 4 with
      | .ok s _ => nextView s k
      | .park s acc va lv =>
        let s := faultRecord s (st / 4) 6 acc.bits st v.asid va lv
        onJob s k fun j => { j with parked := some (st / 4, v.asid, va) }
      | .stop s _ _ => nextView (viewError s v b 4) k
      | .wait s _ => s

/-- A stack's settle interval in ps (R210, R279): SETTLE counts 0.1 µs. -/
def settlePs (s : State) (st : Nat) : Nat := (ctlOf s st).settle * 100_000

/-- A master block whose settle interval has passed. -/
def settled (s : State) (mb : Nat) (k : MasterBlock) : Bool :=
  k.dirty && !deadStack s (stackOf (mb * 4096)) && decide (k.marked + settlePs s (stackOf (mb * 4096)) ≤ s.clock.ps)

/-- The first block of a master range that the controller holds no state of. -/
def firstUnlisted (d : Meta) (r : Nat × Nat × Nat) : Option Nat :=
  ((List.range (min (r.2.1 / 4096) (d.blocks.length + 1))).map (· + r.1 / 4096)).find? fun b => (mget? b d.blocks).isNone

/-- A dirty master block that the settle interval gives to the Copyist, whether a view covers it or not (R210). -/
def settledBlock (s : State) : Option Nat :=
  let d := s.ms.dram
  (d.blocks.map (·.1) ++ d.mRanges.filterMap (firstUnlisted d)).find? fun b =>
    settled s b (blockSt d b) && forwarded d (b * 4096) == b * 4096

/-- R210: a dirty block that has received no mark for the settle interval is taken. -/
def execSettleIntervalExpiry (block : Nat) (s : State) : Answer1 :=
  if settled s block (blockSt s.ms.dram block) then .next (takeBlock s block) else .next s

end Sys2Proof.Machine
end

