-- ==== Sys2Proof/Machine/Tier.lean ====
section
/-! DEFINITION. Tier.lean: the Vellum tier: the Palette's fills, TPF, INSTALL, CKPT and the steps of the Vellum stacks and
Blotters (R110, R217 to R223, R343, R344, R368, R369, R409). -/

namespace Sys2Proof.Machine

/-! ## Palette (R110, R217, R218) -/

/-- Folios that one stack's share of the Palette holds: PALETTE_CTL gives the whole of it in GiB. -/
def paletteShare (s : State) : Nat := s.plat.paletteGib * 16384 / Config.numStacks

/-- Drops the least recently used folio of a stack's share when it is full. -/
def makeRoom (s : State) (st : Nat) (p : List Nat) : List Nat :=
  let mine := p.filter fun f => paletteStack f == st
  if mine.length < paletteShare s then p else match mine with | f :: _ => p.erase f | [] => p

/-- Marks or clears the poison of a folio's atoms. -/
def setFolioPoison (f : Nat) (bad : Nat → Bool) (d : Meta) : Meta :=
  (List.range 2048).foldl (fun d i =>
    let a := f * 2048 + i
    let x := mget {} a d.flags
    { d with errs := mdel a d.errs, flags := (mset {} a { x with p := bad i } d.flags) }) d

/-- A folio has become resident for the bound prefetches that wait for it (R218). -/
def settleTpf (s : State) (f : Nat) (failed : Bool) : State :=
  let mine := s.tier.tpf.filter fun t => t.folios.contains f
  let s := mine.foldl (fun s t =>
    let s := if failed then postBar s t.bar (.error 5) else s
    postBar (markPhase s t.bar) t.bar (.deliver 65536)) s
  let left := (s.tier.tpf.map fun t => { t with folios := t.folios.filter fun x => x != f }).filter fun t => !t.folios.isEmpty
  { s with tier := { s.tier with tpf := left } }

/-- R110, R217, R218: the fill of a folio ends; a read of Vellum that fails fills it poisoned. -/
def execVellumFolioFill (folio : Nat) (failed : Bool) (s : State) : Answer1 :=
  if !s.tier.fills.contains folio then .next s
  else
    let p := makeRoom s (paletteStack folio) s.tier.palette
    let s := { s with tier := { s.tier with palette := p ++ [folio], fills := s.tier.fills.filter fun x => x != folio },
                      ms := { s.ms with dram := setFolioPoison folio (fun _ => failed) s.ms.dram } }
    .next (settleTpf s folio failed)

/-! ## TPF (R218, R409) -/

/-- What the checks of a range give. -/
inductive TpfCheck where
  | ok (folios vas : List Nat)
  | trap (t : Trap)
  | park (va level : Nat)
  deriving DecidableEq, Repr

/-- R409: the range's pages, each translated as a load's. -/
def tpfCheck (s : State) (g : Group) (lanes : BitVec 128) (base len : Nat) : TpfCheck :=
  let at_ := BitVec.ofNat 64 base
  if 2 ^ 64 < base + len then .trap (permTrap 1 6 at_ lanes)
  else if 65536 < rangePages base len then .trap (permTrap 6 6 at_ lanes)
  else
    let vas := (List.range (rangePages base len)).map fun i => (base / 65536 + i) * 65536
    let rs := vas.map fun va => (va, if canonical va then xlate s (whoOf s g) .read false va 1 else Xl.bad 1)
    match rs.findSome? fun x => match x.2 with | .bad r => some (x.1, r) | _ => none with
    | some (va, r) => .trap (permTrap r 6 (BitVec.ofNat 64 va) lanes)
    | none =>
      if rs.any fun x => match x.2 with | .ok _ a => !a.vellum | _ => false then .trap (permTrap 6 6 at_ lanes)
      else match rs.findSome? fun x => match x.2 with | .fault lv => some (x.1, lv) | _ => none with
      | some (va, lv) => .park va lv
      | none => .ok (rs.filterMap fun x => match x.2 with | .ok pa _ => some (folioOf pa) | _ => none) vas

/-- Goes on with the folios of a range that passes. -/
def withFolios (s : State) (g : Group) (p : Split) (r : Nat × Nat) (f : State → List Nat → State) : State :=
  match tpfCheck s g (allOf g p) r.1 r.2 with
  | .ok fs vas => f (noteAll s (whoOf s g) vas) fs
  | .trap t => takeTrap s g p t none
  | .park va lv => parkOn s g p 8 .read va lv none (some 6)

/-- R218, R409: fills start for the folios that are not resident. -/
def execTpf (y : Bool) (gd : Guard) (n : BitVec 6) (s : State) : Answer1 :=
  issueQ (.tpf y gd n) {} y gd s fun g p =>
    let x := 2 * n.toNat
    orTrap s g p (sCheck g p [x, x + 1, x + 2, x + 3])
      (withFolios s g p (fenceRange g x) fun s fs => finish (fs.foldl startFill s) g p y)

/-- R218, R409: the same with a barrier that counts the folios. -/
def execTpfBind (y : Bool) (gd : Guard) (n : BitVec 6) (b : BitVec 5) (gl : Bool) (s : State) : Answer1 :=
  issueQ (.tpfBind y gd n b gl) {} y gd s fun g p =>
    let x := 2 * n.toNat
    let k := 2 * b.toNat
    let va := (getS64 g k).toNat
    let lanes := allOf g p
    orTrap s g p ((sCheck g p [x, x + 1, x + 2, x + 3, k, k + 1]).or
        (if va % 16 ≠ 0 then some (alignTrap 16 (BitVec.ofNat 64 va) lanes) else none))
      (withFolios s g p (fenceRange g x) fun s fs0 =>
        withPlace s g p 5 gl va (placeBar s g lanes 5 gl va) fun s pl =>
          let fs := fs0.dedup
          atBar s g pl fun s g =>
            if fs.isEmpty then finish s g p y
            else if 2 ^ 48 ≤ (readBar s pl).pending + 65536 * fs.length then takeTrap s g p (overflowBar va lanes) none
            else
              let s := updateBar (finish s g p y) pl (.expect (65536 * fs.length)) (some g.core)
              let here := fs.filter s.tier.palette.contains
              let away := fs.filter fun f => !s.tier.palette.contains f
              let s := here.foldl (fun s _ => updateBar (markPhase s pl) pl (.deliver 65536)) s
              let bind : TpfBind := { launch := g.launch, wg := g.wg, bar := pl, folios := away }
              let s := if away.isEmpty then s else { s with tier := { s.tier with tpf := s.tier.tpf ++ [bind] } }
              away.foldl startFill s)

/-! ## INSTALL (R219, R368) -/

/-- A queue of a Vellum stack. -/
def installsOf (s : State) (v : Nat) : List Install := mget [] v s.tier.installs
def putInstalls (s : State) (v : Nat) (q : List Install) : State :=
  { s with tier := { s.tier with installs := mset [] v q s.tier.installs } }

/-- Die to which a Vellum stack attaches (R10). -/
def dieOfVellum (v : Nat) : Nat := v / 2

/-- Vellum stack of a page, by the tables; none where it is no page of Vellum. -/
def vellumPage (s : State) (w : Who) (va : Nat) : Option Nat :=
  match (findWalk s w va).stop with
  | .leaf l e => match physOf s.plat.walk (leafPa l e va) with | .vellum v => some v | _ => none
  | _ => none

/-- The record that ends an install (R220). -/
def installRecord (s : State) (v : Nat) (i : Install) (status : Nat) : State :=
  tierRecord s i.cring i.asid (dieOfVellum v) 1 status (if status ≤ 1 then 0 else i.done) (65536 * i.done) i.tag

/-- R219, R220, R368, R369: a range whose first folio is no page of Vellum ends at once. -/
def execInstall (y : Bool) (gd : Guard) (d : BitVec 6) (s : State) : Answer1 :=
  issueQ (.install y gd d) {} y gd s fun g p =>
    let n := 2 * d.toNat
    let ws := descWords g n 8
    let lanes := allOf g p
    let len := dw64 ws 4
    orTrap s g p ((sCheck g p ((List.range 8).map (n + ·))).or
        ((fieldAlign [(dw64 ws 0, 65536), (dw64 ws 2, 65536), (len, 65536)] lanes).or
          (if len = 0 ∨ 2 ^ 32 < len then some (permTrap 6 7 0 lanes) else none)))
      (let l := launchOf s g.launch
       let i : Install := { launch := l.id, region := l.desc.region, asid := l.asid, isSealed := (wgOf s g.launch g.wg).isSealed,
                            src := dw64 ws 0, dst := dw64 ws 2, len := len, tag := BitVec.ofNat 64 (dw64 ws 6),
                            cring := (termsOf s g.launch g.wg).map fun r => r.cring }
       let v := vellumPage s (whoOf s g) i.dst
       if relHeld s g (enabled g p) .dev || (v.any fun v => decide (16 ≤ ((installsOf s v).filter fun j => j.ckpt.isNone).length)) then
         hold s g p
       else
         let s := releaseAt s g.core g.id .dev
         match v with
         | some v => putInstalls (finish s g p y) v (installsOf s v ++ [i])
         | none => installRecord (finish s g p y) 0 i 5)

/-! ## Programming a folio (R220, R226) -/

/-- STATUS of a page that an install or a checkpoint cannot use: 6 PERMISSION for a right or a world, else 5 RANGE_FAULT. -/
def pageStatus (reason : Nat) : Nat := if reason = 3 ∨ reason = 4 then 6 else 5

/-- Block at which a region's endurance is charged (R226). -/
def endureBlock (s : State) (region : Nat) : Nat :=
  ((chainOf s region).find? fun a => (regionOf s a).any fun r => r.endureHere).getD region

/-- Folio programs left, and one taken at the block's home. -/
def endureLeft (s : State) (region : Nat) : Nat := leNat (readHome s.ms (endureBlock s region + 40) 8)
def chargeEndure (s : State) (region : Nat) : State :=
  putMs s (engineWrite s.clock.ps .device (endureBlock s region + 40) (leBytes 8 (endureLeft s region - 1)) s.ms)

/-- Free places of a Vellum stack. -/
def freePlaces (s : State) (v : Nat) : Nat :=
  Config.vellumFreePlaces v + mget 0 v s.tier.placesFreed - mget 0 v s.tier.placesUsed

def usePlace (s : State) (v : Nat) : State :=
  { s with tier := { s.tier with placesUsed := mput v (mget 0 v s.tier.placesUsed + 1) s.tier.placesUsed } }

/-- Physical folio of a destination page, or the STATUS that refuses it. -/
def dstFolio (s : State) (v : Nat) (i : Install) (va : Nat) : Nat ⊕ Nat :=
  match (findWalk s (whoDie (dieOfVellum v) i.asid i.isSealed) (va % 2 ^ 64)).stop with
  | .leaf l e =>
    if physOf s.plat.walk (leafPa l e va) ≠ .vellum v ∨ !canonical (va % 2 ^ 64) then .inr 5
    else if !nbit e 3 || nbit e 54 != i.isSealed then .inr 6
    else .inl (folioOf (leafPa l e va))
  | _ => .inr 5

/-- Physical address of a source page, or the STATUS that refuses it. -/
def srcPage (s : State) (v : Nat) (i : Install) (va : Nat) : Nat ⊕ Nat :=
  if !canonical (va % 2 ^ 64) then .inr 5
  else match xlate s (whoDie (dieOfVellum v) i.asid i.isSealed) .read true (va % 2 ^ 64) 65536 with
  | .ok pa _ => .inl pa
  | .bad r => .inr (pageStatus r)
  | .fault _ => .inr 5

/-- The folio switches to its new bytes: its Palette and home-cache copies go (R220, R221). -/
def switchFolio (s : State) (f : Nat) (bs : List Byte) (bad : Nat → Bool) : State :=
  let pa := f * 65536
  let ms := { s.ms with mem := setBytes s.ms.mem pa bs, dram := setFolioPoison f bad s.ms.dram }
  let ms := (linesOf pa 65536).foldl (fun ms l => recallHome l ms) ms
  { s with ms := ms, tier := { s.tier with palette := s.tier.palette.filter fun x => x != f } }

/-- What programming a folio gives: the state and STATUS 0 or 1, or the state and the STATUS of a stop. -/
def programFolio (s : State) (v region f : Nat) (rd : State → State × List Byte × (Nat → Bool)) (fail1 fail2 : Bool) :
    State × Bool × Nat :=
  let s := deviceRead s (endureBlock s region + 40) 8
  if endureLeft s region = 0 then (s, false, 2)
  else
    let s := chargeEndure s region
    let r := rd s
    let s := r.1
    if freePlaces s v = 0 then (s, false, 3)
    else
      let s := usePlace s v
      if !fail1 then (switchFolio s f r.2.1 r.2.2, true, 0)
      else if endureLeft s region = 0 then (s, false, 2)
      else
        let s := usePlace (chargeEndure s region) v
        if fail2 then (s, false, 4) else (switchFolio s f r.2.1 r.2.2, true, 1)

/-! ## Checkpoints: their end (R223) -/

def ckptOf (s : State) (id : Nat) : Option Ckpt := s.tier.ckpts.find? fun c => c.id == id
def onCkpt (s : State) (id : Nat) (f : Ckpt → Ckpt) : State :=
  { s with tier := { s.tier with ckpts := s.tier.ckpts.map fun c => if c.id == id then f c else c } }

/-- A folio of a checkpoint's stream. -/
def streamFolio (c : Ckpt) (k : Nat) (bs : List Byte) : Install :=
  { ckpt := some c.id, data := bs, launch := c.launch, region := c.region, asid := c.asid, isSealed := c.isSealed, src := 0,
    dst := (c.dst + 65536 * k) % 2 ^ 64, len := 65536, tag := c.tag }

/-- Gives whole folios of a stream to its Vellum stack; at the end the last one padded with zeros (R222). -/
def flushStream (atEnd : Bool) : Nat → State → Nat → State
  | 0, s, _ => s
  | n + 1, s, id =>
    match ckptOf s id with
    | none => s
    | some c =>
      match c.vellum with
      | none => s
      | some v =>
        if 65536 ≤ c.buf.length ∨ (atEnd = true ∧ c.buf ≠ []) then
          let bs := c.buf.take 65536
          let bs := bs ++ List.replicate (65536 - bs.length) 0
          let s := putInstalls s v (installsOf s v ++ [streamFolio c c.queued bs])
          flushStream atEnd n (onCkpt s id fun c => { c with buf := c.buf.drop 65536, queued := c.queued + 1 }) id
        else s

/-- A checkpoint ends once every block is handled, every folio programmed and every entry acknowledged (R344). -/
def closeCkpt (s : State) (id : Nat) : State :=
  match ckptOf s id with
  | none => s
  | some c =>
    if !c.left.isEmpty || s.tier.blocked.any (fun j => j.ckpt == id) then s
    else
      let s := if c.ended.isNone then flushStream true 2 s id else s
      match ckptOf s id with
      | none => s
      | some c =>
        if s.tier.acks.any (fun a => a.ckpt == id) || (c.ended.isNone && c.programmed != c.queued) then s
        else
          let status := c.ended.getD (if c.skipped = 0 then 0 else 9)
          let s := { s with tier := { s.tier with ckpts := s.tier.ckpts.filter fun x => x.id != id } }
          tierRecord s c.cring c.asid (ckptDie s c) 2 status c.skipped c.bytes c.tag

/-- A checkpoint stops with a STATUS: blocks and folios not yet streamed are given up (R223). -/
def stopCkpt (s : State) (id status : Nat) : State :=
  match ckptOf s id with
  | none => s
  | some c =>
    let lost := fun a : CkptAck => a.ckpt == id && c.vellum.isSome && decide (65536 * c.programmed < a.upto)
    let s := { s with tier := { s.tier with
      installs := s.tier.installs.map fun x : Nat × List Install => (x.1, x.2.filter fun i => i.ckpt != some id),
      acks := s.tier.acks.filter fun a => !lost a,
      blocked := s.tier.blocked.filter fun j => j.ckpt != id } }
    freeBanks (closeCkpt (onCkpt s id fun c => { c with ended := some status, left := [], buf := [] }) id)

/-! ## A step of a Vellum stack (R220, R222) -/

/-- The head install of a stack after its folio: one more, or its end. -/
def advanceInstall (s : State) (v : Nat) (i : Install) (remapped : Bool) : State :=
  let j := { i with done := i.done + 1, remapped := i.remapped || remapped }
  let rest := (installsOf s v).drop 1
  if j.len ≤ 65536 * j.done then installRecord (putInstalls s v rest) v j (b2n j.remapped)
  else putInstalls s v (j :: rest)

/-- A folio of an install. -/
def installStep (s : State) (v : Nat) (i : Install) (fail1 fail2 : Bool) : State :=
  let stop := fun (s : State) (st : Nat) => installRecord (putInstalls s v ((installsOf s v).drop 1)) v i st
  let src := i.src + 65536 * i.done
  match srcPage s v i src, dstFolio s v i (i.dst + 65536 * i.done) with
  | .inr 5, _ => stop s 5
  | _, .inr 5 => stop s 5
  | .inr x, _ => stop s x
  | _, .inr x => stop s x
  | .inl pa, .inl f =>
    let rd := fun s : State =>
      let r := engineRead s.clock.ps pa 65536 s.ms
      let bad := poisonedAtoms r.1.dram pa 65536
      (putMs s r.1, r.2, fun k => bad.contains (atomOf pa + k))
    let r := programFolio s v i.region f rd fail1 fail2
    if r.2.1 then advanceInstall r.1 v i (r.2.2 == 1) else stop r.1 r.2.2

/-- A folio of a checkpoint's stream; one whose page has lost its leaf waits for it (R343). -/
def streamStep (s : State) (v id : Nat) (i : Install) (fail1 fail2 : Bool) : State :=
  match (findWalk s (whoDie (dieOfVellum v) i.asid i.isSealed) i.dst).stop, dstFolio s v i i.dst with
  | .absent lv, _ => faultRecord s (dieOfVellum v) 7 Acc.write.bits v i.asid i.dst lv
  | _, .inr x => stopCkpt s id x
  | _, .inl f =>
    let r := programFolio s v i.region f (fun s => (s, i.data, fun _ => false)) fail1 fail2
    let s := putInstalls r.1 v ((installsOf r.1 v).drop 1)
    if r.2.1 then closeCkpt (onCkpt s id fun c => { c with programmed := c.programmed + 1 }) id
    else stopCkpt s id r.2.2

/-- R220, R222: a Vellum stack programs the next folio of its queue; the two flags tell whether the program and its retry
fail. -/
def execInstallFolio (stack : Nat) (fail1 fail2 : Bool) (s : State) : Answer1 :=
  match installsOf s stack with
  | [] => .next s
  | i :: _ =>
    match i.ckpt with
    | none => .next (installStep s stack i fail1 fail2)
    | some id => .next (streamStep s stack id i fail1 fail2)

/-- R220: a stack erases or retires a unit, which changes its count of free places. -/
def execEraseAndRetireUnit (stack freed retired : Nat) (s : State) : Answer1 :=
  .next { s with tier := { s.tier with
    placesFreed := mput stack (mget 0 stack s.tier.placesFreed + freed) s.tier.placesFreed,
    placesUsed := mput stack (mget 0 stack s.tier.placesUsed + retired) s.tier.placesUsed } }

/-- R220, R223, R369: a region is torn down. -/
def execRegionTeardown (addr : Nat) (s : State) : Answer1 :=
  let s := abortTier s (· == addr)
  .next { s with sched := { s.sched with regions := s.sched.regions.filter fun r => r.addr != addr } }

/-! ## CKPT (R222, R343, R344) -/

/-- Where an object of a checkpoint lies, whatever the rights of its page; checks 1 to 3 of R254 are taken on the way. -/
inductive ObjPlace where
  | ok (ph : Phys)
  | trap (reason : Nat)
  | park (va level : Nat)
  deriving DecidableEq, Repr

def objPlace (s : State) (w : Who) (va : Nat) : ObjPlace :=
  if !canonical va then .trap 1
  else match (findWalk s w va).stop with
  | .leaf l e =>
    let pa := leafPa l e va
    if physOf s.plat.walk pa = .absent || hostOff s (physOf s.plat.walk pa) then .trap 2
    else if (nbit e 54 || sealedAt s pa 1) && !w.isSealed then .trap 4
    else .ok (physOf s.plat.walk pa)
  | .absent lv => .park va lv
  | .bad => .trap 10
  | .missing => .trap 2

/-- The checks of the three objects, in the order of R343: DST's alignment by its kind, then the kinds. -/
def ckptObjects (s : State) (w : Who) (lanes : BitVec 128) (src htab dst : Nat) : Checked :=
  let os := [(src, objPlace s w src, false), (htab, objPlace s w htab, false), (dst, objPlace s w dst, true)]
  let bad := fun (x : Nat × ObjPlace × Bool) => match x.2.1 with
    | .trap r => some (x.1, r)
    | .ok ph => if (x.2.2 && (match ph with | .host => true | .vellum _ => true | _ => false)) || (!x.2.2 && ph.isDram)
        then none else some (x.1, 12)
    | .park _ _ => none
  match objPlace s w dst with
  | .ok (.vellum _) =>
    if dst % 65536 ≠ 0 then .trap (alignTrap 65536 (BitVec.ofNat 64 dst) lanes)
    else match os.findSome? bad, os.findSome? fun x => match x.2.1 with | .park va lv => some (va, lv) | _ => none with
      | some (va, r), _ => .trap (permTrap r 5 (BitVec.ofNat 64 va) lanes)
      | none, some (va, lv) => .park va lv lanes
      | none, none => .ok []
  | _ =>
    match os.findSome? bad, os.findSome? fun x => match x.2.1 with | .park va lv => some (va, lv) | _ => none with
      | some (va, r), _ => .trap (permTrap r 5 (BitVec.ofNat 64 va) lanes)
      | none, some (va, lv) => .park va lv lanes
      | none, none => .ok []

/-- R222, R343, R344. -/
def execCkpt (y : Bool) (gd : Guard) (d : BitVec 6) (full : Bool) (s : State) : Answer1 :=
  issueQ (.ckpt y gd d full) {} y gd s fun g p =>
    let n := 2 * d.toNat
    let ws := descWords g n 10
    let lanes := allOf g p
    let src := dw64 ws 0
    let len := dw64 ws 2
    let htab := dw64 ws 4
    let dst := dw64 ws 6
    orTrap s g p ((sCheck g p ((List.range 10).map (n + ·))).or
        (fieldAlign [(src, 65536), (len, 65536), (htab, 16), (dst, 64)] lanes))
      (if len = 0 ∨ 2 ^ 40 < len then
         -- a DST of Vellum that is not aligned goes first
         match ckptObjects s (whoOf s g) lanes src htab dst with
         | .trap t => takeTrap s g p (if t.cause = 0x0C then t else permTrap 6 7 0 lanes) none
         | _ => takeTrap s g p (permTrap 6 7 0 lanes) none
       else
         withChecked (code := some 5) s g p 1 .read (ckptObjects s (whoOf s g) lanes src htab dst) fun _ =>
           if relHeld s g (enabled g p) .dev || decide (64 ≤ s.tier.ckpts.length) then hold s g p
           else
             let l := launchOf s g.launch
             let c : Ckpt := { id := s.tier.nextCkpt, launch := l.id, region := l.desc.region, asid := l.asid,
                               isSealed := (wgOf s g.launch g.wg).isSealed, src := src, blocks := len / 65536, htab := htab,
                               dst := dst, tag := BitVec.ofNat 64 (dw64 ws 8), full := full, left := List.range (len / 65536),
                               vellum := vellumPage s (whoOf s g) dst, cring := (termsOf s g.launch g.wg).map fun r => r.cring }
             let s := noteAll s (whoOf s g) [src, htab, dst]
             let s := releaseAt s g.core g.id .dev
             finish { s with tier := { s.tier with ckpts := s.tier.ckpts ++ [c], nextCkpt := c.id + 1 } } g p y)

/-! ## The Blotter (R17, R203, R204, R222, R275) -/

/-- Cause of a Blotter's access that fails for a reason of R254: in an address space that is not bound its job stops with cause 1
(R430); another ends the checkpoint with its STATUS, 5 or 6 (R223). -/
def blotCause (s : State) (c : Ckpt) (reason : Nat) : Nat :=
  if (mget? c.asid s.xlat.binds).isNone then 1 else pageStatus reason

/-- An access of a Blotter; where it fails the cause is that of `blotCause`, but 2 for poison (R343). -/
def blotLoad (s : State) (st : Nat) (c : Ckpt) (va n : Nat) : Eng (Nat × List Byte) :=
  let w := whoStack st c.asid c.isSealed
  if !canonical va then .stop s va 5
  else match xlate s w .read true va n with
  | .bad r => .stop s va (blotCause s c r)
  | .fault lv => .park s .read va lv
  | .ok pa _ =>
    let s := noteXlate s w va
    let r := engineRead s.clock.ps pa n s.ms
    let s := putMs s r.1
    if (poisonedAtoms s.ms.dram pa n).isEmpty then .ok s (pa, r.2) else .stop s va 2

/-- Physical places of a stream's pieces in host memory, or of an HTAB entry. -/
def blotPlaces (st : Nat) (c : Ckpt) (acc : Acc) (dram : Bool) : List (Nat × List Byte) → State → Eng (List (Nat × List Byte))
  | [], s => .ok s []
  | (va, bs) :: r, s =>
    let w := whoStack st c.asid c.isSealed
    if !canonical va then .stop s va 5
    else match xlate s w acc dram va bs.length with
    | .bad x => .stop s va (blotCause s c x)
    | .fault lv => .park s acc va lv
    | .ok pa _ =>
      if !dram && physOf s.plat.walk pa != .host then .stop s va 5
      else (blotPlaces st c acc dram r (noteXlate s w va)).bind fun s xs => .ok s ((pa, bs) :: xs)

/-- The next block of a stack's Blotter; a stack that is absent in walk mode has none (R20). -/
def nextBlockOf (s : State) (st : Nat) : Option (Ckpt × Nat) :=
  if deadStack s st then none
  else s.tier.ckpts.findSome? fun c => (c.left.find? fun b => (blockStack s c b).all (· == st)).map fun b => (c, b)

/-- An entry of the stream: its header and the block (R222). -/
def ckptEntry (b : Nat) (hash bs : List Byte) : List Byte :=
  leBytes 8 b ++ hash ++ List.replicate 40 0 ++ bs

/-- A page of Vellum that an entry goes to and that has no leaf parks the block's job (R343). -/
def vellumPages (st : Nat) (c : Ckpt) (s : State) : List (Nat × List Byte) → Eng Unit
  | [] => .ok s ()
  | (va, _) :: r => match (findWalk s (whoStack st c.asid c.isSealed) va).stop with
    | .absent lv => .park s .write va lv
    | _ => vellumPages st c s r

/-- Streams a changed block: entry k at DST + 65,600 k. -/
def streamEntry (s : State) (st : Nat) (c : Ckpt) (b : Nat) (hash bs : List Byte) : Eng Unit :=
  let e := ckptEntry b hash bs
  let ack : CkptAck := { ckpt := c.id, block := b, hash := hash, upto := 65600 * (c.entries + 1) }
  let sent := fun s : State =>
    let s := { s with tier := { s.tier with acks := s.tier.acks ++ [ack] } }
    onCkpt s c.id fun c => { c with entries := c.entries + 1 }
  let pieces := pagePieces 3 (c.dst + 65600 * c.entries) e
  match c.vellum with
  | some _ => (vellumPages st c s pieces).bind fun s _ =>
      .ok (flushStream false 2 (onCkpt (sent s) c.id fun c => { c with buf := c.buf ++ e }) c.id) ()
  | none =>
    (blotPlaces st c .write false pieces s).bind fun s xs => .ok (sent (writePlaces s xs)) ()

/-- The whole handling of a block up to its entry. -/
def handleBlock (s : State) (st : Nat) (c : Ckpt) (b : Nat) : Eng Unit :=
  (blotLoad s st c ((c.src + 65536 * b) % 2 ^ 64) 65536).bind fun s r =>
    let ctl := ctlOf s st
    let at_ := forwarded s.ms.dram r.1
    let s := putCtl s st { ctl with scrubbed := insertKey (at_ % Config.stackBytes / 65536) ctl.scrubbed }
    let hash := blakeHash r.2
    (blotLoad s st c ((c.htab + 16 * b) % 2 ^ 64) 16).bind fun s h =>
      if h.2 = hash ∧ !c.full then .ok s () else streamEntry s st c b hash r.2

/-- A block's job is taken out of the checkpoint's list. -/
def takeCkptBlock (s : State) (c : Ckpt) (b : Nat) : State := onCkpt s c.id fun c => { c with left := c.left.erase b }

/-- A Blotter's record of a stop (R204); the step, which no rule gives it, is open. -/
def blotRecord (s : State) (st id block cause va : Nat) : State :=
  let c := ckptOf s id
  let s := engineRecord s st 4 cause block (c.elim 0 fun c => c.asid) va (Config.freeWord s.free).toNat (c.elim 0 fun c => c.launch) 0
  { s with free := s.free + freeStep }

/-- R204, R222, R223: a Blotter handles its next block. Its lock-step read then releases the banks (R273). -/
def execCheckpointBlock (stack : Nat) (s : State) : Answer1 :=
  match nextBlockOf s stack with
  | none => .next s
  | some (c, b) =>
    let held := fun (s : State) (j : BlockJob) =>
      let s := takeCkptBlock s c b
      { s with tier := { s.tier with blocked := s.tier.blocked ++ [j] } }
    let before := (ctlOf s stack).scrubbed
    match (handleBlock s stack c b).over (releaseBanks · stack) with
    | .ok s _ => .next (closeCkpt (takeCkptBlock s c b) c.id)
    | .park s acc va lv =>
      let s := faultRecord s (stack / 4) 7 acc.bits stack c.asid va lv
      .next (held s { stack := stack, ckpt := c.id, block := b, parked := some (stack / 4, c.asid, va) })
    | .stop s va cause =>
      if cause ≤ 2 then
        -- a block that stops under R204 sets no scrubbed bit (R275)
        let s := putCtl s stack { ctlOf s stack with scrubbed := before }
        .next (held (blotRecord s stack c.id b cause va) { stack := stack, ckpt := c.id, block := b, stopped := true })
      else .next (stopCkpt s c.id cause)
    | .wait s _ => .next s

/-- A block is skipped (R223). -/
def skipBlock (s : State) (j : BlockJob) : State :=
  let s := { s with tier := { s.tier with blocked := s.tier.blocked.filter fun x => x != j } }
  closeCkpt (onCkpt s j.ckpt fun c => { c with skipped := c.skipped + 1 }) j.ckpt

/-- A block's job goes on at its block. -/
def resumeBlock (s : State) (j : BlockJob) : State :=
  let s := { s with tier := { s.tier with blocked := s.tier.blocked.filter fun x => x != j } }
  onCkpt s j.ckpt fun c => { c with left := j.block :: c.left }

/-- An entry whose hash cannot be written: HTAB keeps the old one, and its block counts as skipped. -/
def skipEntry (s : State) (a : CkptAck) : State :=
  let s := { s with tier := { s.tier with acks := s.tier.acks.filter fun x => x != a } }
  closeCkpt (onCkpt s a.ckpt fun c => { c with skipped := c.skipped + 1 }) a.ckpt

/-- The entry has been acknowledged by its target. -/
def ackReady (c : Ckpt) (a : CkptAck) : Bool := c.vellum.isNone || decide (a.upto ≤ 65536 * c.programmed)

/-- R222, R344: the k-th entry is acknowledged and the hash written to HTAB, whole. -/
def execCheckpointEntryAck (k : Nat) (s : State) : Answer1 :=
  match s.tier.acks[k]? with
  | none => .next s
  | some a =>
    match ckptOf s a.ckpt with
    | none => .next s
    | some c =>
      if a.parked.isSome || !ackReady c a then .next s
      else
        let st := (blockStack s c a.block).getD 0
        let gone := fun s : State => { s with tier := { s.tier with acks := s.tier.acks.filter fun x => x != a } }
        match blotPlaces st c .write true [((c.htab + 16 * a.block) % 2 ^ 64, a.hash)] s with
        | .ok s xs => .next (closeCkpt (gone (writePlaces s xs)) c.id)
        | .park s acc va lv =>
          let s := faultRecord s (st / 4) 7 acc.bits st c.asid va lv
          .next { s with tier := { s.tier with acks := modifyNth (fun x =>
            { x with parked := some (st / 4, c.asid, va) }) k s.tier.acks } }
        | .stop s va cause =>
          if cause ≤ 2 then .next (skipEntry (blotRecord s st c.id a.block cause va) a) else .next (stopCkpt (gone s) c.id cause)
        | .wait s _ => .next s

end Sys2Proof.Machine
end

