-- ==== Sys2Proof/Machine/WashUnit.lean ====
section
/-! DEFINITION. WashUnit.lean: filtered lookups (R198 to R204, R417). -/

namespace Sys2Proof.Machine

/-! ## Descriptors (R199, R201) -/

/-- Fields of word s+2. -/
def waKind (ws : List Word) : Nat := nbits (dw ws 2) 0 4
def waFormat (ws : List Word) : Nat := nbits (dw ws 2) 4 2
def waFilter (ws : List Word) : Nat := nbits (dw ws 2) 6 2
def waMode (ws : List Word) (axis : Nat) : Nat := nbits (dw ws 2) (8 + 2 * axis) 2
def waPacked (ws : List Word) : Bool := nbit (dw ws 2) 14
def waLevels (ws : List Word) : Nat := nbits (dw ws 2) 15 4 + 1
def waIsGrid (ws : List Word) : Bool := decide (2 ≤ waKind ws)
/-- Dimensions of a texture or grid. -/
def waDims (ws : List Word) : Nat := if waKind ws % 2 = 1 then 3 else 2
/-- Grid: levels, log2 of a level's entries, features. -/
def waL (ws : List Word) : Nat := nbits (dw ws 2) 4 4 + 1
def waT (ws : List Word) : Nat := nbits (dw ws 2) 8 5
def waF (ws : List Word) : Nat := if nbit (dw ws 2) 13 then 4 else 2
def waRes (ws : List Word) (l : Nat) : Nat := nbits (dw ws (4 + l / 2)) (16 * (l % 2)) 16
/-- Size of an axis at level 0. -/
def waSize (ws : List Word) (axis : Nat) : Nat :=
  (match axis with | 0 => dw ws 3 % 65536 | 1 => dw ws 3 / 65536 | _ => dw ws 4 % 65536) + 1

/-- Words of a descriptor, given its word s+2. -/
def waLen (w2 : Word) : Nat := if nbits w2.toNat 0 4 < 2 then 8 else 16

/-- A descriptor that WASH refuses (R198). -/
def washBad (ws : List Word) : Bool :=
  if 3 < waKind ws then true
  else if waIsGrid ws then
    dw ws 2 / 2 ^ 14 != 0 || dw ws 3 != 0 || ((List.range 4).any fun i => dw ws (12 + i) != 0) || decide (waT ws < 10) ||
      decide (24 < waT ws) || (List.range (waL ws)).any fun l => waRes ws l == 0
  else
    waFilter ws == 3 || ((List.range 3).any fun i => waMode ws i == 3) || dw ws 2 / 2 ^ 19 != 0 ||
      (waKind ws == 1 && waFilter ws == 2) || dw ws 4 / 65536 != 0 || (waKind ws == 0 && dw ws 4 % 65536 != 0) ||
      (List.range 3).any fun i => dw ws (5 + i) != 0

/-- Coordinate registers read and destination registers written. -/
def waCoords (ws : List Word) : Nat := if waIsGrid ws then waDims ws else waDims ws + 1
def waDests (ws : List Word) : Nat := if waIsGrid ws then waL ws * waF ws / 2 else if waPacked ws then 2 else 4

/-! ## WASH (R198, R417) -/

/-- Stack that holds a base: of its folio's Palette copy where it lies in Vellum, and stack 0 where it lies in no DRAM of the
device (log entry 23). -/
def baseStack (s : State) (pa : Nat) : Nat :=
  if isVellum pa && !s.plat.walk then paletteStack (folioOf pa) else if (physOf s.plat.walk pa).isDram then stackOf pa else 0

/-- Stack to which a lookup goes, whatever the rights and the world of the base's page; the base's own fault is met by the request
there. None where the base has no page (R17). -/
def washStack (s : State) (asid base : Nat) : Option Nat := (plainPa s asid base).map (baseStack s)

/-- R198, R417: one request, and one outstanding result, for each active lane. -/
def execWash (y : Bool) (gd : Guard) (c d : BitVec 6) (sr : BitVec 9) (s : State) : Answer1 :=
  issueAt (.wash y gd c d sr) {} s fun g p =>
    let ls := active g p gd
    match ls with
    | [] => finish s g p y
    | _ =>
      let n := sr.toNat
      let lanes := laneBits ls
      let len := waLen (getS g (n + 2))
      let ws := descWords g n len
      let base := dw64 ws 0
      orTrap s g p
        ((vRange g ls (span c (waCoords ws) ++ span d (waDests ws))).or ((sRange g lanes ((List.range len).map (n + ·))).or
          (if base % 256 ≠ 0 then some (alignTrap 256 (BitVec.ofNat 64 base) lanes)
           else if washBad ws then some (permTrap 6 7 0 lanes) else none)))
        -- what a lookup reads lies from its base on
        (if fenceHolds s g ls [(base, 2 ^ 64 - base)] then hold s g p
         else
         let w := wgOf s g.launch g.wg
         let l := launchOf s g.launch
         let st := (washStack s l.asid base).getD 0
         let s := noteXlate s (whoOf s g) base
         let r := ls.foldl (fun (acc : State × List LongResult) lane =>
           let id := acc.1.render.nextWash
           let req : WashReq :=
             { id := id, group := g.id, lane := lane, launch := g.launch, wg := w.wg, asid := l.asid, stack := st, words := ws,
               coords := (List.range (waCoords ws)).map fun k => getV g lane (eff g (c.toNat + k)) }
           let res : LongResult :=
             { kind := .wash id, pc := startPc p, owner := ownLanes p, lanes := laneBits [lane],
               v := (List.range (waDests ws)).map fun k => (lane * 256 + eff g (d.toNat + k), 0) }
           ({ acc.1 with render := { acc.1.render with washes := acc.1.render.washes ++ [req], nextWash := id + 1 } },
            acc.2 ++ [res])) (s, [])
         finish r.1 (addPend g r.2) p y)

/-! ## Numbers of a lookup -/

/-- Floor of an exact finite number. -/
def floorDy (d : Dy) : Int :=
  if 0 ≤ d.e then (if d.neg then -1 else 1) * (d.m * 2 ^ d.e.toNat : Nat)
  else
    let q := 2 ^ (-d.e).toNat
    if d.neg then -((d.m + q - 1) / q : Nat) else (d.m / q : Nat)

/-- An exact finite number minus an integer. -/
def Dy.subInt (d : Dy) (k : Int) : Dy := d.add ⟨decide (0 < k), k.natAbs, 0⟩

/-- A coordinate as a finite number: NaN is 0 and an infinity the largest one, which the holds that follow cut. -/
def coordDy (w : Word) : Dy :=
  match ofF32 w with
  | .fin d => d
  | .inf neg => ⟨neg, 1, 200⟩
  | .nan => ⟨false, 0, 0⟩

/-- Holds a number between two integers. -/
def Dy.hold (d : Dy) (lo hi : Int) : Dy :=
  let a : Dy := ⟨decide (lo < 0), lo.natAbs, 0⟩
  let b : Dy := ⟨decide (hi < 0), hi.natAbs, 0⟩
  if d.lt a then a else if b.lt d then b else d

/-- Fraction of a number above its floor, truncated to 8 bits, in units of 2^-8. -/
def frac8 (d : Dy) : Nat := (floorDy { d with e := d.e + 8 } - floorDy d * 256).toNat

/-- An integer coordinate under an address mode (R200). -/
def addressMode (mode : Nat) (x : Int) (n : Nat) : Nat :=
  match mode with
  | 0 => (x % (n : Int)).toNat
  | 1 => (max 0 (min x ((n : Int) - 1))).toNat
  | _ =>
    let y := (x % (2 * n : Int)).toNat
    if y < n then y else 2 * n - 1 - y

/-- The corners of an axis: integer coordinate and weight in units of 2^-8. -/
def axisCorners (nearest : Bool) (u : Dy) (n : Nat) : List (Int × Nat) :=
  let pos := (u.mul ⟨false, n, 0⟩).hold (-(2 ^ 24)) (2 ^ 24)
  if nearest then [(floorDy pos, 256)]
  else
    let q := pos.add ⟨true, 1, -1⟩
    let f := frac8 q
    [(floorDy q, 256 - f), (floorDy q + 1, f)]

/-! ## Textures (R199, R200) -/

/-- Bytes of a texel. -/
def texelBytes (ws : List Word) : Nat := if waFormat ws = 1 then 8 else 4

/-- Size of an axis at a level. -/
def levelSize (ws : List Word) (j axis : Nat) : Nat := max 1 (waSize ws axis / 2 ^ j)

/-- Bytes of a level, rounded up. -/
def levelBytes (ws : List Word) (j : Nat) : Nat :=
  roundUp (levelSize ws j 0 * levelSize ws j 1 * levelSize ws j 2 * texelBytes ws) 256

/-- Address of a texel. -/
def texelVa (ws : List Word) (j x y z : Nat) : Nat :=
  (dw64 ws 0 + ((List.range j).map (levelBytes ws)).sum +
    ((z * levelSize ws j 1 + y) * levelSize ws j 0 + x) * texelBytes ws) % 2 ^ 64

/-- The four channels of a texel. -/
def texelValue (ws : List Word) (bs : List Byte) : List XVal :=
  let zero : XVal := .fin ⟨false, 0, 0⟩
  let one : XVal := .fin ⟨false, 1, 0⟩
  match waFormat ws with
  | 0 => bs.map fun b => if b = 0 then zero
      else ofF32 (BitVec.ofNat 32 (roundQ .f32 (.mode .rne) false false ⟨b.toNat, 255, 0⟩).1)
  | 1 => (List.range 4).map fun i => decodeNum .f16 (fieldAt bs (2 * i) 2)
  | 2 => [decodeNum .f16 (fieldAt bs 0 2), decodeNum .f16 (fieldAt bs 2 2), zero, one]
  | _ => [decodeNum .f32 (fieldAt bs 0 4), zero, zero, one]

/-- Corners of a lookup at a level: x, y, z and weight in units of 2^-(8 × dimensions). -/
def levelCorners (ws cs : List Word) (j : Nat) : List (Nat × Nat × Nat × Nat) :=
  let nearest := waFilter ws == 0
  let ax := fun k => (axisCorners nearest (coordDy (cs.getD k 0)) (levelSize ws j k)).map fun c =>
    (addressMode (waMode ws k) c.1 (levelSize ws j k), c.2)
  let zs := if waDims ws = 3 then ax 2 else [(0, 1)]
  zs.flatMap fun z => (ax 1).flatMap fun y => (ax 0).map fun x => (x.1, y.1, z.1, x.2 * y.2 * z.2)

/-- Levels of a lookup with weights in units of 2^-8. -/
def lookupLevels (ws cs : List Word) : List (Nat × Nat) :=
  let lam := (coordDy (cs.getD (waDims ws) 0)).hold 0 ((waLevels ws : Int) - 1)
  if waFilter ws = 2 then
    let j := (floorDy lam).toNat
    [(j, 256 - frac8 lam), (min (j + 1) (waLevels ws - 1), frac8 lam)]
  else [((floorDy (lam.add ⟨false, 1, -1⟩)).toNat, 256)]

/-- Texels a lookup reads: address and weight in units of 2^-(8 × dimensions + 8). -/
def lookupTexels (ws cs : List Word) : List (Nat × Nat) :=
  (lookupLevels ws cs).flatMap fun (j, w) => (levelCorners ws cs j).map fun (x, y, z, v) => (texelVa ws j x y z, v * w)

/-- The words of a texture lookup from its texels, in the order of `lookupTexels`. -/
def textureWords (ws cs : List Word) (texels : List (List Byte)) : List Word :=
  let unit : Int := -(8 * waDims ws + 8 : Nat)
  let parts := (lookupTexels ws cs).zip (texels.map (texelValue ws))
  let sum := fun ch => sumX (parts.map fun (t, vs) =>
    (XVal.fin ⟨false, t.2, unit⟩).mul (vs.getD ch .nan))
  if waPacked ws then
    let h := fun ch => (roundX .f16 (.mode .rne) false (sum ch)).1
    [BitVec.ofNat 32 (h 0 + 65536 * h 1), BitVec.ofNat 32 (h 2 + 65536 * h 3)]
  else (List.range 4).map fun ch => BitVec.ofNat 32 (roundX .f32 (.mode .rne) false (sum ch)).1

/-! ## Grids (R201, R202) -/

/-- Cell and fraction of a coordinate at a resolution. -/
def gridCell (c : Word) (n : Nat) : Nat × Dy :=
  let p := match ofF32 (round32 (.fin (((coordDy c).hold 0 1).mul ⟨false, n, 0⟩))).1 with
    | .fin d => d
    | _ => ⟨false, 0, 0⟩
  let i := min (floorDy p).toNat (n - 1)
  (i, p.subInt i)

/-- Index of a corner (R202). -/
def gridIndex (t n d x y z : Nat) : Nat :=
  if (n + 1) ^ d ≤ 2 ^ t then x + (n + 1) * y + (n + 1) * (n + 1) * z
  else ((x % 2 ^ 32) ^^^ (y * 0xA5C36E1B % 2 ^ 32) ^^^ (z * 0x5D93F0C7 % 2 ^ 32)) % 2 ^ t

/-- Corners of a level: index and weight. -/
def gridCorners (ws cs : List Word) (l : Nat) : List (Nat × XVal) :=
  let n := waRes ws l
  let one : Dy := ⟨false, 1, 0⟩
  let ax := fun k =>
    let c := gridCell (cs.getD k 0) n
    [(c.1, one.add { c.2 with neg := !c.2.neg }), (c.1 + 1, c.2)]
  let zs := if waDims ws = 3 then ax 2 else [(0, one)]
  zs.flatMap fun z => (ax 1).flatMap fun y => (ax 0).map fun x =>
    (gridIndex (waT ws) n (waDims ws) x.1 y.1 z.1, .fin ((x.2.mul y.2).mul z.2))

/-- Address of an entry. -/
def entryVa (ws : List Word) (l e : Nat) : Nat := (dw64 ws 0 + (l * 2 ^ waT ws + e) * 2 * waF ws) % 2 ^ 64

/-- Entries a grid lookup reads. -/
def gridReads (ws cs : List Word) : List Nat :=
  (List.range (waL ws)).flatMap fun l => (gridCorners ws cs l).map fun x => entryVa ws l x.1

/-- The words of a grid lookup from its entries, in the order of `gridReads`. -/
def gridWords (ws cs : List Word) (es : List (List Byte)) : List Word :=
  let per := 2 ^ waDims ws
  let codes := (List.range (waL ws)).flatMap fun l =>
    let mine := (gridCorners ws cs l).zip ((es.drop (l * per)).take per)
    (List.range (waF ws)).map fun j =>
      (roundX .f16 (.mode .rne) false (sumX (mine.map fun (c, bs) => c.2.mul (decodeNum .f16 (fieldAt bs (2 * j) 2))))).1
  (List.range (codes.length / 2)).map fun i => BitVec.ofNat 32 (codes.getD (2 * i) 0 + 65536 * codes.getD (2 * i + 1) 0)

/-! ## Serving a request (R186, R203, R204) -/

/-- The places a request reads, and their size. -/
def washReads (r : WashReq) : List (Nat × Nat) :=
  if waIsGrid r.words then (gridReads r.words r.coords).map fun va => (va, 2 * waF r.words)
  else (lookupTexels r.words r.coords).map fun t => (t.1, texelBytes r.words)

/-- The words it writes. -/
def washWords (r : WashReq) (got : List (List Byte)) : List Word :=
  if waIsGrid r.words then gridWords r.words r.coords got else textureWords r.words r.coords got

/-- Reads the places one after another, each word of four bytes whole. -/
def washLoad (st asid : Nat) (ws : List ViewWait) : List (Nat × Nat) → State → List (List Byte) → Eng (List (List Byte))
  | [], s, got => .ok s got
  | (va, n) :: r, s, got =>
    (engineLoad s st asid false va n ws).bind fun s bs => washLoad st asid ws r s (got ++ [bs])

/-- Changes a request. -/
def onWash (s : State) (id : Nat) (f : WashReq → WashReq) : State :=
  { s with render := { s.render with washes := s.render.washes.map fun r => if r.id == id then f r else r } }

/-- A request has its words: its lane's result is known (R417). Its roundings set no flag of the launch (log entry 57). -/
def endWash (s : State) (r : WashReq) (ws : List Word) : State :=
  let s := { s with render := { s.render with washes := s.render.washes.filter fun x => x.id != r.id } }
  match findGroup s r.group with
  | none => s
  | some g =>
    let pend := g.pend.map fun x =>
      if x.kind == .wash r.id then { x with kind := .value, v := x.v.zipIdx.map fun (d, i) => (d.1, ws.getD i 0) } else x
    putGroup s { g with pend := pend }

/-- A request stops with its record (R204). -/
def stopWash (s : State) (r : WashReq) (va cause : Nat) : State :=
  onWash (engineRecord s r.stack 2 cause r.id r.asid va r.lane r.launch 0) r.id fun x => { x with stopped := true }

/-- An aborted request writes the canonical NaN into every destination register of its lane (R204, R417). -/
def abortWash (s : State) (r : WashReq) : State := endWash s r (List.replicate (waDests r.words) nan32)

/-- A request as the Wash serves it that holds its base now: one sent while the base had no page is sent again once it has one
(R17, log entry 23). -/
def routedWash (s : State) (r : WashReq) : WashReq :=
  match washStack s r.asid (dw64 r.words 0) with
  | some st => { r with stack := st }
  | none => r

/-- R200 to R204: the k-th request is served. -/
def execWashRequest (k : Nat) (s : State) : Answer1 :=
  match s.render.washes[k]? with
  | none => .next s
  | some r =>
    if r.stopped || r.parked.isSome then .next s
    else
      let r := routedWash s r
      let s := onWash s r.id fun x => { x with stack := r.stack }
      match washLoad r.stack r.asid r.waits (washReads r) s [] with
      | .ok s got => .next (endWash s r (washWords r got))
      | .park s acc va lv =>
        let s := faultRecord s (r.stack / 4) 5 acc.bits r.stack r.asid va lv
        .next (onWash s r.id fun x => { x with parked := some (r.stack / 4, r.asid, va) })
      | .stop s va c => .next (stopWash s r va c)
      | .wait s ws => .next (onWash s r.id fun x => { x with waits := ws })

end Sys2Proof.Machine
end

