-- ==== Sys2Proof/Machine/Resolve.lean ====
section
/-! DEFINITION. Resolve.lean: stopped engine jobs resumed or aborted (R204), and translation faults resolved with retry or
fail (R144, R203, R231, R259, R431). -/

namespace Sys2Proof.Machine

/-! ## ENG_JOB (R204) -/

/-- Fields of a write of ENG_JOB. -/
def ejOp (v : DWord) : Nat := nbits v.toNat 62 2
def ejEngine (v : DWord) : Nat := nbits v.toNat 16 3
def ejJob (v : DWord) : Nat := nbits v.toNat 0 16

/-- A callback record of a paddock's job. -/
def callOf (st no : Nat) (r : RingRec) : Bool := r.unit == st && r.job == some no

/-- A paddock goes on, unless something else still holds it: a spill chain whose write had failed is written again. -/
def restartPaddock (s : State) (st : Nat) (q : Paddock) : State :=
  let s := putPaddock s st q
  match q.spill.getLast? with
  | none => s
  | some w => if q.stopped || q.parked.isSome then s else haltJob st q.no w.msg (storeChain st q.spill s)

/-- A stopped paddock's job is resumed: its callback records are tried again. -/
def resumePaddock (s : State) (st : Nat) (p : Paddock) : State :=
  let rings := s.copies.rings.map fun r => if callOf st p.no r then { r with stopped := false } else r
  restartPaddock { s with copies := { s.copies with rings := rings } } st { p with stopped := false }

/-- The waiting chain goes on likewise. -/
def restartChain (s : State) (st : Nat) (c : WaitChain) : State :=
  let s := putChain s st c
  match c.rays.getLast? with
  | none => s
  | some x => if c.stopped || c.parked.isSome then s else haltJob st chainJob x.2.msg (storeChain st (c.rays.map (·.2)) s)

/-- The callback records of a paddock's job are not written, and their rays finish as by an abort. -/
def abortCalls (s : State) (st no : Nat) : State :=
  let calls := s.copies.rings.filter (callOf st no)
  let rays := calls.filterMap (rayOfCall s)
  let s := { s with copies := { s.copies with rings := s.copies.rings.filter fun r => !callOf st no r },
                    render := { s.render with answering := s.render.answering.filter fun a => !rays.contains a } }
  rays.foldl (fun s a => abortRay s st a.work) s

/-- Every message of a paddock finishes as by an abort, and so does every ray whose callback record it has still to write. -/
def abortPaddock (s : State) (st : Nat) (p : Paddock) : State :=
  let s := putPaddock s st { p with fifo := [], spill := [], stopped := false, parked := none }
  settlePaddocks ((p.fifo ++ p.spill).foldl (fun s w => abortRay s st w) (abortCalls s st p.no)) st

/-- Every message of the waiting chain finishes as by an abort. -/
def abortChain (s : State) (st : Nat) : State :=
  let rays := (chainAt s st).rays
  let s := putChain s st {}
  settlePaddocks (rays.foldl (fun s x => abortRay s st x.2) s) st

/-- The stopped request of a Wash with a job number. -/
def stoppedWash (s : State) (st job : Nat) : Option WashReq :=
  s.render.washes.find? fun r => r.stack == st && r.stopped && r.id % 65536 == job

/-- The index of the stopped recomputation of a Copyist with a job number. -/
def stoppedView (s : State) (st job : Nat) : Option Nat :=
  (s.tier.jobs.zipIdx.find? fun (j, _) => j.stopped && stackOf (j.block * 4096) == st &&
    j.now.any fun x => x.2 % 65536 == job).map fun x => x.2

/-- The stopped block of a Blotter with a job number. -/
def stoppedBlock (s : State) (st job : Nat) : Option BlockJob :=
  s.tier.blocked.find? fun j => j.stack == st && j.stopped && j.block % 65536 == job

/-- R204: OP 1 resumes a stopped job at its step. -/
def execEngJobResume (stack : Nat) (v : DWord) (s : State) : Answer1 :=
  if deadStack s stack ∨ ejOp v ≠ 1 then .next s
  else match ejEngine v with
    | 1 =>
      if ejJob v = chainJob then .next (if (chainAt s stack).stopped then
        settlePaddocks (restartChain s stack { chainAt s stack with stopped := false }) stack else s)
      else match paddockOf s stack (ejJob v) with
        | some p => .next (if p.stopped then settlePaddocks (resumePaddock s stack p) stack else s)
        | none => .next s
    | 2 => match stoppedWash s stack (ejJob v) with
        | some r => .next (onWash s r.id fun x => { x with stopped := false })
        | none => .next s
    | 3 => match stoppedView s stack (ejJob v) with
        | some k => .next (onJob s k fun j => { j with stopped := false })
        | none => .next s
    | 4 => match stoppedBlock s stack (ejJob v) with
        | some j => .next (resumeBlock s j)
        | none => .next s
    | _ => .next s

/-- R204, R216, R223: OP 2 aborts a stopped job. -/
def execEngJobAbort (stack : Nat) (v : DWord) (s : State) : Answer1 :=
  if deadStack s stack ∨ ejOp v ≠ 2 then .next s
  else match ejEngine v with
    | 1 =>
      if ejJob v = chainJob then .next (if (chainAt s stack).stopped then abortChain s stack else s)
      else match paddockOf s stack (ejJob v) with
        | some p => .next (if p.stopped then abortPaddock s stack p else s)
        | none => .next s
    | 2 => match stoppedWash s stack (ejJob v) with
        | some r => .next (abortWash s r)
        | none => .next s
    | 3 => match stoppedView s stack (ejJob v) with
        | some k => .next (abortView s k)
        | none => .next s
    | 4 => match stoppedBlock s stack (ejJob v) with
        | some j => .next (skipBlock s j)
        | none => .next s
    | _ => .next s

/-! ## FAULT_RESOLVE (R259) -/

/-- A page that a resolution names: die, address space, page. -/
structure PageKey where
  die : Nat
  asid : Nat
  page : Nat
  deriving DecidableEq, Repr

/-- Something parked at an address waits for the page. -/
def PageKey.holds (k : PageKey) : Option (Nat × Nat × Nat) → Bool
  | some (d, a, va) => d == k.die && a == k.asid && va % 2 ^ 57 / 65536 == k.page
  | none => false

/-- A split waits for the page. -/
def PageKey.waits (k : PageKey) (p : Split) : Bool :=
  match p.wait with
  | .replay d a pg _ _ => d == k.die && a == k.asid && pg == k.page
  | _ => false

/-- The page that a write of FAULT_RESOLVE names. -/
def resolveKey (s : State) (die : Nat) (v : DWord) : PageKey :=
  ⟨die, (dieRegs s die).faultAsid % 2 ^ 32, nbits v.toNat 16 41⟩

/-- The record of the page is resolved. -/
def dropRecord (s : State) (k : PageKey) : State :=
  { s with xlat := { s.xlat with records := s.xlat.records.filter fun r => r != ⟨k.die, k.asid, k.page⟩ } }

/-- Splits, channels, records, messages, requests and conditions that wait for a page go on. -/
def freeWaiters (s : State) (k : PageKey) : State :=
  let groups := s.sched.groups.map fun g =>
    { g with splits := g.splits.map fun p => if k.waits p then { p with wait := .ready } else p }
  let queues := s.sched.queues.map fun q =>
    if k.die = 0 ∧ q.asid = k.asid then { q with condWait := q.condWait.filter fun c => c.2 != k.page } else q
  let chans := s.copies.chans.map fun x : Nat × Channel => (x.1, if k.holds x.2.parked then { x.2 with parked := none } else x.2)
  let rings := s.copies.rings.map fun r => if k.holds r.parked then { r with parked := none } else r
  let flying := s.render.flying.map fun f => if k.holds f.parked then { f with parked := none } else f
  let washes := s.render.washes.map fun r => if k.holds r.parked then { r with parked := none } else r
  let answers := s.render.answers.map fun a => if k.holds a.parked then { a with parked := none } else a
  let jobs := s.tier.jobs.map fun j => if k.holds j.parked then { j with parked := none } else j
  let acks := s.tier.acks.map fun a => if k.holds a.parked then { a with parked := none } else a
  { s with sched := { s.sched with groups := groups, queues := queues },
           copies := { s.copies with chans := chans, rings := rings },
           render := { s.render with flying := flying, washes := washes, answers := answers },
           tier := { s.tier with jobs := jobs, acks := acks } }

/-- Paddocks and waiting chains that wait for a page go on. -/
def resumeRays (s : State) (k : PageKey) : State :=
  (List.range Config.numStacks).foldl (fun s st =>
    let s := ((paddocksOf s st).filter fun p => k.holds p.parked).foldl (fun s p =>
      restartPaddock s st { p with parked := none }) s
    let s := if k.holds (chainAt s st).parked then restartChain s st { chainAt s st with parked := none } else s
    settlePaddocks s st) s

/-- R259: retry replays every waiter of the page. -/
def execFaultResolveRetry (die : Nat) (v : DWord) (s : State) : Answer1 :=
  if deadDie s die ∨ nbits v.toNat 0 2 ≠ 1 then .next s
  else
    let k := resolveKey s die v
    let blocks := s.tier.blocked.filter fun j => k.holds j.parked
    .next (blocks.foldl resumeBlock (resumeRays (freeWaiters (dropRecord s k) k) k))

/-! ### Fail -/

/-- The split as its instruction left it, for the trap of a fail: it goes on at `after`. -/
def unparked (p : Split) (after : DWord) : Split :=
  { p with wait := .ready, pc := after - 4,
           hints := if after = p.pc + 4 then {} else { words := [0], start := p.pc } }

/-- A waiting split takes the permission trap with reason 3. -/
def failSplit (k : PageKey) (s : State) (x : Nat × Nat) : State :=
  match findGroup s x.1 with
  | none => s
  | some g =>
    match findSplit g x.2 with
    | none => s
    | some p =>
      match p.wait with
      | .replay _ _ _ t after => if k.waits p then takeTrap s g (unparked p after) t none else s
      | _ => s

/-- Address at which something waits. -/
def parkedVa : Option (Nat × Nat × Nat) → Nat
  | some (_, _, va) => va
  | none => 0

/-- A message to name in a record, for a job that holds none. -/
def anyMsg : RayMsg :=
  { geom := [], tmin := 0, tmax := 0, ray := 0, batch := 0, first := false, cullb := false, opq := false, bank := 0,
    back := false, proc := false, incomplete := false, terminated := false, bestPrim := 0, bestInst := 0, gen := 0,
    base := 0, desc := 0, bar := 0, launch := 0 }

/-- Coursers' jobs that wait stop with cause 1; a message held at its sender finishes (R204). -/
def failRays (s : State) (k : PageKey) : State :=
  let s := (List.range Config.numStacks).foldl (fun s st =>
    let s := ((paddocksOf s st).filter fun p => k.holds p.parked).foldl (fun s p =>
      let m := ((p.fifo ++ p.spill).head?).elim anyMsg fun w => w.msg
      stopJob (putPaddock s st { p with parked := none }) st p.no 1 (parkedVa p.parked) m) s
    let c := chainAt s st
    if k.holds c.parked then
      stopJob (putChain s st { c with parked := none }) st chainJob 1 (parkedVa c.parked)
        ((c.rays.getLast?).elim anyMsg fun x => x.2.msg)
    else s) s
  let lost := s.render.flying.filter fun f => k.holds f.parked
  let s := { s with render := { s.render with flying := s.render.flying.filter fun f => !k.holds f.parked } }
  let s := lost.foldl (fun s f => failRoute s (stackOf f.work.msg.desc) (parkedVa f.parked) f.work) s
  let answers := s.render.answers.filter fun a => k.holds a.parked
  let s := { s with render := { s.render with answers := s.render.answers.filter fun a => !k.holds a.parked } }
  answers.foldl (fun s a => match matchAnswer s a with
    | some r =>
      failRoute { s with render := { s.render with answering := s.render.answering.erase r } } a.stack (parkedVa a.parked) r.work
    | none => s) s

/-- Channels that wait stop with a permission fault (R144). -/
def failChans (s : State) (k : PageKey) : State :=
  (s.copies.chans.filter fun x => k.holds x.2.parked).foldl (fun (s : State) (x : Nat × Channel) =>
    match x.2.jobs with
    | j :: _ => stopChan s x.1 j 6 x.2.parkCode 3 j.done (parkedVa x.2.parked)
    | [] => s) s

/-- Records that wait are not written (R431); a callback record's paddock has stopped, or stops for it (R204). -/
def failRings (s : State) (k : PageKey) : State :=
  let lost := s.copies.rings.filter fun r => k.holds r.parked
  let calls := lost.filter fun r => r.job.isSome
  let stop := fun (s : State) (r : RingRec) => match r.job with
    | some no => if (paddockOf s r.unit no).any (·.stopped) then s else stopCall s r no (parkedVa r.parked)
    | none => s
  let s := calls.foldl stop s
  let rings := (s.copies.rings.filter fun r => !(k.holds r.parked && r.job.isNone)).map fun r =>
    if k.holds r.parked then { r with parked := none, stopped := true } else r
  (lost.filter fun r => r.job.isNone).foldl ringLost { s with copies := { s.copies with rings := rings } }

/-- Recomputations that wait stop with cause 1. -/
def failViews (s : State) (k : PageKey) : State :=
  ((s.tier.jobs.zipIdx).filter fun x => k.holds x.1.parked).foldl (fun (s : State) (x : ViewJob × Nat) =>
    let s := onJob s x.2 fun j => { j with parked := none }
    let asid := x.1.parked.elim 0 fun y => y.2.1
    stopView s x.2 (stackOf (x.1.block * 4096)) asid (parkedVa x.1.parked) 1 (x.1.now.elim 0 fun y => y.2)) s

/-- Blocks that wait stop with cause 1 and are skipped (R343). -/
def failBlocks (s : State) (k : PageKey) : State :=
  let blocks := s.tier.blocked.filter fun j => k.holds j.parked
  let s := blocks.foldl (fun s j => skipBlock (blotRecord s j.stack j.ckpt j.block 1 (parkedVa j.parked)) j) s
  let acks := s.tier.acks.filter fun a => k.holds a.parked
  acks.foldl (fun s a =>
    let st := (ckptOf s a.ckpt).elim 0 fun c => (blockStack s c a.block).getD 0
    skipEntry (blotRecord s st a.ckpt a.block 1 (parkedVa a.parked)) a) s

/-- Launches whose wait condition waits are refused (R231). -/
def failConds (s : State) (k : PageKey) : State :=
  let queues := s.sched.queues.map fun q =>
    if k.die = 0 && q.asid == k.asid && q.condWait.any (fun c => c.2 == k.page) then
      { q with condDead := ((q.condWait.filter fun c => c.2 == k.page).map fun c => c.1) ++ q.condDead,
               condWait := q.condWait.filter fun c => c.2 != k.page }
    else q
  { s with sched := { s.sched with queues := queues } }

/-- R259: fail gives every waiting split the permission trap and stops every waiting engine job. -/
def execFaultResolveFail (die : Nat) (v : DWord) (s : State) : Answer1 :=
  if deadDie s die ∨ nbits v.toNat 0 2 ≠ 2 then .next s
  else
    let k := resolveKey s die v
    let s := dropRecord s k
    let splits := s.sched.groups.flatMap fun g => (g.splits.filter k.waits).map fun p => (g.id, p.id)
    let s := splits.foldl (failSplit k) s
    let washes := s.render.washes.filter fun r => k.holds r.parked
    let s := washes.foldl (fun s r => stopWash (onWash s r.id fun x => { x with parked := none }) r (parkedVa r.parked) 1) s
    .next (failConds (failBlocks (failViews (failRings (failChans (failRays s k) k) k) k) k) k)

end Sys2Proof.Machine
end

