-- ==== Sys2Proof/Machine/Register.lean ====
section
/-! DEFINITION. Register.lean: registration of region blocks, queues and address spaces, the doorbells, and LAUNCH (R224, R225,
R228, R239, R251, R283, R372, R430). -/

namespace Sys2Proof.Machine

/-! ## REG_RESULT (R283) -/

/-- The result of a registration on a die: reason 0 is success. -/
def regResult (s : State) (die reason : Nat) : State :=
  let d := dieRegs s die
  putDie s die { d with regResult := d.regResult / 65536 * 65536 + reason * 256 + (if reason = 0 then 0 else 1) }

/-- A refused registration: one reason, open where several apply (log entry 26). -/
def refuseReg (s : State) (die : Nat) (reasons : List Nat) : State :=
  let r := pickOne s reasons
  regResult (if 1 < reasons.length then { s with free := s.free + freeStep } else s) die r

/-! ## Region blocks (R224, R225) -/

/-- The fields of a block, as its own bytes give them. -/
def regionFields (addr : Nat) (b : List Byte) : Region :=
  let ctl := fieldAt b 8 4
  { addr := addr, parent := fieldAt b 0 8, prio := nbits ctl 0 4, quantum := nbits ctl 16 8, cls := nbits ctl 4 3,
    isSealed := nbit ctl 7, privOk := nbit ctl 8, landingPad := nbit ctl 9, kill := nbit ctl 10, domRoot := nbit ctl 11,
    cores := fieldAt b 16 2, stencils := fieldAt b 18 2, regKib := fieldAt b 20 4, astKib := fieldAt b 24 4,
    set := ⟨BitVec.ofNat 16 (fieldAt b 28 2), BitVec.ofNat 16 (fieldAt b 30 2), fieldAt b 32 1 % 4, fieldAt b 33 1,
      fieldAt b 34 1⟩,
    bwShare := fieldAt b 36 1, paddocks := fieldAt b 37 1, endureHere := !nbit (fieldAt b 12 4) 4,
    batchBase := fieldAt b 48 2, batchCount := fieldAt b 50 2, cring := BitVec.ofNat 64 (fieldAt b 56 8),
    ering := BitVec.ofNat 64 (fieldAt b 64 8), trapBase := BitVec.ofNat 64 (fieldAt b 72 8),
    deadline0 := fieldAt b 80 2, deadline1 := fieldAt b 82 2 }

/-- INHERIT of a block. -/
def inheritOf (b : List Byte) : Nat := fieldAt b 12 4

/-- A byte or bit that the layout gives as 0 is set. -/
def regionDirty (b : List Byte) : Bool :=
  nbits (fieldAt b 8 4) 12 4 != 0 || nbits (fieldAt b 8 4) 24 8 != 0 || nbits (inheritOf b) 9 23 != 0 ||
    nbits (fieldAt b 32 1) 2 6 != 0 || fieldAt b 35 1 != 0 || fieldAt b 38 2 != 0 || fieldAt b 52 4 != 0 ||
    fieldAt b 84 172 != 0

/-- Inherited field groups take the parent's resolved values (R224, R225). -/
def inherit (inh : Nat) (p r : Region) : Region :=
  let t := nbit inh
  { r with
    prio := if t 0 then p.prio else r.prio, quantum := if t 0 then p.quantum else r.quantum,
    cls := if t 1 then p.cls else r.cls, set := if t 1 then p.set else r.set,
    cores := if t 2 then p.cores else r.cores, stencils := if t 2 then p.stencils else r.stencils,
    regKib := if t 2 then p.regKib else r.regKib, astKib := if t 2 then p.astKib else r.astKib,
    bwShare := if t 3 then p.bwShare else r.bwShare, paddocks := if t 3 then p.paddocks else r.paddocks,
    cring := if t 5 then p.cring else r.cring, ering := if t 5 then p.ering else r.ering,
    trapBase := if t 6 then p.trapBase else r.trapBase, deadline0 := if t 6 then p.deadline0 else r.deadline0,
    deadline1 := if t 6 then p.deadline1 else r.deadline1,
    isSealed := if t 7 then p.isSealed else r.isSealed, privOk := if t 7 then p.privOk else r.privOk,
    landingPad := if t 8 then p.landingPad else r.landingPad, kill := if t 8 then p.kill else r.kill,
    batchBase := if t 8 then p.batchBase else r.batchBase, batchCount := if t 8 then p.batchCount else r.batchCount }

/-- A resolved field outside its limits (R224). -/
def regionOver (r : Region) : Bool :=
  r.quantum == 0 || decide (192 < r.cores) || decide (1536 < r.stencils) || decide (16 < r.set.tfloor) ||
    decide (16 < r.set.hfloor) || r.bwShare == 0 || decide (64 < r.paddocks)

/-- The block at an address, resolved under its parent. -/
def resolvedRegion (s : State) (addr : Nat) : Region :=
  let b := readHome s.ms addr 256
  let r := regionFields addr b
  match regionOf s r.parent with
  | some p => if r.parent = 0 then r else inherit (inheritOf b) p r
  | none => r

/-- Floor shares of distinct classes sum to more than 16 at a level once this class holds its settings (R225). -/
def floorsOver (s : State) (r : Region) : Bool :=
  let others := s.ms.cache.classes.filter fun c => c.1 != r.cls
  decide (16 < r.set.tfloor + (others.map fun c => c.2.tfloor).sum) ||
    decide (16 < r.set.hfloor + (others.map fun c => c.2.hfloor).sum)

/-- Why a block is refused (R225, R283). A block that is misaligned or outside device DRAM is not read. -/
def regionReasons (s : State) (addr : Nat) : List Nat :=
  if addr % 256 ≠ 0 ∨ !inDram s.plat.walk addr 256 then [6]
  else
    let b := readHome s.ms addr 256
    let r := resolvedRegion s addr
    let orphan := r.parent != 0 && (regionOf s r.parent).isNone
    (if regionOver r || (r.parent == 0 && inheritOf b != 0) then [1] else []) ++ (if regionDirty b then [2] else []) ++
      (if floorsOver s r then [3] else []) ++
      (if (mget? r.cls s.ms.cache.classes).any fun c => c != r.set then [4] else []) ++ (if orphan then [5] else [])

/-- Holds a region: a change applies to placements made afterwards; the queues that its killed domain stopped go on (R225,
R251). -/
def putRegion (s : State) (r : Region) : State :=
  let regions := if (regionOf s r.addr).isSome then s.sched.regions.map fun x => if x.addr == r.addr then r else x
                 else s.sched.regions ++ [r]
  let queues := s.sched.queues.map fun q => { q with stopped := q.stopped.filter fun a => a != r.addr }
  let cache := { s.ms.cache with classes := mput r.cls r.set s.ms.cache.classes }
  { s with sched := { s.sched with regions := regions, queues := queues }, ms := { s.ms with cache := cache } }

/-- R225, R283: registers a region block. -/
def execRegRegion (die : Nat) (v : DWord) (s : State) : Answer1 :=
  if deadDie s die then .next s
  else
    let s := if inDram s.plat.walk v.toNat 256 then deviceRead s v.toNat 256 else s
    match regionReasons s v.toNat with
    | [] => .next (regResult (putRegion s (resolvedRegion s v.toNat)) die 0)
    | rs => .next (refuseReg s die rs)

/-! ## Queues (R228) -/

/-- Fields of a queue header. -/
def hdrBase (s : State) (h : Nat) : Nat := leNat (readHome s.ms h 8)
def hdrLog (s : State) (h : Nat) : Nat := leNat (readHome s.ms (h + 8) 1)
def hdrRegion (s : State) (h : Nat) : Nat := leNat (readHome s.ms (h + 16) 8)
def hdrHead (s : State) (h : Nat) : Nat := leNat (readHome s.ms (h + 24) 8)
def hdrTail (s : State) (h : Nat) : Nat := leNat (readHome s.ms (h + 32) 8)

/-- The queue registered with a header. -/
def queueAt (s : State) (header : Nat) : Option Queue := s.sched.queues.find? fun q => q.header == header

/-- Why a queue is refused (R283). -/
def queueReasons (s : State) (header asid : Nat) : List Nat :=
  if header % 64 ≠ 0 ∨ !inDram s.plat.walk header 64 then [6]
  else
    let log := hdrLog s header
    let base := hdrBase s header
    (if log < 4 ∨ 16 < log then [1] else []) ++
      (if leNat (readHome s.ms (header + 9) 7) ≠ 0 ∨ leNat (readHome s.ms (header + 40) 24) ≠ 0 then [2] else []) ++
      (if base % 128 ≠ 0 ∨ !inDram s.plat.walk base 128 ∨ (regionOf s (hdrRegion s header)).isNone then [7] else []) ++
      (if (queueAt s header).isNone ∧ 512 ≤ s.sched.queues.length then [8] else []) ++
      (if (mget? asid s.xlat.binds).isNone then [9] else [])

/-- Holds a queue; a header registered again keeps its number (log entry 26). -/
def putQueue (s : State) (header asid : Nat) : State × Nat :=
  match queueAt s header with
  | some q =>
    let queues := s.sched.queues.map fun x =>
      if x.num == q.num then { x with asid := asid, region := hdrRegion s header, tail := hdrTail s header } else x
    ({ s with sched := { s.sched with queues := queues } }, q.num)
  | none =>
    let q : Queue := { num := s.sched.queues.length, header := header, asid := asid, region := hdrRegion s header,
                       tail := hdrTail s header }
    ({ s with sched := { s.sched with queues := s.sched.queues ++ [q] } }, q.num)

/-- R228, R283, R285: registers a queue under QUEUE_ASID. -/
def execQueueHdr (die : Nat) (v : DWord) (s : State) : Answer1 :=
  if deadDie s die then .next s
  else
    let s := if inDram s.plat.walk v.toNat 64 then deviceRead s v.toNat 64 else s
    let asid := (dieRegs s die).queueAsid
    match queueReasons s v.toNat asid with
    | [] =>
      let r := putQueue s v.toNat asid
      let d := dieRegs r.1 die
      .next (putDie r.1 die { d with regResult := r.2 * 65536 })
    | rs => .next (refuseReg s die rs)

/-- The new TAIL of a queue. -/
def ringTail (s : State) (num tail : Nat) : State :=
  { s with sched := { s.sched with queues := s.sched.queues.map fun q => if q.num == num then { q with tail := tail } else q } }

/-- R228: a doorbell. What the host wrote before it is at home already (R284). -/
def execDoorbell (q : Nat) (v : DWord) (s : State) : Answer1 := .next (ringTail s q v.toNat)

/-! ## LAUNCH (R239, R372) -/

/-- The permission trap of a header that names no queue of the context's subtree (R432). -/
def launchQueue (s : State) (g : Group) (pa : Nat) : Option Queue :=
  (queueAt s pa).bind fun q =>
    if (chainOf s q.region).contains (launchOf s g.launch).desc.region then some q else none

/-- The op unit's part: the entry is copied and TAIL rises, or the queue is full. -/
def appendEntry (s : State) (core : Nat) (q : Queue) (desc : Nat) : State × Bool :=
  let s := deviceRead s q.header 64
  let tail := hdrTail s q.header
  let n := 2 ^ hdrLog s q.header
  if (tail + 2 ^ 64 - hdrHead s q.header) % 2 ^ 64 = n then (s, false)
  else
    let ms := reachHome s.clock.ps (.core core) desc 128 s.ms
    let bs := readHome ms desc 128
    let at_ := hdrBase s q.header + tail % n * 128
    let s := putMs s (engineWrite s.clock.ps .device at_ bs ms)
    let s := putMs s (engineWrite s.clock.ps .device (q.header + 32) (leBytes 8 (tail + 1)) s.ms)
    (ringTail s q.num ((tail + 1) % 2 ^ 64), true)

/-- R239, R372. -/
def execLaunch (y : Bool) (gd : Guard) (n : BitVec 6) (q : BitVec 3) (s : State) : Answer1 :=
  issueQ (.launch y gd n q) {} y gd s fun g p =>
    let x := 2 * n.toNat
    let lanes := allOf g p
    let desc := (getS64 g x).toNat
    let hdr := (getS64 g (x + 2)).toNat
    let mis := if desc % 128 ≠ 0 then some (alignTrap 128 (BitVec.ofNat 64 desc) lanes)
               else if hdr % 64 ≠ 0 then some (alignTrap 64 (BitVec.ofNat 64 hdr) lanes) else none
    orTrap s g p ((sCheck g p [x, x + 1, x + 2, x + 3]).or mis)
      (withChecked (code := some 5) s g p 1 .read (checkObject s (whoOf s g) lanes .read true 5 128 128 desc) fun ds =>
        withChecked s g p 1 .object (checkObject s (whoOf s g) lanes .object true 5 64 64 hdr) fun hs =>
          let dpa := match ds with | (_, pa, _) :: _ => pa | [] => 0
          let hpa := match hs with | (_, pa, _) :: _ => pa | [] => 0
          match launchQueue s g hpa with
          | none => takeTrap s g p (permTrap 9 5 (BitVec.ofNat 64 hdr) lanes) none
          | some qu =>
            if relHeld s g (enabled g p) .dev || fenceHolds s g (enabled g p) [(desc, 128), (hdr, 64)] then hold s g p
            else
              let s := noteAll s (whoOf s g) [desc, hdr]
              let s := releaseAt s g.core g.id .dev
              let r := appendEntry s g.core qu dpa
              finish r.1 (addLong g p (enabled g p) [] [] (some (q.toNat, r.2))) p y)

/-! ## Address spaces (R430) -/

/-- A binding is refused (R430): outside the limits of a bind or an unbind through a pair. -/
def bindBad (s : State) (sel : DWord) (isSealed : Bool) (v : DWord) : Bool :=
  let root := nbits v.toNat 16 36 * 65536
  decide (65535 < sel.toNat) || nbits v.toNat 52 12 != 0 || nbits v.toNat 2 14 != 0 ||
    !inDram s.plat.walk root 65536 ||
    (if nbits v.toNat 0 2 = 1 then (mget? sel.toNat s.xlat.binds).isSome
     else match mget? sel.toNat s.xlat.binds with
       | some b => b.isSealed != isSealed
       | none => false)

/-- The selected ASID of a pair. -/
def asidSel (s : State) (die : Nat) (isSealed : Bool) : DWord :=
  if isSealed then (dieRegs s die).asidSelS else (dieRegs s die).asidSel

/-- The sealed pair is reached only through the secure session (R279, R291). -/
def sealedOff (s : State) (isSealed : Bool) : Bool := isSealed && !s.plat.session

/-- R430: binds the selected address space. -/
def execAsidBind (die : Nat) (isSealed : Bool) (v : DWord) (s : State) : Answer1 :=
  if deadDie s die ∨ sealedOff s isSealed ∨ nbits v.toNat 0 2 ≠ 1 then .next s
  else
    let sel := asidSel s die isSealed
    if bindBad s sel isSealed v then .next (regResult s die 10)
    else
      let b : Binding := ⟨nbits v.toNat 16 36 * 65536, isSealed⟩
      .next (regResult { s with xlat := { s.xlat with binds := mput sel.toNat b s.xlat.binds } } die 0)

/-- R430: unbinds the selected address space. -/
def execAsidUnbind (die : Nat) (isSealed : Bool) (v : DWord) (s : State) : Answer1 :=
  if deadDie s die ∨ sealedOff s isSealed ∨ nbits v.toNat 0 2 ≠ 2 then .next s
  else
    let sel := asidSel s die isSealed
    if bindBad s sel isSealed v then .next (regResult s die 10)
    else .next (regResult { s with xlat := { s.xlat with binds := mdel sel.toNat s.xlat.binds } } die 0)

/-! ## Invalidation (R255, R279) -/

/-- Pages that a write of INVAL names: first, count. -/
def invalPages (v : DWord) : Nat × Nat := (nbits v.toNat 16 41, nbits v.toNat 2 14 + 1)

/-- A held entry translates an address of a page range of an address space. -/
def invalHits (asid first n : Nat) (t : TlbEntry) : Bool :=
  let lo := first * 65536
  let hi := (first + n) * 65536
  t.asid == asid && decide (t.tag * 2 ^ pageBits t.level < hi) && decide (lo < (t.tag + 1) * 2 ^ pageBits t.level)

/-- R255: starts the invalidation of a range of pages; nodes read through them are kept no longer. -/
def execInval (die : Nat) (v : DWord) (s : State) : Answer1 :=
  if deadDie s die then .next s
  else
    let asid := (dieRegs s die).invalAsid
    let (first, n) := invalPages v
    let s := dropNodes s fun l => l.asid == asid && decide (first ≤ l.va % 2 ^ 57 / 65536) && decide (l.va % 2 ^ 57 / 65536 < first + n)
    .next { s with xlat := { s.xlat with invals := s.xlat.invals ++ [(die, asid, first, n)] } }

/-- An access that used an entry of the range has not been performed yet: a load, an active message, a posted write to a peer, or a
copy chunk that waits for a peer. Messages and writes are not told apart by page (log entry 10); a write whose link is dead is
performed no more (R127). -/
def invalBusy (s : State) (asid first n : Nat) : Bool :=
  let other := fun gid : Nat => (findGroup s gid).any fun g => (launchOf s g.launch).asid != asid
  (s.sched.groups.any fun g => (launchOf s g.launch).asid == asid && g.pend.any fun r =>
    r.parts.any fun x => x.data.isNone && decide (first ≤ x.va % 2 ^ 57 / 65536) && decide (x.va % 2 ^ 57 / 65536 < first + n)) ||
  (s.ms.cache.amsgs.any fun m => !other m.group) ||
  (s.plat.linkRetraining != 0 && s.ms.cache.peerWrites.any fun w => w.lost.isNone && !(w.own.all fun o => other o.1)) ||
  !s.copies.peerChunks.isEmpty

/-- The entry of a held leaf; none for a table entry. -/
def entryLeaf (t : TlbEntry) : Option (Nat × Nat) := if nbit t.entry.toNat 1 then some (t.level, t.entry.toNat) else none

/-- What the tables now give for the address of an entry. -/
def leafNow (s : State) (t : TlbEntry) : Option (Nat × Nat) :=
  (mget? t.asid s.xlat.binds).bind fun b =>
    match (walkTables s.ms s.plat.walk (fun _ _ => none) (t.tag * 2 ^ pageBits t.level % 2 ^ 57) 4 b.root).stop with
    | .leaf l e => some (l, e)
    | _ => none

/-- N and M of the pages whose leaves have been dropped, by what the tables and the entries still held give (R105, R108, R209;
log entry 26). A master block outside every M page loses its state. -/
def dropAttrs (s : State) (gone left : List TlbEntry) : Meta :=
  let d := s.ms.dram
  let old := (gone.filterMap entryLeaf).map fun x : Nat × Nat => (entryAddr x.2, 2 ^ pageBits x.1)
  let kept := { d with nRanges := d.nRanges.filter fun r => !old.contains r,
                       mRanges := d.mRanges.filter fun r => !old.contains (r.1, r.2.1) }
  let note := fun (d : Meta) (x : Nat × Nat) => noteLeaf s.clock.ps d x.1 x.2
  let new := (gone.filterMap (leafNow s) ++ left.filterMap entryLeaf).foldl note kept
  -- a page that was a master page before has been one since then
  let since := fun r : Nat × Nat × Nat => (d.mRanges.find? fun q => q.1 == r.1 && q.2.1 == r.2.1).getD r
  let new := { new with mRanges := new.mRanges.map since }
  { new with blocks := new.blocks.filter fun b =>
      !(old.any (inRange (b.1 * 4096))) || (masterSince new (b.1 * 4096)).isSome }

/-- R255: every structure has dropped the entries of a die's oldest invalidation, and every access that used them has been
performed. -/
def execInvalidationComplete (die : Nat) (s : State) : Answer1 :=
  match s.xlat.invals.find? fun i => i.1 == die with
  | none => .next s
  | some (d, asid, first, n) =>
    -- writes to peers are acknowledged while a port is up
    let s := if s.plat.linkUp = 0 then s else { s with ms := performPeers s.ms }
    if invalBusy s asid first n then .next s
    else
      let left := s.xlat.tlb.filter fun t => !invalHits asid first n t
      let gone := s.xlat.tlb.filter (invalHits asid first n)
      let invals := s.xlat.invals.erase (d, asid, first, n)
      .next { s with xlat := { s.xlat with invals := invals, tlb := left },
                     ms := { s.ms with dram := dropAttrs s gone left } }

end Sys2Proof.Machine
end

