-- ==== Sys2Proof/Machine/Placement.lean ====
section
/-! DEFINITION. Placement.lean: where a workgroup fits, the span that the dispatcher takes, the trial of a COSCHED launch, and the
groups a placement creates (R22 to R26, R58, R159, R226, R232 to R238, R282, R288). -/

namespace Sys2Proof.Machine

/-! ## What a core has free (R236) -/

def groupsOn (s : State) (c : Nat) : List Group := s.sched.groups.filter fun g => g.core == c
def wgsOn (s : State) (c : Nat) : List Workgroup := s.sched.wgs.filter fun w => w.cores.contains c

/-- The descriptor of a resident workgroup's launch. -/
def descOf (s : State) (w : Workgroup) : LaunchDesc := (launchOf s w.launch).desc

/-- Rounded A-store size B of a launch (R24). -/
def aSize (d : LaunchDesc) : Nat := roundUp d.astore 4096

/-- Cores of the span of a workgroup, where one of 8 fits (R23, R234). -/
def spanSize (d : LaunchDesc) : Option Nat :=
  [1, 2, 4, 8].find? fun n =>
    let q := ceilDiv d.groups n
    decide (q ≤ 64) && decide (ceilDiv q (128 / d.width) * d.vregs ≤ 2048) && decide (aSize d ≤ Config.astoreBytes) &&
      decide (d.ctiles ≤ 128) && decide (d.stencils ≤ 32)

/-- A register block: first octet, octets, offset, registers (R25, R58). -/
structure RegBlock where
  octet : Nat
  octets : Nat
  off : Nat
  regs : Nat
  deriving DecidableEq, Repr

def blocksOn (s : State) (c : Nat) : List RegBlock :=
  (groupsOn s c).map fun g => ⟨g.octet, g.width / 8, g.regOffset, g.vregs⟩

/-- Two blocks share a register. -/
def RegBlock.meets (a b : RegBlock) : Bool :=
  decide (a.octet < b.octet + b.octets) && decide (b.octet < a.octet + a.octets) && decide (a.off < b.off + b.regs) &&
    decide (b.off < a.off + a.regs)

/-- The first free block of k octets and v registers. -/
def freeBlock (bs : List RegBlock) (k v : Nat) : Option RegBlock :=
  ((List.range (16 / k)).map fun i => k * i).findSome? fun o =>
    (((List.range 256).map fun i => (⟨o, k, 8 * i, v⟩ : RegBlock)).find? fun b =>
      decide (b.off + v ≤ 2048) && !(bs.any b.meets))

/-- Blocks for n groups, one after another. -/
def takeBlocks (k v : Nat) : Nat → List RegBlock → List RegBlock
  | 0, _ => []
  | n + 1, bs => match freeBlock bs k v with
    | none => []
    | some b => b :: takeBlocks k v n (b :: bs)

/-- The lowest place of `size` bytes below `limit` that meets none of the used ranges. -/
def gapAt (used : List (Nat × Nat)) (size limit : Nat) : Option Nat :=
  let used := used.filter fun u => u.2 != 0
  let ok := (0 :: used.map fun u => u.1 + u.2).filter fun a =>
    decide (a + size ≤ limit) && used.all fun u => decide (a + size ≤ u.1) || decide (u.1 + u.2 ≤ a)
  if size = 0 then some 0
  else match ok with
    | [] => none
    | a :: r => some (r.foldl min a)

/-- A-store, W-store and C-store ranges in use on a core. -/
def aUsed (s : State) (c : Nat) : List (Nat × Nat) := (wgsOn s c).map fun w => (mget 0 c w.aBase, w.aBytes)
def wUsed (s : State) (c : Nat) : List (Nat × Nat) := (wgsOn s c).map fun w => (mget 0 c w.wBase, (descOf s w).stencils * 8192)
def cUsed (s : State) (c : Nat) : List (Nat × Nat) := (wgsOn s c).map fun w => (mget 0 c w.cBase, (descOf s w).ctiles * 2048)

/-- Bytes of ranges. -/
def sumBytes (rs : List (Nat × Nat)) : Nat := (rs.map fun r => r.2).sum

/-- Bases of W-store and C-store name storage that need not be contiguous in the core: bases run to 2^24 (log entry 27). -/
def baseLimit : Nat := 2 ^ 24

/-- Physical stencil slots of a team that workgroups hold. -/
def slotsUsed (s : State) (t : Nat) : List Nat := s.sched.wgs.flatMap fun w => mget [] t w.slots

/-- Physical slots for n logical slots: pairs on the two planes of a pane, an odd last one on a single plane (R159). -/
def takeSlots (used : List Nat) (n : Nat) : Option (List Nat) :=
  let panes := ((List.range 16).filter fun p => !used.contains p && !used.contains (p + 16)).take (n / 2)
  let pairs := panes.flatMap fun p => [p, p + 16]
  if panes.length < n / 2 then none
  else if n % 2 = 0 then some pairs
  else
    let rest := (List.range 32).filter fun x => !used.contains x && !pairs.contains x
    ((rest.find? fun x => used.contains ((x + 16) % 32)).or rest.head?).map fun x => pairs ++ [x]

/-- No workgroup of the other world is resident in the core's team (R288). -/
def worldFits (s : State) (isSealed : Bool) (c : Nat) : Bool :=
  s.sched.wgs.all fun w => w.isSealed == isSealed || w.cores.all fun x => teamOf x != teamOf c

/-- Everything that a span position needs is free on a core at once (R236). -/
def coreFits (s : State) (d : LaunchDesc) (isSealed : Bool) (per c : Nat) : Bool :=
  decide ((groupsOn s c).length + per ≤ 64) && worldFits s isSealed c &&
    decide (sumBytes (wUsed s c) + d.stencils * 8192 ≤ Config.wstoreBytes) &&
    decide (sumBytes (cUsed s c) + d.ctiles * 2048 ≤ Config.cstoreBytes) &&
    (gapAt (aUsed s c) (aSize d) Config.astoreBytes).isSome && (takeSlots (slotsUsed s (teamOf c)) d.stencils).isSome &&
    (takeBlocks (d.width / 8) d.vregs per (blocksOn s c)).length == per

/-- Registers of the core's file that no group holds, all octets together. -/
def regsFree (s : State) (c : Nat) : Nat :=
  16 * 2048 - ((blocksOn s c).map fun b => b.octets * b.regs).sum

/-- Everything is free in total, wherever it lies (R237). -/
def coreTotal (s : State) (d : LaunchDesc) (isSealed : Bool) (per c : Nat) : Bool :=
  decide ((groupsOn s c).length + per ≤ 64) && worldFits s isSealed c &&
    decide (sumBytes (wUsed s c) + d.stencils * 8192 ≤ Config.wstoreBytes) &&
    decide (sumBytes (cUsed s c) + d.ctiles * 2048 ≤ Config.cstoreBytes) &&
    decide (sumBytes (aUsed s c) + aSize d ≤ Config.astoreBytes) &&
    decide ((slotsUsed s (teamOf c)).length + d.stencils ≤ 32) && decide (per * (d.width / 8) * d.vregs ≤ regsFree s c)

/-! ## Budgets (R226, R282) -/

/-- Resident workgroups and groups of a region's subtree. -/
def underRegion (s : State) (r launch : Nat) : Bool := (chainOf s (launchOf s launch).desc.region).contains r
def subtreeWgs (s : State) (r : Nat) : List Workgroup := s.sched.wgs.filter fun w => underRegion s r w.launch
def subtreeGroups (s : State) (r : Nat) : List Group := s.sched.groups.filter fun g => underRegion s r g.launch

/-- Stencil slots that a workgroup holds, once in each team. -/
def wgSlots (w : Workgroup) : Nat := (w.slots.map fun x => x.2.length).sum

/-- The budgets that do not depend on the span: a workgroup of `groups` groups on n cores (R226). -/
def flatBudget (s : State) (d : LaunchDesc) (n groups : Nat) (r : Region) : Bool :=
  let regs := ((subtreeGroups s r.addr).map fun g => g.width * g.vregs * 4).sum + groups * d.width * d.vregs * 4
  let ast := ((subtreeWgs s r.addr).map fun w => w.aBytes * w.cores.length).sum + n * aSize d
  let held := ((subtreeGroups s r.addr).map fun g => g.core).dedup
  decide (regs ≤ r.regKib * 1024) && decide (ast ≤ r.astKib * 1024) && decide (held.length ≤ r.cores) &&
    decide (((subtreeWgs s r.addr).map wgSlots).sum ≤ r.stencils)

/-- A limit on the cores of a span: cores that do not count, and how many others it may take. -/
structure CoreLimit where
  free : List Nat
  most : Nat
  deriving DecidableEq, Repr

def CoreLimit.allows (l : CoreLimit) (cs : List Nat) : Bool :=
  decide ((cs.filter fun c => !l.free.contains c).length ≤ l.most)

/-- CORES of a region: cores with work of its subtree count already; `idle` positions hold no group. -/
def regionLimit (s : State) (idle : Nat) (r : Region) : CoreLimit :=
  let held := ((subtreeGroups s r.addr).map fun g => g.core).dedup
  ⟨held, r.cores - held.length + idle⟩

/-- Cores of a die that hold a workgroup. -/
def busyCores (s : State) (die : Nat) : List Nat :=
  (s.sched.wgs.flatMap fun w => w.cores.filter fun c => dieOf c == die).dedup

/-- Cores of a die kept free (R282): the classes apart from the one a restore may use. -/
def reserveOf (s : State) (die : Nat) (own : Option Nat) : Nat :=
  let d := dieRegs s die
  (if own = some 0 then 0 else d.part0) + (if own = some 1 then 0 else d.part1)

/-- PARTITION as a limit; none where the die has too few free cores already. -/
def partLimit (s : State) (die : Nat) (own : Option Nat) : Option CoreLimit :=
  let busy := busyCores s die
  let free := 96 - busy.length
  if own.isNone && decide (free < reserveOf s die own) then none else some ⟨busy, free - reserveOf s die own⟩

/-- How many teams a span may reserve its stencil slots in (R226). -/
def teamLimit (s : State) (d : LaunchDesc) (n : Nat) (chain : List Region) : Nat :=
  if d.stencils = 0 then n
  else chain.foldl (fun t r => min t ((r.stencils - ((subtreeWgs s r.addr).map wgSlots).sum) / d.stencils)) n

/-- Regions from a launch's own up to the root. -/
def chainRegions (s : State) (addr : Nat) : List Region := (chainOf s addr).filterMap (regionOf s)

/-! ## The span (R236) -/

/-- Lists in the order of their first difference. -/
def listLe : List Nat → List Nat → Bool
  | [], _ => true
  | _ :: _, [] => false
  | a :: r, b :: t => decide (a < b) || (a == b && listLe r t)

/-- A list sorted by a rank; equal ranks keep their order. -/
def sortBy (rank : Nat → Nat) (xs : List Nat) : List Nat := xs.foldr (insertRank rank) []

/-- Takes n of the candidates in their order, as far as the limits allow. -/
def pickCores (ls : List CoreLimit) : List Nat → Nat → List Nat → Option (List Nat)
  | _, 0, got => some got
  | [], _ + 1, _ => none
  | c :: r, n + 1, got =>
    if ls.all fun l => l.allows (c :: got) then pickCores ls r n (c :: got) else pickCores ls r (n + 1) got

/-- Sublists of k elements. -/
def choose_ : List Nat → Nat → List (List Nat)
  | _, 0 => [[]]
  | [], _ + 1 => []
  | x :: r, k + 1 => ((choose_ r k).map fun l => x :: l) ++ choose_ r (k + 1)

/-- Cores that a drain keeps for another queue's waiter from a workgroup of this priority (R237). -/
def drained (s : State) (q : Option Nat) (prio c : Nat) : Bool :=
  s.sched.queues.any fun x => some x.num != q && x.drain.contains c &&
    (match x.head with
     | some id => (regionOf s (launchOf s id).desc.region).any fun r => decide (prio ≤ r.prio)
     | none => false)

/-- Dies in service (R20). -/
def dies (s : State) : List Nat := if s.plat.walk then [0] else [0, 1]

/-- Cores of a die, by fewest free group slots, then lowest CORE_ID. -/
def coresBySlots (s : State) (die : Nat) (f : Nat → Bool) : List Nat :=
  sortBy (fun c => 64 - (groupsOn s c).length) (((List.range 96).map fun i => 96 * die + i).filter f)

/-- Order among spans: fewest free group slots in all, then the lowest CORE_IDs. -/
def spanKey (s : State) (cs : List Nat) : List Nat :=
  (cs.map fun c => 64 - (groupsOn s c).length).sum :: sortBy id cs

/-- The better of two spans. -/
def betterSpan (s : State) (best : Option (List Nat)) (cs : List Nat) : Option (List Nat) :=
  match best with
  | none => some cs
  | some b => if listLe (spanKey s b) (spanKey s cs) then some b else some cs

/-- The spans of a die among which the best one is: each team restriction's first choice. -/
def dieSpans (s : State) (d : LaunchDesc) (chain : List Region) (n : Nat) (f : Nat → Bool) (die : Nat) : List (List Nat) :=
  match partLimit s die none with
  | none => []
  | some part =>
    let idle := n - ceilDiv d.groups (ceilDiv d.groups n)
    let limits := part :: chain.map (regionLimit s idle)
    let cands := coresBySlots s die f
    let teams := teamLimit s d n chain
    let all := (cands.map teamOf).dedup
    if n ≤ teams then (pickCores limits cands n []).toList
    else (choose_ all (min teams all.length)).filterMap fun ts =>
      pickCores limits (cands.filter fun c => ts.contains (teamOf c)) n []

/-- The span a workgroup takes where a test says which cores fit: n cores of one die (R236). -/
def findSpan (s : State) (q : Option Nat) (d : LaunchDesc) (n : Nat) (fits : Nat → Bool) : Option (List Nat) :=
  let chain := chainRegions s d.region
  match chain with
  | [] => none
  | own :: _ =>
    if chain.all (flatBudget s d n d.groups) then
      let f := fun c => !drained s q own.prio c && fits c
      ((dies s).flatMap (dieSpans s d chain n f)).foldl (betterSpan s) none
    else none

/-! ## Placing (R22, R26, R233, R236, R288) -/

/-- A team changes its world (R288). -/
def cleanTeam (s : State) (t : Nat) : State :=
  let cs := (List.range 4).map fun i => 4 * t + i
  let now := s.clock.ps
  let ms := (s.ms.cache.homePins ++ s.ms.cache.teamPins).foldl (fun ms p =>
    if teamOf p.ownerCore = t then promote now ms p else ms) s.ms
  let ms := cs.foldl (fun ms c => wbL1All now c allLines (drainWc now c ms)) ms
  let ms := wbTeamAll now t allLines ms
  let cache := { ms.cache with l1 := ms.cache.l1.filter fun l => !cs.contains l.owner,
                               team := ms.cache.team.filter fun l => l.owner != t }
  let keep := fun x : Nat × Byte => !cs.contains (x.1 / 2 ^ 24)
  let s := putMs s { ms with cache := cache }
  { s with cores := { s.cores with
    astore := s.cores.astore.filter keep, wstore := s.cores.wstore.filter keep, cstore := s.cores.cstore.filter keep,
    yokes := s.cores.yokes.map fun x : Nat × Yoke => (x.1, if x.1 = t then { x.2 with planes := [] } else x.2) } }

/-- The teams of a span run contexts of a world (R288). -/
def enterWorld (s : State) (isSealed : Bool) (ts : List Nat) : State :=
  let s := ts.foldl (fun s t => if mget false t s.sched.worlds = isSealed then s else cleanTeam s t) s
  { s with sched := { s.sched with worlds := ts.foldl (fun m t => mset false t isSealed m) s.sched.worlds } }

/-- Reservations of a workgroup on the cores of its span, in span order. -/
def reserve (s : State) (d : LaunchDesc) (cores : List Nat) (w : Workgroup) : Workgroup :=
  let each := fun (f : Nat → Nat) => cores.foldl (fun m c => mput c (f c) m) ([] : NMap Nat)
  { w with
    cores := cores, aBytes := aSize d,
    aBase := each fun c => (gapAt (aUsed s c) (aSize d) Config.astoreBytes).getD 0,
    wBase := each fun c => (gapAt (wUsed s c) (d.stencils * 8192) baseLimit).getD 0,
    cBase := each fun c => (gapAt (cUsed s c) (d.ctiles * 2048) baseLimit).getD 0,
    slots := (cores.map teamOf).dedup.foldl (fun m t =>
      mput t ((takeSlots (slotsUsed s t) d.stencils).getD []) m) ([] : NMap (List Nat)) }

/-- A group at its creation (R26, R44, R75). -/
def newGroup (d : LaunchDesc) (launch wg index id core pos : Nat) (b : RegBlock) : Group :=
  let slices := d.width / 4
  { id := id, launch := launch, wg := wg, index := index, core := core, pos := pos, width := d.width, vregs := d.vregs,
    sregs := d.sregs, octet := b.octet, regOffset := b.off,
    itemBase := if d.kmax = 0 then 0 else BitVec.ofNat 32 ((wg * d.groups + index) * d.width),
    s := mset 0 1 (fld d.args 32 32) (mset 0 0 (fld d.args 0 32) []),
    gens := (List.range d.width).map (seedLane 0),
    slices := List.replicate slices ⟨15, 15, [], 0⟩,
    splits := [{ id := 0, slices := List.range slices, pc := d.entry, fmt := 0 }] }

/-- Register blocks of the groups at each span position, in the order of the groups. -/
def blocksFor (s : State) (d : LaunchDesc) (per : Nat) (cores : List Nat) : List RegBlock :=
  (cores.flatMap fun c => takeBlocks (d.width / 8) d.vregs per (blocksOn s c)).take d.groups

/-- The cores in the order of span positions: the dispatcher's own (R236), cores that are new to the launch's regions last where
some position holds no group. -/
def spanOrder (s : State) (d : LaunchDesc) (cs : List Nat) : List Nat :=
  let own := sortBy Config.spanOrder (sortBy id cs)
  if cs.length ≤ 1 then cs
  else if cs.length = ceilDiv d.groups (ceilDiv d.groups cs.length) then own
  else
    let chain := chainRegions s d.region
    sortBy (fun c => (chain.filter fun r => !(regionLimit s 0 r).free.contains c).length) own

/-- What has been published of the items before a group's own, among the last 16 up to its last (R49). -/
def slotsBefore (s : State) (d : LaunchDesc) (launch first : Nat) : List RelaySlot :=
  let before := (List.range (min (16 - d.width) first)).map fun i => first - 1 - i
  before.flatMap fun i => (List.range d.slots).filterMap fun k =>
    (slotOf s launch i k).map fun v => (⟨i, k, v.1, v.2⟩ : RelaySlot)

/-- The Relay entry that a group of a chained launch takes at its placement (R49). -/
def relayEntry (s : State) (d : LaunchDesc) (g : Group) : RelayEntry :=
  let first := g.itemBase.toNat
  { launch := g.launch, wg := g.wg, group := g.id, core := g.core, first := first, width := d.width,
    slots := slotsBefore s d g.launch first }

/-- After a restore the launch's entries take the slots that were out of their reach during the save: those of the restored
workgroup's items, and, for its own entries, those published meanwhile (R49, R427). -/
def refillRelay (s : State) (d : LaunchDesc) (launch : Nat) : State :=
  let fill := fun e : RelayEntry =>
    if e.launch != launch then e
    else { e with slots := e.slots ++ (slotsBefore s d launch e.first).filter fun r =>
      !(e.slots.any fun x => x.item == r.item && x.slot == r.slot) }
  { s with sched := { s.sched with relay := s.sched.relay.map fill } }

/-- Places workgroup `wg` of a launch on the cores of a span. The start of its groups acquires at device scope (R128, R298). -/
def placeWg (s : State) (l : Launch) (wg : Nat) (cs : List Nat) : State :=
  let d := l.desc
  let r := regionOf s d.region
  let isSealed := r.any fun r => r.isSealed
  let s := enterWorld s isSealed (cs.map teamOf).dedup
  let cores := spanOrder s d cs
  let per := ceilDiv d.groups cores.length
  let w : Workgroup := reserve s d cores
    { launch := l.id, wg := wg, cores := [], groupsLeft := d.groups, aBytes := 0, aBase := [], wBase := [], cBase := [],
      slots := [], trapBase := r.elim 0 fun r => r.trapBase, isSealed := isSealed, priv := d.priv,
      landingPad := r.any fun r => r.landingPad, terms := r }
  let groups := (blocksFor s d per cores).zipIdx.map fun (b, i) =>
    newGroup d l.id wg i (s.sched.nextGroup + i) (cores.getD (i / per) 0) (i / per) b
  let relay := if d.kmax = 0 then [] else groups.map (relayEntry s d)
  let s := { s with sched := { s.sched with wgs := s.sched.wgs ++ [w], groups := s.sched.groups ++ groups,
                                            relay := s.sched.relay ++ relay, nextGroup := s.sched.nextGroup + d.groups } }
  let s := putMs s (cores.foldl (fun ms c => startOn c ms) s.ms)
  putLaunch s { launchOf s l.id with placed := wg + 1, terms := r }

/-- The next workgroup of a launch, placed where it fits. -/
def placeNext (s : State) (q : Option Nat) (id : Nat) : Option State :=
  let l := launchOf s id
  let isSealed := (regionOf s l.desc.region).any fun r => r.isSealed
  match spanSize l.desc with
  | none => none
  | some n =>
    (findSpan s q l.desc n (coreFits s l.desc isSealed (ceilDiv l.desc.groups n))).map fun cs => placeWg s l l.placed cs

/-- The next k workgroups of a launch, or none of them (R238). -/
def placeMany (q : Option Nat) (id : Nat) : Nat → State → Option State
  | 0, s => some s
  | k + 1, s => (placeNext s q id).bind (placeMany q id k)

/-- The device with every core free, and nothing kept or drained (R232, R266). -/
def bareDevice (s : State) : State :=
  { s with sched := { s.sched with groups := [], wgs := [],
                                   queues := s.sched.queues.map fun q => { q with drain := [] } },
           die0 := { s.die0 with part0 := 0, part1 := 0 }, die1 := { s.die1 with part0 := 0, part1 := 0 } }

/-- A COSCHED launch fits an empty device and the budgets of its regions (R232). Every workgroup takes a group slot of the
device's 12,288 at least. -/
def coschedFits (s : State) (l : Launch) : Bool :=
  let n := gridSize l.desc
  decide (n * l.desc.groups ≤ 12288) &&
    (let s := bareDevice s
     let s := { s with sched := { s.sched with launches := s.sched.launches ++ [l] } }
     (placeMany none l.id n s).isSome)

end Sys2Proof.Machine
end

