-- ==== Sys2Proof/Machine/Preemption.lean ====
section
/-! DEFINITION. Preemption.lean: pre-emption and restore (R51, R67, R157, R177, R205, R260 to R267, R280, R281, R427). -/

namespace Sys2Proof.Machine

/-! ## Results (R281) -/

/-- A result arises on the die whose register took the request. -/
def pushResult (s : State) (die : Nat) (tag : Word) (result done : Nat) : State :=
  let x : DWord := BitVec.ofNat 64 (tag.toNat * 2 ^ 32 + result * 2 ^ 24 + done % 65536)
  { s with pre := { s.pre with results := s.pre.results ++ [(die, x)] } }

/-- R281: reading returns the oldest result and removes it; 0 with none pending. -/
def readPreemptStatus (s : State) (die : Nat) : State :=
  if deadDie s die then deliver s [0]
  else match s.pre.results.find? fun r => r.1 == die with
    | none => deliver s [0]
    | some r => deliver { s with pre := { s.pre with results := s.pre.results.erase r } } [r.2]

/-- R281. -/
def execPreemptStatusRead (die : Nat) (s : State) : Answer1 := .next (readPreemptStatus s die)

/-! ## Request records (R280) -/

/-- A request record. -/
structure Request where
  launch : Nat
  count : Nat
  area : Nat
  stride : Nat
  tag : Word
  entries : List (Nat × Nat)
  bad : Bool
  deriving DecidableEq, Repr

/-- The record at an address, which lies in device DRAM. A bad one has a field outside its limits or a reserved byte set. -/
def readRequest (s : State) (a : Nat) : Request :=
  let b := readHome s.ms a 64
  let count := fieldAt b 4 4
  let es := (List.range (min count 4096)).map fun j => readHome s.ms (a + 64 + 16 * j) 16
  { launch := fieldAt b 0 4, count := count, area := fieldAt b 8 8, stride := fieldAt b 16 4,
    tag := BitVec.ofNat 32 (fieldAt b 20 4),
    entries := es.map fun e => (fieldAt e 0 4, fieldAt e 8 8),
    bad := decide (4096 < count) || fieldAt b 16 4 % 64 != 0 || fieldAt b 24 40 != 0 ||
      (count == 0 && fieldAt b 8 8 % 64 != 0) || es.any fun e => fieldAt e 4 4 != 0 || fieldAt e 8 8 % 64 != 0 }

/-- The whole record can be read: aligned and in device DRAM. -/
def requestHere (s : State) (a : Nat) : Bool :=
  decide (a % 64 = 0) && inDram s.plat.walk a 64 && inDram s.plat.walk a (64 + 16 * min 4096 (leNat (readHome s.ms (a + 4) 4)))

/-- TAG of a record, open where it cannot be read. -/
def requestTag (s : State) (a : Nat) : Word :=
  if inDram s.plat.walk a 64 then BitVec.ofNat 32 (leNat (readHome s.ms (a + 20) 4)) else Config.freeWord s.free

/-- Bytes of a save area (R280). -/
def areaBytes (w : Workgroup) : Nat := 0x40_0000 * w.cores.length

/-- Every byte of a range lies in some of the ranges. -/
def coveredBy (rs : List (Nat × Nat)) : Nat → Nat → Nat → Bool
  | 0, a, e => decide (e ≤ a)
  | k + 1, a, e =>
    if e ≤ a then true
    else match rs.find? (inRange a) with
      | some r => coveredBy rs k (r.1 + r.2) e
      | none => false

/-! ## Stopping (R260, R261) -/

/-- Workgroups of a launch that are resident, in increasing WG_ID. -/
def residentOf (s : State) (launch : Nat) : List Workgroup :=
  let ws := s.sched.wgs.filter fun w => w.launch == launch && decide (0 < w.groupsLeft)
  (sortBy id (ws.map fun w => w.wg)).map (wgOf s launch)

/-- The workgroups a record names, with their save areas. -/
def namedAreas (s : State) (r : Request) : List (Nat × Nat) :=
  if r.count = 0 then (residentOf s r.launch).zipIdx.map fun (w, i) => (w.wg, r.area + i * r.stride) else r.entries

/-- Why a well-formed request is refused (R260, R280, R281). -/
def preemptReasons (s : State) (r : Request) : List Nat :=
  let named := namedAreas s r
  let res := residentOf s r.launch
  let d := (launchOf s r.launch).desc
  let here := fun wg : Nat => res.find? fun w => w.wg == wg
  (if d.pclass = 2 then [5] else []) ++
    (if named.any fun x => (here x.1).any fun w =>
        w.isSealed && !coveredBy s.plat.sealedRanges 17 x.2 (x.2 + areaBytes w) then [6] else []) ++
    (if !(named.map fun x => x.1).Nodup || named.any (fun x => !((here x.1).any fun w => !w.stopping)) then [9] else []) ++
    (if d.cosched && (res.any fun w => !(named.any fun x => x.1 == w.wg)) then [10] else [])

/-- Some save area does not lie wholly in device DRAM. -/
def areasOut (s : State) (r : Request) : Bool :=
  (namedAreas s r).any fun x => !inDram s.plat.walk x.2 (areaBytes { wgOf s r.launch x.1 with
    cores := if (wgOf s r.launch x.1).cores.isEmpty then [0] else (wgOf s r.launch x.1).cores })

/-- Every split of a group stops: a hint pair that has begun does not start (R261). One whose trap waits for results has executed its
pair, and keeps it for the trap (R247). -/
def stopGroup (g : Group) : Group :=
  { g with splits := g.splits.map fun p => match p.wait with
      | .drain _ _ => p
      | w => if p.hints.words.isEmpty then p else backTo p w }

/-- A workgroup stops; its entries that are not granted leave the tables, in table order (R177, R261). -/
def stopWg (s : State) (w : Workgroup) : State :=
  let mine := fun r : YokeReq => r.launch == w.launch && r.wg == w.wg
  let gone := s.cores.yokes.flatMap fun x : Nat × Yoke => (x.2.table ++ x.2.waiting).filter mine
  let s := putWg s { w with stopping := true, removed := gone }
  { s with
    sched := { s.sched with groups := s.sched.groups.map fun g =>
      if g.launch == w.launch && g.wg == w.wg then stopGroup g else g },
    cores := { s.cores with yokes := s.cores.yokes.map fun x : Nat × Yoke =>
      (x.1, { x.2 with table := x.2.table.filter fun r => !mine r, waiting := x.2.waiting.filter fun r => !mine r }) } }

/-- Deadline of a launch in ps: its class's DEADLINE from the request on (R224, R260). -/
def deadlineOf (s : State) (launch : Nat) : Nat :=
  let d := (launchOf s launch).desc
  let us := (launchTerms s (launchOf s launch)).elim 0 fun r => if d.pclass = 0 then r.deadline0 else r.deadline1
  s.clock.ps + us * 1_000_000

/-- R260, R261, R280: a pre-emption request. -/
def execPreempt (die : Nat) (v : DWord) (s : State) : Answer1 :=
  let a := v.toNat
  if deadDie s die then .next s
  else if !requestHere s a then .next (pushResult { s with free := s.free + freeStep } die (requestTag s a) 4 0)
  else
    let s := deviceRead s a 64
    let r := readRequest s a
    if r.bad || areasOut s r then .next (pushResult s die r.tag 4 0)
    else match preemptReasons s r with
      | [] =>
        let named := namedAreas s r
        match named with
        | [] => .next (pushResult s die r.tag 1 0)
        | _ =>
          let req : PreReq := { tag := r.tag, die := die, launch := r.launch, left := named, done := 0,
                                deadline := deadlineOf s r.launch, passed := false, late := [], lateSaves := false }
          let s := { s with pre := { s.pre with reqs := s.pre.reqs ++ [req] } }
          .next (named.foldl (fun s x => stopWg s (wgOf s r.launch x.1)) s)
      | rs => .next (pushResult { s with free := s.free + freeStep } die r.tag (pickOne s rs) 0)

/-! ## The deadline and retraining (R261, R267) -/

/-- Stacks that hold bytes of a workgroup's save area: a range of this size meets two at most. -/
def areaStacks (s : State) (launch : Nat) (x : Nat × Nat) : List Nat :=
  [stackOf x.2, stackOf (x.2 + (areaBytes (wgOf s launch x.1) - 1))].dedup

/-- Stacks that a request still has to write to. -/
def reqStacks (s : State) (r : PreReq) : List Nat := (r.left.flatMap (areaStacks s r.launch)).dedup

/-- Some stack of a save area has retrained after the deadline, so that the save is late (R267). -/
def lateArea (s : State) (r : PreReq) (x : Nat × Nat) : Bool := (areaStacks s r.launch x).any r.late.contains

/-- A stack retrains: saves to it that have passed their deadline are late. -/
def retrain (s : State) (st : Nat) : State :=
  let s := putCtl s st { ctlOf s st with retrainDue := false }
  { s with pre := { s.pre with reqs := s.pre.reqs.map fun r =>
      if r.passed && (reqStacks s r).contains st then { r with late := insertKey st r.late } else r } }

/-- A save to the stack that has not passed its deadline keeps a retraining waiting. -/
def retrainWaits (s : State) (st : Nat) : Bool := s.pre.reqs.any fun r => !r.passed && (reqStacks s r).contains st

/-- Retrainings that waited go ahead where nothing holds them any more. -/
def releaseRetrain (s : State) : State :=
  ((List.range Config.numStacks).filter fun st => (ctlOf s st).retrainDue && !retrainWaits s st).foldl retrain s

/-- R267. -/
def execDramRetrain (stack : Nat) (s : State) : Answer1 :=
  if deadStack s stack then .next s
  else if retrainWaits s stack then .next (putCtl s stack { ctlOf s stack with retrainDue := true })
  else .next (retrain s stack)

/-- Entries of a request whose workgroup is still resident. -/
def stillHere (s : State) (r : PreReq) : List (Nat × Nat) :=
  r.left.filter fun x => s.sched.wgs.any fun w => w.launch == r.launch && w.wg == x.1

/-- Copies of a workgroup by span position and channel, and the write pointers of its channels. -/
def copiesOf (s : State) (w : Workgroup) : NMap (List CopyJob) × NMap DWord :=
  let keys := w.cores.zipIdx.flatMap fun (c, j) => (List.range 6).map fun ch => (chanKey c ch, chanKey j ch)
  (keys.map fun (k, x) => (x, ((chanOf s k).jobs ++ (chanOf s k).late).filter fun j => j.launch == w.launch && j.wg == w.wg),
   keys.map fun (k, x) => (x, (chanOf s k).wp))

/-- The engine work of a workgroup that a deadline has aborted, or would abort now (R261). -/
def abortedOf (s : State) (w : Workgroup) : AbortedWork :=
  match s.pre.aborted.find? fun a => a.launch == w.launch && a.wg == w.wg with
  | some a => a
  | none =>
    let c := copiesOf s w
    { launch := w.launch, wg := w.wg, copies := c.1, wps := c.2,
      washes := s.render.washes.filter fun r => r.launch == w.launch && r.wg == w.wg }

/-- The workgroup's copies and lookups leave their engines. -/
def dropEngineWork (s : State) (w : Workgroup) : State :=
  let mine := fun (launch wg : Nat) => launch == w.launch && wg == w.wg
  let s := dropJobs s fun j => mine j.launch j.wg
  { s with render := { s.render with washes := s.render.washes.filter fun r => !mine r.launch r.wg } }

/-- At the deadline a workgroup's outstanding copies and lookups are aborted, to be recorded by the save, and so is each load that still
waits for a folio (R261). -/
def abortWork (s : State) (w : Workgroup) : State :=
  let a := abortedOf s w
  let stuck := fun r : LongResult => match r.kind with
    | .mem fs _ _ => fs.any fun f => !s.tier.palette.contains f
    | _ => false
  let s := dropEngineWork s w
  { s with
    pre := { s.pre with aborted := a :: s.pre.aborted.filter fun x => !(x.launch == w.launch && x.wg == w.wg) },
    sched := { s.sched with groups := s.sched.groups.map fun g =>
      if g.launch == w.launch && g.wg == w.wg then
        { g with pend := g.pend.map fun r => if stuck r then { r with aborted := true } else r }
      else g } }

/-- R261: the k-th request's deadline has passed; the outstanding engine work of its workgroups is aborted. -/
def execPreemptionDeadline (k : Nat) (s : State) : Answer1 :=
  match s.pre.reqs[k]? with
  | none => .next s
  | some r =>
    if s.clock.ps < r.deadline ∨ r.passed then .next s
    else
      let reqs := modifyNth (fun x : PreReq => { x with passed := true }) k s.pre.reqs
      let s := (stillHere s r).foldl (fun s x => abortWork s (wgOf s r.launch x.1)) s
      .next (releaseRetrain { s with pre := { s.pre with reqs := reqs } })

/-! ## The drain (R261) -/

/-- An outstanding long result that the save waits for. -/
def pendHolds (passed : Bool) (r : LongResult) : Bool :=
  match r.kind with
  | .mem _ _ _ => !r.aborted
  | .wash _ => !passed
  | .late _ => false
  | .value | .fence _ => true

/-- The work of a workgroup that keeps it from being saved; its stores to a peer while the link may yet acknowledge them. -/
def saveBlocked (s : State) (passed : Bool) (w : Workgroup) : Bool :=
  let gs := s.sched.groups.filter fun g => g.launch == w.launch && g.wg == w.wg
  let mine := fun (launch wg : Nat) => launch == w.launch && wg == w.wg
  let inside := fun pl : BarPlace => match pl with
    | .astore c off => w.cores.contains c && decide (mget 0 c w.aBase ≤ off) && decide (off < mget 0 c w.aBase + w.aBytes)
    | .dram _ => false
  gs.any (fun g => g.pend.any (pendHolds passed)) ||
    s.cores.yokes.any (fun x => x.2.running.any fun r => mine r.launch r.wg) ||
    s.ms.cache.amsgs.any (fun m => gs.any fun g => g.id == m.group) ||
    s.copies.updates.any (fun u => inside u.place || (u.upd == .arrive && u.core.any fun c => w.cores.contains c)) ||
    (s.plat.linkUp == 0 && s.plat.linkRetraining != 0 && s.ms.cache.peerWrites.any fun p => p.lost.isNone &&
      p.own.any fun o => gs.any fun g => g.id == o.1) ||
    (!passed && (s.copies.chans.any (fun c => (c.2.jobs ++ c.2.late).any fun j => mine j.launch j.wg) ||
      s.render.washes.any fun r => mine r.launch r.wg))

/-! ## Writing a save (R261 to R264) -/

/-- Bytes of a map in a range, moved to start at another number. -/
def cutBytes (m : NMap Byte) (lo len dst : Nat) : NMap Byte :=
  (m.filter fun x => decide (lo ≤ x.1) && decide (x.1 < lo + len)).map fun x => (x.1 - lo + dst, x.2)

/-- A reservation's bytes at every span position. -/
def saveBytes (m : NMap Byte) (base : NMap Nat) (len : Nat) (cores : List Nat) : NMap Byte :=
  cores.zipIdx.flatMap fun (c, j) => cutBytes m (bufKey c (mget 0 c base)) len (bufKey j 0)

/-- The same back at other places. -/
def loadBytes (saved : NMap Byte) (base : NMap Nat) (len : Nat) (cores : List Nat) (m : NMap Byte) : NMap Byte :=
  cores.zipIdx.foldl (fun (m : NMap Byte) (x : Nat × Nat) =>
    let at_ := bufKey x.1 (mget 0 x.1 base)
    let clear := m.filter fun e => !(decide (at_ ≤ e.1) && decide (e.1 < at_ + len))
    (cutBytes saved (bufKey x.2 0) len at_).foldl (fun m e => mset unlistedByte e.1 e.2 m) clear) m

/-- TEAMS of R264: bit j when span positions 4j to 4j + 3 lie in one team. -/
def teamsBits (cores : List Nat) : Nat :=
  (List.range (ceilDiv cores.length 4)).foldl (fun b j =>
    if (((cores.drop (4 * j)).take 4).map teamOf).dedup.length = 1 then b + 2 ^ j else b) 0

/-- The descriptor words SHAPE, REGS, ASTORE and RES (R230). -/
def shapeWords (d : LaunchDesc) : List Word :=
  let w := match d.width with | 8 => 0 | 16 => 1 | 32 => 2 | 64 => 3 | _ => 4
  [BitVec.ofNat 32 (w + 16 * (d.groups - 1)), BitVec.ofNat 32 (d.vregs / 8 - 1 + 65536 * (d.sregs / 16 - 1)),
    BitVec.ofNat 32 d.astore, BitVec.ofNat 32 (d.stencils + 256 * d.ctiles)]

/-- The 64 bytes of the header (R264). -/
def saveHeader (s : State) (l : Launch) (w : Workgroup) (size : Nat) (late aborted : Bool) (pins : Nat) : List Byte :=
  leBytes 4 size ++ leBytes 4 (1 + 2 * b2n late + 4 * b2n aborted) ++ leBytes 4 l.id ++ leBytes 4 w.wg ++
    leBytes 8 l.desc.region ++ wordsBytes (shapeWords l.desc) ++ leBytes 1 w.cores.length ++ leBytes 1 (teamsBits w.cores) ++
    [0, 0] ++ leBytes 4 pins ++ leBytes 8 (nowNs s) ++ List.replicate 8 0

/-- TPF bindings to A-store barriers of a workgroup (R262). -/
def bindsOf (s : State) (w : Workgroup) : List TpfBind :=
  s.tier.tpf.filter fun t => t.launch == w.launch && t.wg == w.wg && t.isLocal

/-- The saved PENDING leaves out the folios that are not resident (R262, R263). -/
def unbind (s : State) (t : TpfBind) : State :=
  let b := readBar s t.bar
  writeBar s t.bar { b with pending := b.pending - 65536 * t.folios.length }

/-- A work item belongs to a workgroup of a chained launch (R44). -/
def itemInWg (d : LaunchDesc) (w : Workgroup) (launch item : Nat) : Bool :=
  launch == w.launch && item / (d.groups * d.width) == w.wg

/-- What a save records of a workgroup. -/
def savedOf (s : State) (area size : Nat) (w : Workgroup) : Saved :=
  let d := descOf s w
  let a := abortedOf s w
  { area := area, firmware := s.plat.firmware, region := d.region, launch := w.launch, desc := d, wg := w, size := size,
    groups := s.sched.groups.filter fun g => g.launch == w.launch && g.wg == w.wg,
    astore := saveBytes s.cores.astore w.aBase w.aBytes w.cores,
    wstore := saveBytes s.cores.wstore w.wBase (d.stencils * 8192) w.cores,
    cstore := saveBytes s.cores.cstore w.cBase (d.ctiles * 2048) w.cores,
    planes := w.slots.map fun x : Nat × List Nat => (x.1, x.2.zipIdx.filterMap fun (ph, i) =>
      (mget? ph (yokeOf s x.1).planes).map fun p => (i, p)),
    copies := a.copies, wps := a.wps, washes := a.washes,
    tpf := bindsOf s w,
    deferred := s.sched.deferred.filter fun x => itemInWg d w x.launch x.item,
    relay := s.sched.relay.filter fun e => e.launch == w.launch && e.wg == w.wg }

/-- The workgroup leaves the machine: its groups, reservations, slots and work (R261, step 6). -/
def releaseSaved (s : State) (x : Saved) : State :=
  let w := x.wg
  let mine := fun (launch wg : Nat) => launch == w.launch && wg == w.wg
  let s := dropEngineWork s w
  let s := { s with
    sched := { s.sched with groups := s.sched.groups.filter fun g => !mine g.launch g.wg,
                            deferred := s.sched.deferred.filter fun y => !x.deferred.contains y,
                            relay := s.sched.relay.filter fun y => !x.relay.contains y },
    pre := { s.pre with aborted := s.pre.aborted.filter fun a => !mine a.launch a.wg },
    tier := { s.tier with tpf := s.tier.tpf.filter fun t => !x.tpf.contains t } }
  dropWg s w

/-- The bytes a save writes after its header are the firmware's own, and so is how many there are (R264, log entry 28). -/
def saveSize (s : State) (w : Workgroup) : Nat := 64 + (Config.freeWord s.free).toNat % (areaBytes w - 63)
def saveTail (s : State) (n : Nat) : List Byte := (List.range n).map fun i => (Config.freeWord (s.free + 1 + i)).setWidth 8

/-- Saves a workgroup: dirty lines of its cores go home with the promotion of its pins, then the area is written and everything
released (R123, R261). -/
def saveWg (s : State) (r : PreReq) (w : Workgroup) (area : Nat) : State :=
  let l := launchOf s w.launch
  let now := s.clock.ps
  let pins := (s.ms.cache.homePins ++ s.ms.cache.teamPins).filter fun p => p.launch == w.launch && p.wg == w.wg
  let count := (pins.map fun p => p.atom).dedup.length
  let s := if s.plat.linkUp == 0 then s else { s with ms := performPeers s.ms }
  let s := putMs s (pins.foldl (promote now) s.ms)
  let s := putMs s (w.cores.foldl (fun ms c =>
    wbTeamAll now (teamOf c) allLines (wbL1All now c allLines (drainWc now c ms))) s.ms)
  let s := (bindsOf s w).foldl unbind s
  let size := saveSize s w
  let x := savedOf s area size w
  let aborted := x.copies.any (fun c => !c.2.isEmpty) || !x.washes.isEmpty || !x.tpf.isEmpty ||
    x.groups.any fun g => g.pend.any fun p => match p.kind with | .mem _ _ _ => true | _ => false
  let bs := saveHeader s l w size (lateArea s r (w.wg, area)) aborted count ++ saveTail s (size - 64)
  let s := putMs s (engineWrite now .device area bs s.ms)
  let s := releaseSaved { s with free := s.free + 2 ^ 26 } x
  { s with pre := { s.pre with saved := (s.pre.saved.filter fun y => y.area != area) ++ [x] } }

/-- The request's result, once nothing is left of it. -/
def settleReq (s : State) (k : Nat) (r : PreReq) : State :=
  if r.left.isEmpty then
    pushResult (releaseRetrain { s with pre := { s.pre with reqs := dropNth k s.pre.reqs } }) r.die r.tag
      (if r.lateSaves then 2 else 1) r.done
  else
    let reqs := modifyNth (fun _ => r) k s.pre.reqs
    releaseRetrain { s with pre := { s.pre with reqs := reqs } }

/-- R261 to R264: the first workgroup of the k-th request whose drain has ended is saved. -/
def execPreemptSaveWrite (k : Nat) (s : State) : Answer1 :=
  match s.pre.reqs[k]? with
  | none => .next s
  | some r =>
    let left := stillHere s r
    match left.find? fun x => !saveBlocked s r.passed (wgOf s r.launch x.1) with
    | none => .next (if left = r.left then s else settleReq s k { r with left := left })
    | some x =>
      let isLate := lateArea s r x
      let s := saveWg s r (wgOf s r.launch x.1) x.2
      .next (settleReq s k { r with left := left.erase x, done := r.done + 1, lateSaves := r.lateSaves || isLate })

/-! ## Restore (R265, R266) -/

/-- Groups that a save holds at a span position. -/
def savedAt (x : Saved) (j : Nat) : List Group := x.groups.filter fun g => g.pos == j

/-- The cores taken so far group into teams as TEAMS of a save of n positions has it (R264, R265). -/
def teamsMatch (n bits : Nat) (cs : List Nat) : Bool :=
  (List.range (ceilDiv cs.length 4)).all fun j =>
    let four := (cs.drop (4 * j)).take 4
    let one := (four.map teamOf).dedup.length == 1
    if nbit bits j then one else !one || decide (four.length < min 4 (n - 4 * j))

/-- Takes a core for each span position: one that `ok` allows after those taken so far. -/
def seat (ok : List Nat → Nat → Bool) (cands : List Nat) : Nat → List Nat → Option (List Nat)
  | 0, got => some got
  | k + 1, got => cands.findSome? fun c => if !got.contains c && ok got c then seat ok cands k (got ++ [c]) else none

/-- The span for a saved workgroup, within every budget: CORES counts the cores of positions that hold a group (R226). Positions
whose teams had planes of their own do not come to share a team (log entry 28). -/
def seatSaved (s : State) (x : Saved) : Option (List Nat) :=
  let d := x.desc
  let old := x.wg.cores
  let n := old.length
  let chain := chainRegions s d.region
  match chain with
  | [] => none
  | own :: _ =>
    if chain.all (flatBudget s d n x.groups.length) then
      let teams := teamLimit s d n chain
      (dies s).findSome? fun die =>
        match partLimit s die (some d.pclass) with
        | none => none
        | some part =>
          let ok := fun (got : List Nat) (c : Nat) =>
            let j := got.length
            let cs := got ++ [c]
            let held := (cs.zipIdx.filter fun y => !(savedAt x y.2).isEmpty).map fun y => y.1
            let apart := (got.zip old).all fun y => teamOf y.1 != teamOf c || teamOf y.2 == teamOf (old.getD j 0)
            !drained s none own.prio c && coreFits s d x.wg.isSealed (savedAt x j).length c && teamsMatch n (teamsBits old) cs &&
              (d.stencils == 0 || (apart && decide ((cs.map teamOf).dedup.length ≤ teams))) && part.allows cs &&
              (chain.map (regionLimit s 0)).all fun l => l.allows held
          seat ok (coresBySlots s die fun _ => true) n []
    else none

/-- The core, and the barrier place, that take the place of old ones. -/
def movedCore (old new : List Nat) (c : Nat) : Nat := new.getD (old.idxOf c) c
def movedPlace (o w : Workgroup) (pl : BarPlace) : BarPlace :=
  match pl with
  | .astore c off =>
    let c' := movedCore o.cores w.cores c
    .astore c' (off - mget 0 c o.aBase + mget 0 c' w.aBase)
  | .dram pa => .dram pa

/-- A split as restored: sleepers wake, replays replay (R265, step 5). -/
def restoreSplit (o w : Workgroup) (p : Split) : Split :=
  match p.wait with
  | .sleep _ _ | .replay _ _ _ _ _ | .held => { p with wait := .ready }
  | .byteBarrier pl a ph => { p with wait := .byteBarrier (movedPlace o w pl) a ph }
  | _ => p

/-- Groups in order of dispatch. -/
def insertGroup (g : Group) : List Group → List Group
  | [] => [g]
  | h :: r => if g.id < h.id then g :: h :: r else h :: insertGroup g r

/-- The saved groups on their new cores. -/
def restoreGroups (s : State) (x : Saved) (w : Workgroup) : List Group :=
  w.cores.zipIdx.flatMap fun (c, j) =>
    let gs := savedAt x j
    let bs := takeBlocks (x.desc.width / 8) x.desc.vregs gs.length (blocksOn s c)
    gs.zipIdx.map fun (g, i) =>
      let b := bs.getD i ⟨0, 0, 0, 0⟩
      { g with core := c, octet := b.octet, regOffset := b.off, splits := g.splits.map (restoreSplit x.wg w),
               pend := g.pend.map fun r => { r with aborted := false } }

/-- A copy issued again: bytes already counted stay counted (R157). -/
def restoreJob (o w : Workgroup) (j : CopyJob) : CopyJob :=
  { j with core := movedCore o.cores w.cores j.core, bar := j.bar.map (movedPlace o w) }

/-- Copies and write pointers of a span position's channels. The pointer of an empty channel shows no copy in progress, also where
its workgroup's head was another's copy at the save (R61). -/
def restoreChans (s : State) (x : Saved) (w : Workgroup) : State :=
  (w.cores.zipIdx.flatMap fun (c, j) => (List.range 6).map fun ch => (chanKey c ch, chanKey j ch)).foldl
    (fun (s : State) (k : Nat × Nat) =>
      let s := if (chanOf s k.1).jobs.isEmpty then putChan s k.1 (idled { chanOf s k.1 with wp := mget 0 k.2 x.wps }) else s
      (mget [] k.2 x.copies).foldl (fun s j => enqueue s k.1 (restoreJob x.wg w j)) s) s

/-- An entry of the reservation tables, posted again ahead of new requests (R177): it waits for room in the table (R13). -/
def repost (x : Saved) (w : Workgroup) (s : State) (r : YokeReq) : State :=
  let c := movedCore x.wg.cores w.cores r.core
  let t := teamOf c
  let y := yokeOf s t
  let logical := (mget [] (teamOf r.core) x.wg.slots).idxOf r.slot
  let r' := { r with core := c, slot := (mget [] t w.slots).getD logical 0 }
  putYoke s t (admitWaiting 1 { y with waiting := y.waiting ++ [r'] })

/-- The planes of the span's teams (R177). -/
def restorePlanes (s : State) (x : Saved) (w : Workgroup) : State :=
  ((x.wg.cores.zip w.cores).map fun (o, c) => (teamOf o, teamOf c)).dedup.foldl (fun (s : State) (t : Nat × Nat) =>
    let y := yokeOf s t.2
    let slots := mget [] t.2 w.slots
    let planes := (mget [] t.1 x.planes).foldl (fun (m : NMap Plane) (p : Nat × Plane) => mput (slots.getD p.1 0) p.2 m) y.planes
    putYoke s t.2 { y with planes := planes }) s

/-- A recorded binding issued again: PENDING first takes back its folios, then those that have become resident count (R262,
R263). -/
def rebindExpect (o w : Workgroup) (s : State) (t : TpfBind) : State :=
  let pl := movedPlace o w t.bar
  let b := readBar s pl
  writeBar s pl { b with pending := (b.pending + 65536 * t.folios.length) % 2 ^ 48 }
def rebind (o w : Workgroup) (s : State) (t : TpfBind) : State :=
  let pl := movedPlace o w t.bar
  let here := t.folios.filter s.tier.palette.contains
  let away := t.folios.filter fun f => !s.tier.palette.contains f
  let s := here.foldl (fun s _ => updateBar (markPhase s pl) pl (.deliver 65536)) s
  let s := if away.isEmpty then s else { s with tier := { s.tier with tpf := s.tier.tpf ++ [{ t with bar := pl, folios := away }] } }
  away.foldl startFill s

/-- Folios that the restored loads still wait for are filled again (R265, step 2). -/
def refillLoads (s : State) (gs : List Group) : State :=
  (gs.flatMap fun g => g.pend.flatMap fun r => match r.kind with | .mem fs _ _ => fs | _ => []).foldl (fun s f =>
    if s.tier.palette.contains f then s else startFill s f) s

/-- Puts a saved workgroup on the cores of a span (R265). -/
def restoreWg (s : State) (x : Saved) (cores : List Nat) : State :=
  let d := x.desc
  let s := enterWorld s x.wg.isSealed (cores.map teamOf).dedup
  let w := { reserve s d cores x.wg with stopping := false, removed := [] }
  let w := { w with dray := w.dray.map fun c => { c with arrivals := c.arrivals.map fun a =>
    { a with core := movedCore x.wg.cores cores a.core } } }
  let gs := restoreGroups s x w
  let s := { s with
    sched := { s.sched with wgs := s.sched.wgs ++ [w], groups := gs.foldl (fun l g => insertGroup g l) s.sched.groups,
                            deferred := s.sched.deferred ++ x.deferred,
                            relay := s.sched.relay ++ x.relay.map fun e => { e with core := movedCore x.wg.cores cores e.core } },
    cores := { s.cores with
      astore := loadBytes x.astore w.aBase w.aBytes cores s.cores.astore,
      wstore := loadBytes x.wstore w.wBase (d.stencils * 8192) cores s.cores.wstore,
      cstore := loadBytes x.cstore w.cBase (d.ctiles * 2048) cores s.cores.cstore },
    render := { s.render with washes := s.render.washes ++ x.washes.map fun r => { r with stopped := false, parked := none } },
    pre := { s.pre with saved := s.pre.saved.filter fun y => y.area != x.area } }
  let s := restorePlanes s x w
  let s := putMs s (cores.foldl (fun ms c => startOn c ms) s.ms)
  let s := x.tpf.foldl (rebindExpect x.wg w) s
  let s := x.tpf.foldl (rebind x.wg w) s
  let s := refillRelay (refillLoads (restoreChans s x w) gs) d x.launch
  -- a waiter that met an error of its barrier while it was saved traps
  gs.foldl (fun s g => drainAll s g.id) (wakeForwarded (x.wg.removed.foldl (repost x w) s) x.launch)

/-- The save in an area. -/
def savedIn (s : State) (area : Nat) : Option Saved := s.pre.saved.find? fun x => x.area == area

/-- Restores a saved workgroup where it fits now. -/
def restoreHere (s : State) (area : Nat) : Option State :=
  (savedIn s area).bind fun x => (seatSaved s x).map fun cs => restoreWg s x cs

/-- Restores every one of some areas at once, or none. -/
def restoreAll : List Nat → State → Option State
  | [], s => some s
  | a :: r, s => (restoreHere s a).bind (restoreAll r)

/-- Why a well-formed restore is refused (R264, R266, R281). -/
def restoreReasons (s : State) (areas : List Nat) : List Nat :=
  let good := fun a : Nat => (savedIn s a).any fun x => leNat (readHome s.ms a 4) == x.size && x.firmware == s.plat.firmware
  let asked := s.pre.restores.any fun r => areas.any fun a => r.2.2.1.contains a
  if !areas.Nodup || asked || areas.any (fun a => !good a) then [8]
  else if areas.any fun a => (savedIn s a).any fun x => (seatSaved (bareDevice s) x).isNone then [7] else []

/-- R264 to R266, R280: a restore request is checked, and waits for its placement. -/
def execRestore (die : Nat) (v : DWord) (s : State) : Answer1 :=
  let a := v.toNat
  if deadDie s die then .next s
  else if !requestHere s a then .next (pushResult { s with free := s.free + freeStep } die (requestTag s a) 4 0)
  else
    let s := deviceRead s a 64
    let r := readRequest s a
    let areas := r.entries.map fun e => e.2
    let need := fun a : Nat => (savedIn s a).elim 0x40_0000 fun x => areaBytes x.wg
    if r.bad || r.count == 0 || areas.any (fun a => !inDram s.plat.walk a (need a)) then .next (pushResult s die r.tag 4 0)
    else match restoreReasons s areas with
      | [] => .next { s with pre := { s.pre with restores := s.pre.restores ++ [(die, r.tag, areas, 0)] } }
      | x :: _ =>
        let s := if x = 7 then colophon s die 9 0 7 0 else s
        .next (pushResult s die r.tag x 0)

/-- Areas of a request that are restored together: those of a COSCHED launch (R238). -/
def restoreSets (s : State) (areas : List Nat) : List (List Nat) :=
  let whole := fun a : Nat => (savedIn s a).bind fun x => if x.desc.cosched then some x.launch else none
  (areas.map fun a => match whole a with
    | some l => areas.filter fun b => whole b == some l
    | none => [a]).dedup

/-- Tries a pending restore; answers what is left of it. -/
def tryRestore (s : State) (r : Nat × Word × List Nat × Nat) : State × List Nat × Nat :=
  (restoreSets s r.2.2.1).foldl (fun (acc : State × List Nat × Nat) (set : List Nat) =>
    match restoreAll set acc.1 with
    | some s => (s, acc.2.1.filter fun a => !set.contains a, acc.2.2 + set.length)
    | none => acc) (s, r.2.2.1, r.2.2.2)

/-- Pending restores are tried at the start of a round, in the order of their requests (R265, R266). -/
def serveRestores (s : State) : State :=
  s.pre.restores.foldl (fun (s : State) (r : Nat × Word × List Nat × Nat) =>
    let r := (r.1, r.2.1, r.2.2.1.filter fun a => (savedIn s a).isSome, r.2.2.2)
    let (s, left, done) := tryRestore s r
    if left.isEmpty then pushResult s r.1 r.2.1 3 done
    else { s with pre := { s.pre with restores := s.pre.restores ++ [(r.1, r.2.1, left, done)] } })
    { s with pre := { s.pre with restores := [] } }

end Sys2Proof.Machine
end

