-- ==== Sys2Proof/Machine/Dispatcher.lean ====
section
/-! DEFINITION. Dispatcher.lean: launch descriptors, wait conditions, refusals, dispatch rounds and fit waits (R228 to R240). -/

namespace Sys2Proof.Machine

/-! ## Launch descriptors (R230) -/

/-- Scope of CHAIN. -/
def chainScopeOf : Nat → Scope
  | 0 => .core | 1 => .team | 2 => .dev | _ => .sys

/-- The fields of a descriptor. -/
def parseDesc (b : List Byte) : LaunchDesc :=
  let shape := fieldAt b 36 4
  let regs := fieldAt b 40 4
  let res := fieldAt b 48 4
  let chain := fieldAt b 52 4
  let flags := fieldAt b 80 4
  { entry := BitVec.ofNat 64 (fieldAt b 0 8), args := BitVec.ofNat 64 (fieldAt b 8 8), spill := BitVec.ofNat 64 (fieldAt b 16 8),
    gridX := fieldAt b 24 4, gridY := fieldAt b 28 4, gridZ := fieldAt b 32 4, width := 8 * 2 ^ nbits shape 0 3,
    groups := nbits shape 4 9 + 1, vregs := 8 * (nbits regs 0 5 + 1), sregs := 16 * (nbits regs 16 5 + 1),
    astore := fieldAt b 44 4, stencils := nbits res 0 6, ctiles := nbits res 8 8, kmax := nbits chain 0 5,
    slots := nbits chain 5 2 + 1, chainScope := chainScopeOf (nbits chain 8 2),
    defaults := (List.range 4).map fun k => BitVec.ofNat 32 (fieldAt b (56 + 4 * k) 4), region := fieldAt b 72 8,
    priv := nbit flags 0, cosched := nbit flags 1, serial := nbit flags 2, pclass := nbits flags 3 2,
    batchBase := fieldAt b 84 2, batchCount := fieldAt b 86 2,
    waits := (List.range 4).map fun k => BitVec.ofNat 64 (fieldAt b (88 + 8 * k) 8) }

/-- A field outside R230, or a reserved bit that is set. -/
def launchBad (b : List Byte) : Bool :=
  let d := parseDesc b
  let shape := fieldAt b 36 4
  let regs := fieldAt b 40 4
  let res := fieldAt b 48 4
  let chain := fieldAt b 52 4
  let n := gridSize d
  decide (fieldAt b 0 8 % 4 ≠ 0) || n == 0 || decide (2 ^ 32 ≤ n) || decide (4 < nbits shape 0 3) || nbit shape 3 ||
    nbits shape 13 19 != 0 || decide (65536 < d.groups * d.width) || nbits regs 5 11 != 0 || nbits regs 21 11 != 0 ||
    decide (Config.astoreBytes < d.astore) || nbits res 6 2 != 0 || nbits res 16 16 != 0 || decide (32 < d.stencils) ||
    decide (128 < d.ctiles) || decide (16 < d.kmax) || nbit chain 7 || nbits chain 10 22 != 0 ||
    nbits (fieldAt b 80 4) 5 27 != 0 || d.pclass == 3 || (d.waits.any fun w => nbits w.toNat 0 2 == 3 || nbit w.toNat 3) ||
    fieldAt b 120 8 != 0

/-! ## Refusal (R232) -/

/-- STATUS of a refusal that the descriptor itself gives, the first in the table's order. -/
def descStatus (s : State) (l : Launch) (bad : Bool) : Option Nat :=
  let d := l.desc
  let inGrant := fun r : Region => decide (d.batchCount = 0) ||
    (decide (r.batchBase ≤ d.batchBase) && decide (d.batchBase + d.batchCount ≤ r.batchBase + r.batchCount))
  if bad then some 9
  else match regionOf s d.region with
    | none => some 6
    | some r =>
      if (d.priv && !r.privOk) || (d.pclass = 2 && !d.priv) then some 6
      else if !inGrant r then some 6
      else if (spanSize d).isNone then some 9
      else if d.cosched && !coschedFits s l then some 9
      else none

/-- Replaces a queue by its number. -/
def putQ (s : State) (q : Queue) : State :=
  { s with sched := { s.sched with queues := s.sched.queues.map fun x => if x.num == q.num then q else x } }

def queueNo (s : State) (num : Nat) : Option Queue := s.sched.queues.find? fun q => q.num == num

/-- The head launch is refused: its record, and the queue moves on (R229, R232). -/
def refuseHead (s : State) (l : Launch) (status code : Nat) : State :=
  let l := { l with completed := true, refused := true }
  advanceQueue (postLaunchRecord (putLaunch s l) l status code 0) l.id

/-! ## Wait conditions (R231) -/

/-- A condition and what its object holds: the barrier's ERR and PHASE, or a word that is not zero (R231). -/
def condSee (q : Queue) (k : Nat) (w : DWord) (bs : List Byte) : Queue :=
  if q.condMet.contains k then q
  else if nbits w.toNat 0 2 = 1 then
    let b := barOf (leNat bs)
    if b.err ≠ 0 then { q with condErr := b.err }
    else if b.phase = nbit w.toNat 2 then { q with condMet := insertKey k q.condMet } else q
  else if leNat (bs.take 8) ≠ 0 then { q with condMet := insertKey k q.condMet } else q

/-- A look at a condition's object in device DRAM. -/
def condLook (s : State) (q : Queue) (k : Nat) (w : DWord) (pa : Nat) : Queue := condSee q k w (readHome s.ms pa 16)

/-- Checks condition k of a queue's head launch, translating its address the first time. -/
def checkCond (s : State) (num asid : Nat) (k : Nat) (w : DWord) : State :=
  match queueNo s num with
  | none => s
  | some q =>
    if nbits w.toNat 0 2 = 0 ∨ q.condMet.contains k ∨ q.condDead.contains k ∨ q.condErr ≠ 0 ∨ q.condWait.any (fun c => c.1 == k) then s
    else match q.condPa.find? fun c => c.1 == k with
      | some c => putQ s (condLook s q k w c.2)
      | none =>
        let va := w.toNat / 16 * 16
        let x := if canonical va then xlate s (whoDie 0 asid (asidSealed s asid)) .read true va 16 else .bad 1
        match x with
        | .ok pa _ =>
          let s := deviceRead s pa 16
          putQ s (condLook s { q with condPa := q.condPa ++ [(k, pa)] } k w pa)
        | .fault lv =>
          let s := faultRecord s 0 10 Acc.read.bits 0xFFFF asid va lv
          putQ s { q with condWait := q.condWait ++ [(k, va % 2 ^ 57 / 65536)] }
        | .bad _ => putQ s { q with condDead := insertKey k q.condDead }

/-- Checks every condition of a queue's head launch. -/
def checkHead (s : State) (num : Nat) : State :=
  match (queueNo s num).bind fun q => q.head with
  | none => s
  | some id =>
    let l := launchOf s id
    (l.desc.waits.zipIdx).foldl (fun s (w, k) => checkCond s num l.asid k w) s

/-- A write that has been noted, shown to the conditions of a queue's head launch (R231). -/
def showCond (s : State) (x : Nat × List Byte) (q : Queue) : Queue :=
  match q.head with
  | none => q
  | some id => ((launchOf s id).desc.waits.zipIdx).foldl (fun q (w, k) =>
      if q.condPa.contains (k, x.1) then condSee q k w x.2 else q) q

/-- Writes that have been noted are shown, one after another, to wait conditions (R231), and wake the splits that sleep on a ring
whose WIDX they wrote (R156). -/
def showWrites (s : State) : State :=
  let seen := s.ms.dram.seen
  let up := fun p : Split => match p.wait with
    | .sleep h _ => if seen.any fun x => x.1 == h + 16 then { p with wait := .ready } else p
    | _ => p
  { s with
    sched := { s.sched with
      queues := s.sched.queues.map fun q => if q.stopped.isEmpty then seen.foldl (fun q x => showCond s x q) q else q,
      groups := s.sched.groups.map fun g => { g with splits := g.splits.map up } },
    ms := { s.ms with dram := { s.ms.dram with seen := [] } } }

/-- The ranges whose writes are to be noted: the objects of the head launches' conditions, and WIDX of rings with sleepers. -/
def watchList (s : State) : List (Nat × Nat) :=
  (s.sched.queues.flatMap fun q => if q.head.isSome then q.condPa.map fun c => (c.2, 16) else []) ++
    s.sched.groups.flatMap fun g => g.splits.filterMap fun p => match p.wait with
      | .sleep h _ => some (h + 16, 8)
      | _ => none

/-- Every step begins with the writes of the step before: conditions and sleepers see each of them. A condition whose address could
not be translated is tried again (R231). -/
def noteWrites (s : State) : State :=
  let s := showWrites s
  let s := ((s.sched.queues.filter fun q => q.head.isSome && q.stopped.isEmpty).map fun q => q.num).foldl checkHead s
  { s with ms := { s.ms with dram := { s.ms.dram with watched := (watchList s).dedup } } }

/-- Every condition of a launch is met. -/
def condsMet (q : Queue) (l : Launch) : Bool :=
  l.desc.waits.zipIdx.all fun (w, k) => nbits w.toNat 0 2 == 0 || q.condMet.contains k

/-- The completion record of a launch is still on its way (R229). -/
def recordOut (s : State) (l : Launch) : Bool :=
  s.copies.rings.any fun r => dw r.words 0 % 256 == 3 && dw64 r.words 4 == l.id

/-- SERIAL: the launch before has completed; a refused one once its record has been written (R229). -/
def serialOk (s : State) (q : Queue) (l : Launch) : Bool :=
  !l.desc.serial || match q.prev with
    | none => true
    | some p => let k := launchOf s p; k.completed && !(k.refused && recordOut s k)

/-! ## The head of a queue -/

/-- The next entry of a queue becomes its head launch, or is refused. -/
def loadHead (s : State) (q : Queue) : State :=
  let head := hdrHead s q.header
  if head = q.tail then s
  else
    let at_ := hdrBase s q.header + head % 2 ^ hdrLog s q.header * 128
    let s := deviceRead s at_ 128
    let b := readHome s.ms at_ 128
    let l : Launch := { id := s.sched.nextLaunch, queue := q.num, asid := q.asid, desc := parseDesc b }
    let s := { s with sched := { s.sched with launches := s.sched.launches ++ [l], nextLaunch := l.id + 1 } }
    let s := putQ s { q with head := some l.id }
    match descStatus s l (launchBad b) with
    | some st => refuseHead s l st 0
    | none => s

/-- Brings a queue's head up to date: its launch loaded, its conditions checked, a refused or aborted launch taken away. -/
def prepareHead (s : State) (num : Nat) : State :=
  match queueNo s num with
  | none => s
  | some q =>
    if !q.stopped.isEmpty then s
    else
      let s := checkHead (if q.head.isNone then loadHead s q else s) num
      match queueNo s num with
      | none => s
      | some q => match q.head with
        | none => s
        | some id =>
          let l := launchOf s id
          if q.condErr ≠ 0 then refuseHead s l 7 (32 * q.condErr)
          else if !q.condDead.isEmpty then refuseHead s l 6 0
          else s

/-- The head launch may be placed as far as its conditions and its predecessor go. -/
def headOpen (s : State) (q : Queue) : Bool :=
  q.stopped.isEmpty && match q.head with
    | none => false
    | some id => condsMet q (launchOf s id) && serialOk s q (launchOf s id)

/-- One placement of a queue: its head's next workgroup, or every workgroup of a COSCHED launch (R235, R238). -/
def placeHead (s : State) (q : Queue) : Option State :=
  if !headOpen s q then none
  else match q.head with
    | none => none
    | some id =>
      let d := (launchOf s id).desc
      if d.cosched then placeMany (some q.num) id (gridSize d) s else placeNext s (some q.num) id

/-- Serves a queue once: the waiter has been placed, and the queue moves on past a launch that is placed whole. -/
def serveQueue (s : State) (num : Nat) : Option State :=
  (queueNo s num).bind fun q => (placeHead s q).map fun s =>
    let s := match queueNo s num with
      | some q => putQ s { q with fitSince := none, drain := [] }
      | none => s
    match q.head with
    | some id => if (launchOf s id).placed = gridSize (launchOf s id).desc then advanceQueue s id else s
    | none => s

/-! ## Fit waits (R237) -/

/-- The head workgroup fits no span now, though all it needs is free in total on some span. -/
def fitsInTotal (s : State) (q : Queue) : Bool :=
  match q.head with
  | none => false
  | some id =>
    let d := (launchOf s id).desc
    let isSealed := (regionOf s d.region).any fun r => r.isSealed
    (placeNext s (some q.num) id).isNone &&
    (spanSize d).any fun n => (findSpan s (some q.num) d n (coreTotal s d isSealed (ceilDiv d.groups n))).isSome

/-- Starts a fit wait. -/
def startFitWait (s : State) (num : Nat) : State :=
  match queueNo s num with
  | none => s
  | some q =>
    if q.fitSince.isNone && headOpen s q && fitsInTotal s q then
      putQ s { q with fitSince := some s.clock.cycle, waitCount := 0 }
    else s

/-- Unmet needs of a workgroup on a core: group slots, groups without a block, pages of A-store, pieces of W-store, tiles and slots that are
missing (log entry 27). -/
def unmetNeed (s : State) (d : LaunchDesc) (per c : Nat) : Nat :=
  let blocks := (takeBlocks (d.width / 8) d.vregs per (blocksOn s c)).length
  let holes := ((List.range 97).filter fun k => (gapAt (aUsed s c) (4096 * k) Config.astoreBytes).isSome).foldl max 0
  let slots := ((List.range 33).filter fun k => (takeSlots (slotsUsed s (teamOf c)) k).isSome).foldl max 0
  (per - (64 - (groupsOn s c).length)) + (per - blocks) + (aSize d / 4096 - holes) + (d.stencils - (32 - sumBytes (wUsed s c) / 8192)) +
    (d.ctiles - (128 - sumBytes (cUsed s c) / 2048)) + (d.stencils - slots)

/-- R237: the wait has lasted 4,096 cycles, and a span is drained for it. -/
def execFitWaitExpiry (num : Nat) (s : State) : Answer1 :=
  match queueNo s num with
  | none => .next s
  | some q =>
    match q.fitSince, q.head with
    | some t, some lid =>
      if s.clock.cycle < t + 4096 ∨ !q.drain.isEmpty then .next s
      else
        let d := (launchOf s lid).desc
        match spanSize d with
        | none => .next s
        | some n =>
          let need := unmetNeed s d (ceilDiv d.groups n)
          let others := s.sched.queues.flatMap fun x => if x.num == num then [] else x.drain
          let spans := (dies s).map fun die =>
            (sortBy need (((List.range 96).map fun i => 96 * die + i).filter fun c => !others.contains c)).take n
          let key := fun cs : List Nat => (cs.map need).sum :: sortBy id cs
          let best := (spans.filter fun cs => cs.length == n).foldl (fun (b : Option (List Nat)) cs => match b with
            | none => some cs
            | some x => if listLe (key x) (key cs) then some x else some cs) none
          .next (putQ s { q with drain := best.getD [] })
    | _, _ => .next s

/-! ## Rounds (R235) -/

/-- PRIORITY and QUANTUM of a queue's region. -/
def queuePrio (s : State) (q : Queue) : Nat := (regionOf s q.region).elim 0 fun r => r.prio
def queueQuantum (s : State) (q : Queue) : Nat := (regionOf s q.region).elim 1 fun r => r.quantum

/-- Queues of a priority in the order of its pointer. -/
def ringOf (s : State) (prio : Nat) : List Nat :=
  let mine := (s.sched.queues.filter fun q => queuePrio s q == prio).map fun q => q.num
  let p := mget 0 prio s.sched.rr
  mine.filter (fun n => decide (p ≤ n)) ++ mine.filter fun n => decide (n < p)

/-- Moves a priority's pointer. -/
def setPtr (s : State) (prio num : Nat) : State :=
  { s with sched := { s.sched with rr := mset 0 prio num s.sched.rr } }

/-- Queues that are ready now. -/
def readyNow (s : State) : List Nat :=
  (s.sched.queues.filter fun q => (placeHead s q).isSome).map fun q => q.num

/-- Deficits of queues that are not ready go to 0, and a pointer that stands on one advances: to the next ready queue of its
priority, or by one where none is ready (log entry 27). -/
def settleRound (s : State) (ready : List Nat) : State :=
  let queues := s.sched.queues.map fun q => if ready.contains q.num then q else { q with deficit := 0 }
  let s := { s with sched := { s.sched with queues := queues } }
  (List.range 16).foldl (fun s prio => match (ringOf s prio).find? ready.contains with
    | some n => setPtr s prio n
    | none => match ringOf s prio with
      | _ :: n :: _ => setPtr s prio n
      | _ => s) s

/-- The aged queues, lowest number first. -/
def serveAged (s : State) (ready : List Nat) : State × List Nat :=
  let aged := (s.sched.queues.filter fun q => ready.contains q.num && q.waitCount == 16).map fun q => q.num
  aged.foldl (fun (acc : State × List Nat) (n : Nat) => match serveQueue acc.1 n with
    | some s => ((match queueNo s n with | some q => putQ s { q with waitCount := 0 } | none => s), acc.2 ++ [n])
    | none => acc) (s, [])

/-- The service by priority, pointer and deficit. -/
def serveOne (s : State) (rest : List Nat) : State × List Nat :=
  let still := rest.filter fun n => (serveQueue s n).isSome
  match (List.range 16).reverse.find? fun prio => (ringOf s prio).any still.contains with
  | none => (s, [])
  | some prio =>
    match (ringOf s prio).find? still.contains with
    | none => (s, [])
    | some n =>
      match queueNo s n with
      | none => (s, [])
      | some q =>
        let left := (if q.deficit = 0 then queueQuantum s q else q.deficit) - 1
        let s := putQ (setPtr s prio n) { q with deficit := left }
        let s := (serveQueue s n).getD s
        (if left = 0 then setPtr s prio ((ringOf s prio).getD 1 n) else s, [n])

/-- R228 to R238, R265, R266: one dispatch round. -/
def execDispatchRound (s : State) : Answer1 :=
  let s := serveRestores s
  let s := (s.sched.queues.map fun q => q.num).foldl prepareHead s
  let ready := readyNow s
  let s := ((s.sched.queues.map fun q => q.num).filter fun n => !ready.contains n).foldl startFitWait s
  let s := settleRound s ready
  let (s, aged) := serveAged s ready
  let (s, one) := serveOne s (ready.filter fun n => !aged.contains n)
  let served := aged ++ one
  let queues := s.sched.queues.map fun q =>
    if ready.contains q.num && !served.contains q.num then { q with waitCount := min 16 (q.waitCount + 1) } else q
  .next { s with sched := { s.sched with queues := queues } }

end Sys2Proof.Machine
end

