-- ==== Sys2Proof/Machine/DramUnit.lean ====
section
/-! DEFINITION. DramUnit.lean: the DRAM controllers: activation counts and back-off, refresh, scrubbing, ECC counters, page
migration (R268 to R278). -/

namespace Sys2Proof.Machine

/-! ## Activation counts and back-off (R271, R272) -/

/-- Number of the current 32 ms refresh window, modulo 4 (R271). -/
def refreshWindow (s : State) : Nat := s.clock.ps / 32_000_000_000 % 4

/-- Key of a row's ACT field. -/
def actKey (bank row : Nat) : Nat := bank * 2 ^ 32 + row

/-- The count after one more activation. -/
def bumpAct (window : Nat) (old : Nat × Nat) : Nat := min ((if old.1 = window then old.2 else 0) + 1) 65535

/-- R271, R272: a precharge counts the row's activation, and starts back-off on its bank at the threshold. -/
def execRowPrecharge (stack bank row : Nat) (s : State) : Answer1 :=
  if deadStack s stack ∨ 64 ≤ bank then .next s
  else
    let c := ctlOf s stack
    let n := bumpAct (refreshWindow s) (mget (0, 0) (actKey bank row) c.act)
    let act := mset (0, 0) (actKey bank row) (refreshWindow s, n) c.act
    let start := decide (c.thresh ≤ n) && !(c.inBackoff.any fun b => b.1 == bank)
    .next (putCtl s stack { c with act := act, inBackoff := if start then c.inBackoff ++ [(bank, row)] else c.inBackoff })

/-- R272, R273: refresh management has ended on a bank: the aggressor's count is 0, and postponed refreshes are issued. -/
def execBackoffComplete (stack bank : Nat) (s : State) : Answer1 :=
  let c := ctlOf s stack
  match c.inBackoff.find? fun b => b.1 == bank with
  | none => .next s
  | some (_, row) =>
    let act := mset (0, 0) (actKey bank row) (refreshWindow s, 0) c.act
    let left := mset 0 bank 0 c.postponed
    .next (putCtl s stack { c with
      act := act, postponed := left, backoffs := min (c.backoffs + 1) 4294967295,
      inBackoff := c.inBackoff.filter fun b => b.1 != bank })

/-! ## Refresh (R273) -/

/-- R272, R273: a refresh falls due on a bank. Whether a lock-step read under way holds the bank is open (log entry 29). -/
def execRefreshDue (stack bank : Nat) (s : State) : Answer1 :=
  if deadStack s stack ∨ 64 ≤ bank then .next s
  else
    let c := ctlOf s stack
    let n := mget 0 bank c.postponed
    let later := mset 0 bank (n + 1) c.postponed
    let now := mset 0 bank 0 c.postponed
    if c.inBackoff.any fun b => b.1 == bank then
      -- it is issued when the back-off ends; past the allowance the bank leaves the lock-step read that holds it
      if n < 4 then .next (putCtl s stack { c with postponed := later })
      else .next (if lockStepRead s stack then putCtl s stack { c with drops := min (c.drops + 1) 4294967295 } else s)
    else if lockStepRead s stack then
      let s' := { s with free := s.free + freeStep }
      if (Config.freeWord s.free).getLsbD 0 then
        if n < 4 then .next (putCtl s' stack { c with postponed := later })
        else .next (putCtl s' stack { c with postponed := now, drops := min (c.drops + 1) 4294967295 })
      else .next (putCtl s' stack { c with postponed := now })
    else .next (putCtl s stack { c with postponed := now })

/-! ## Patrol scrubbing (R274, R275) -/

/-- One hour in ps. -/
def hourPs : Nat := 3_600_000_000_000_000

/-- A pass begins: every scrubbed bit is cleared. -/
def beginPass (c : Stack) : Stack := { c with scrubbed := [], patrol := 0, passOn := true, passDue := false }

/-- R274: a pass falls due; one that has not ended is completed first. -/
def execScrubPassStart (stack : Nat) (s : State) : Answer1 :=
  let c := ctlOf s stack
  if deadStack s stack ∨ !c.scrubEn ∨ s.clock.ps < c.passAt + c.period * hourPs then .next s
  else
    let c := { c with passAt := c.passAt + c.period * hourPs }
    .next (putCtl s stack (if c.passOn then { c with passDue := true } else beginPass c))

/-- Number of the row that holds a stack byte offset. -/
def rowNumber (off : Nat) : Nat := Config.rowOf off % (Config.lastRow + 1) * 64 + Config.bankOf off % 64

/-- Atoms of a row with an error in their stored symbols, in the blocks that the patrol does not skip. -/
def patrolErrs (s : State) (st : Nat) : List Nat :=
  let c := ctlOf s st
  (s.ms.dram.errs.map (·.1)).filter fun a =>
    let off := a * 32 % Config.stackBytes
    stackOf (a * 32) == st && rowNumber off == c.patrol && !c.scrubbed.contains (off / 65536)

/-- R269, R274: the patrol reads and corrects its next row. -/
def execScrubRowRead (stack : Nat) (s : State) : Answer1 :=
  let c := ctlOf s stack
  if deadStack s stack ∨ !c.scrubEn ∨ !c.passOn then .next s
  else
    let dram := (patrolErrs s stack).foldl (fun d a => decodeAtom (recallX d a) a) s.ms.dram
    let next := { c with patrol := c.patrol + 1 }
    let next := if c.patrol + 1 < Config.rowsPerStack then next
                else if c.passDue then beginPass next else { next with passOn := false, patrol := 0 }
    .next (putCtl (putMs s { s.ms with dram := dram }) stack next)

/-! ## Counters that a read clears (R270, R272) -/

/-- R270: reading ECC_STATUS returns and clears CE and UE; LAST stays. -/
def readEccStatus (s : State) (stack : Nat) : State :=
  if deadStack s stack then deliver s [0]
  else
    let e := mget {} stack s.ms.dram.ecc
    let ecc := mset {} stack { e with ce := 0, ue := 0 } s.ms.dram.ecc
    let s := deliver s [BitVec.ofNat 64 (e.ce * 2 ^ 48 + e.ue * 2 ^ 40 + e.last)]
    { s with ms := { s.ms with dram := { s.ms.dram with ecc := ecc } } }

/-- R270. -/
def execEccStatusRead (stack : Nat) (s : State) : Answer1 := .next (readEccStatus s stack)

/-- R272: reading DRAM_EVENTS returns and clears its counters. -/
def readDramEvents (s : State) (stack : Nat) : State :=
  if deadStack s stack then deliver s [0]
  else
    let c := ctlOf s stack
    putCtl (deliver s [BitVec.ofNat 64 (c.backoffs * 2 ^ 32 + c.drops)]) stack { c with backoffs := 0, drops := 0 }

/-- R272. -/
def execDramEventsRead (stack : Nat) (s : State) : Answer1 := .next (readDramEvents s stack)

/-! ## Page migration (R276 to R278) -/

/-- A stack's migration. -/
def migOf (s : State) (st : Nat) : Mig := mget {} st s.ms.dram.migs
def putMig (s : State) (st : Nat) (m : Mig) : State :=
  let migs := mset {} st m s.ms.dram.migs
  { s with ms := { s.ms with dram := { s.ms.dram with migs := migs } } }

/-- STATUS of MIG_CTL (R276). -/
def migStatus (m : Mig) : Nat := if m.refused then 6 else m.status

/-- Bytes of a page by SIZE (R276). -/
def migBytes (size : Nat) : Nat := if size = 0 then 65536 else if size = 1 then 2097152 else 67108864

/-- Bytes of a range copied to another. -/
def copyRange (m : NMap Byte) (src dst len : Nat) : NMap Byte :=
  let moved := (m.filter fun x => inRange x.1 (src, len)).map fun x => (x.1 - src + dst, x.2)
  (m.filter fun x => decide (x.1 < dst)) ++ moved ++ m.filter fun x => decide (dst + len ≤ x.1)

/-- Every atom of a range that the host holds is recalled, those under host bias among them (R108, R284). -/
def recallRange (d : Meta) (lo len : Nat) : Meta :=
  let held := d.hostBias.filter fun p => decide (p * 65536 < lo + len) && decide (lo < (p + 1) * 65536)
  let atoms := held.flatMap fun p => ((List.range 2048).map (p * 2048 + ·)).filter fun a => inRange (a * 32) (lo, len)
  atoms.foldl recallX { d with flags := d.flags.map fun x =>
    (x.1, if inRange (x.1 * 32) (lo, len) then { x.2 with x := false } else x.2) }

/-- Poison of a range's atoms copied to another, the atoms read being decoded first (R269, R277); what stood at the destination is
written over whole. -/
def copyPoison (d : Meta) (src dst len : Nat) : Meta :=
  let d := (d.errs.map (·.1)).foldl (fun d a => if inRange (a * 32) (src, len) then decodeAtom d a else d) d
  let bad := ((d.flags.filter fun x => inRange (x.1 * 32) (src, len) && x.2.p).map fun x => x.1 - src / 32 + dst / 32)
  let d := recallRange d dst len
  let kept := d.flags.map fun x => (x.1, if inRange (x.1 * 32) (dst, len) then { x.2 with p := false } else x.2)
  { d with
    errs := d.errs.filter fun x => !inRange (x.1 * 32) (dst, len),
    flags := bad.foldl (fun (m : NMap AtomFlags) a =>
      let f := mget {} a m
      mset {} a { f with p := true } m) kept }

/-- The atoms of a range are read and written to the destination, poison with them. -/
def copyAtoms (ms : MemSys) (src dst len : Nat) : MemSys :=
  { ms with mem := copyRange ms.mem src dst len, dram := copyPoison ms.dram src dst len,
            cache := { ms.cache with home := ms.cache.home.filter fun h => !inRange (h.line * 128) (dst, len) } }

/-- The part of a range that lies in a page, at the page's new place. -/
def movedPart (src dst len : Nat) (r : Nat × Nat) : Option (Nat × Nat) :=
  let lo := max r.1 src
  let hi := min (r.1 + r.2) (src + len)
  if lo < hi then some (lo - src + dst, hi - lo) else none

/-- The page moves to the other place for good: pins promoted, H and X lines recalled, flags copied, DIRTY and VERSION moved
(R277). -/
def finalPass (now : Nat) (ms : MemSys) (src dst len : Nat) : MemSys :=
  let page := fun atom : Nat => inRange (atom * 32) (src, len)
  let ms := ((ms.cache.homePins ++ ms.cache.teamPins).filter fun p => page p.atom).foldl (promote now) ms
  let lines := (ms.cache.home.map (·.line)).filter fun l => inRange (l * 128) (src, len)
  let ms := lines.foldl (fun ms l => recallHome l ms) ms
  let ms := copyAtoms ms src dst len
  let d := recallRange ms.dram src len
  let mine := fun x : Nat × MasterBlock => inRange (x.1 * 4096) (src, len)
  let blocks := (d.blocks.filter mine).foldl (fun (m : NMap MasterBlock) x => mput (x.1 - src / 4096 + dst / 4096) x.2 m)
    (d.blocks.filter fun x => !mine x)
  let masters := d.mRanges.filterMap fun r => (movedPart src dst len (r.1, r.2.1)).map fun q => (q.1, q.2, r.2.2)
  { ms with dram := { d with blocks := blocks, mRanges := d.mRanges ++ masters,
                             nRanges := d.nRanges ++ d.nRanges.filterMap (movedPart src dst len) } }

/-- A master block of a page that has moved. -/
def movedBlock (src dst len b : Nat) : Nat := if inRange (b * 4096) (src, len) then b - src / 4096 + dst / 4096 else b

/-- Recomputations under way and VFENCEs go on with the blocks at their new place. -/
def followBlocks (s : State) (src dst len : Nat) : State :=
  let jobs := s.tier.jobs.map fun j => { j with block := movedBlock src dst len j.block }
  let fences := s.ms.cache.fences.map fun f => { f with blocks := f.blocks.map fun b => (movedBlock src dst len b.1, b.2) }
  { s with tier := { s.tier with jobs := jobs }, ms := { s.ms with cache := { s.ms.cache with fences := fences } } }

/-- A place at which a page may lie (R276): device DRAM or host memory. -/
def migPlace (s : State) (a : Nat) : Bool :=
  match physOf s.plat.walk a with
  | .dram _ => true
  | .host => s.plat.started
  | _ => false

/-- A start is refused (R276). -/
def migRefused (s : State) (st size : Nat) : Bool :=
  let c := ctlOf s st
  let n := migBytes size
  size == 3 || c.migSrc % n != 0 || c.migDst % n != 0 || !migPlace s c.migSrc || !migPlace s c.migDst ||
    (!(physOf s.plat.walk c.migSrc).isDram && !(physOf s.plat.walk c.migDst).isDram) ||
    [1, 2, 3].contains (migOf s st).status

/-- R276, R277: a start. The first pass copies every atom; the atoms written meanwhile are marked again. -/
def execMigrationStart (stack : Nat) (v : DWord) (s : State) : Answer1 :=
  if deadStack s stack ∨ nbits v.toNat 2 2 ≠ 1 then .next s
  else
    let c := ctlOf s stack
    let size := nbits v.toNat 0 2
    let s := putCtl s stack { c with migSize := size }
    if migRefused s stack size then .next (putMig s stack { migOf s stack with refused := true })
    else
      let n := migBytes size
      let s := putMs s (copyAtoms s.ms c.migSrc c.migDst n)
      .next (putMig s stack { status := 1, src := c.migSrc, dst := c.migDst, len := n })

/-- R277: a copy pass ends. -/
def execMigrationPass (stack : Nat) (s : State) : Answer1 :=
  let m := migOf s stack
  if m.status ≠ 1 then .next s
  else if m.marks.length ≤ 1024 then
    let s := followBlocks (putMs s (finalPass s.clock.ps s.ms m.src m.dst m.len)) m.src m.dst m.len
    .next (putMig s stack { m with status := 3, refused := false, pass := m.pass + 1, marks := [] })
  else if 9 ≤ m.pass + 1 then
    let s := putMig s stack { m with status := 5, refused := false, pass := m.pass + 1, marks := [] }
    .next (colophon s (stack / 4) 8 stack 5 (BitVec.ofNat 64 m.src))
  else
    let ms := m.marks.foldl (fun ms a => copyAtoms ms (a * 32) (a * 32 - m.src + m.dst) 32) s.ms
    .next (putMig (putMs s ms) stack { m with pass := m.pass + 1, marks := [] })

/-- Every core writes back the dirty bytes that a page's lines hold in it (R278). -/
def writeBackPage (now src len : Nat) (ms : MemSys) : MemSys :=
  let mine := fun line : Nat => inRange (line * 128) (src, len)
  let ms := ((ms.cache.wc.filter fun w => mine w.2.line).map (·.1)).foldl (fun ms c => drainWc now c ms) ms
  let ms := ((ms.cache.l1.map fun c => c.owner).dedup).foldl (fun ms c => wbL1All now c mine ms) ms
  ((ms.cache.team.map fun c => c.owner).dedup).foldl (fun ms t => wbTeamAll now t mine ms) ms

/-- A write of OP 2 ends forwarding, once every core's dirty bytes of the page have been forwarded, and stores SIZE (R276, R278). -/
def endForwarding (stack size : Nat) (s : State) : State :=
  let m := migOf s stack
  let s := putCtl s stack { ctlOf s stack with migSize := size }
  if m.status ≠ 3 then s
  else
    let s := putMs s (writeBackPage s.clock.ps m.src m.len s.ms)
    putMig s stack { migOf s stack with status := 4, refused := false }

/-- R278: the write of OP 2 whose SIZE is the one MIG_CTL holds; one of another SIZE is a management write of MIG_CTL. -/
def execMigrationEndForwarding (stack : Nat) (s : State) : Answer1 :=
  .next (if deadStack s stack then s else endForwarding stack (ctlOf s stack).migSize s)

end Sys2Proof.Machine
end

