-- ==== Sys2Proof/Machine/PlatformUnit.lean ====
section
/-! DEFINITION. PlatformUnit.lean: host, peers, links, security, start-up, power, and the management registers that have no row
of their own (R20, R279, R282, R284 to R296). -/

namespace Sys2Proof.Machine

/-- A value brought to the nearer bound of its range. -/
def clamp (lo hi x : Nat) : Nat := max lo (min hi x)

def putPlat (s : State) (p : Platform) : State := { s with plat := p }

/-! ## PARTITION and the other registers (R279, R282, R287, R295) -/

/-- R282: the cores kept free for each class; a sum above 96 is discarded. -/
def execPartition (die : Nat) (v : DWord) (s : State) : Answer1 :=
  let c0 := nbits v.toNat 0 16
  let c1 := nbits v.toNat 16 16
  if deadDie s die ∨ 96 < c0 + c1 then .next s
  else .next (putDie s die { dieRegs s die with part0 := c0, part1 := c1 })

/-- A watchpoint's base, and its length and mode (R279). -/
def watchBase (d : Die) (n x : Nat) : Die :=
  { d with watch := modifyNth (fun w : Nat × Nat × Nat => (x, w.2.1, w.2.2)) n d.watch }
def watchMode (d : Die) (n x : Nat) : Die :=
  { d with watch := modifyNth (fun w : Nat × Nat × Nat => (w.1, nbits x 0 32, nbits x 32 2)) n d.watch }

/-- A value that PALETTE_CTL takes (R279). -/
def paletteOk (x : Nat) : Bool := decide (16 ≤ x) && decide (x ≤ 128) && x % 8 == 0

/-- A write to a register of a die's page that has no row of its own. `sealedOk`: the write may reach sealed registers. R5 says nothing
of a write to an RC register (PREEMPT_STATUS, 0x158): the model ignores it (log entry 30). -/
def writeDieReg (s : State) (die off : Nat) (sealedOk : Bool) (v : DWord) : State :=
  let d := dieRegs s die
  let x := v.toNat
  match off with
  | 0x008 => if die = 0 ∧ sealedOk ∧ paletteOk (x % 256) then putPlat s { s.plat with paletteCtl := x % 256 } else s
  | 0x110 => putDie s die { d with queueAsid := x }
  | 0x120 => putDie s die { d with viewTable := x }
  | 0x128 => putDie s die { d with faultAsid := x }
  | 0x138 => putDie s die { d with invalAsid := x }
  | 0x170 => putDie s die { d with faultqOpen := x }
  | 0x178 => if sealedOk then putDie s die { d with faultqSealed := x } else s
  | 0x180 => putDie s die { d with watchCtx := x }
  | 0x188 => putDie s die (watchBase d 0 x)
  | 0x190 => putDie s die (watchMode d 0 x)
  | 0x198 => putDie s die (watchBase d 1 x)
  | 0x1A0 => putDie s die (watchMode d 1 x)
  | 0x1A8 => putDie s die (watchBase d 2 x)
  | 0x1B0 => putDie s die (watchMode d 2 x)
  | 0x1B8 => putDie s die (watchBase d 3 x)
  -- WATCH3's second word and LINK_CTL lie at one offset: the write acts on both (log entry 30)
  | 0x1C0 =>
    let s := putDie s die (watchMode d 3 x)
    putPlat s { s.plat with retrainLimit := clamp 10 10000 (nbits x 0 14) }
  | 0x1C8 => if die = 0 ∧ sealedOk then putPlat s { s.plat with powerLimit := clamp 1600 3200 (nbits x 0 16) } else s
  | 0x1D0 => putDie s die { d with asidSel := v }
  | 0x1E0 => if sealedOk then putDie s die { d with asidSelS := v } else s
  | _ => s

/-- A write to a register of a stack's page that has no row of its own (R272, R274, R276, R279, R284). A write to DRAM_EVENTS (0x208)
or ECC_STATUS (0x210), which are RC, is ignored (log entry 30). MIG_CTL with OP 2 ends forwarding, whatever its SIZE (R278). -/
def writeStackReg (s : State) (st off : Nat) (v : DWord) : State :=
  let c := ctlOf s st
  let x := v.toNat
  match off with
  | 0x200 => putCtl s st { c with test := nbit x 31,
                                  thresh := clamp (if nbit x 31 then 32 else 256) 16384 (nbits x 0 16) }
  | 0x220 => putCtl s st { c with scrubEn := nbit x 31, period := clamp 1 168 (nbits x 0 8) }
  | 0x228 => putCtl s st { c with settle := clamp 5 10000 x }
  | 0x238 => putCtl s st { c with engRing := x }
  | 0x240 => putCtl s st { c with migSrc := x }
  | 0x248 => putCtl s st { c with migDst := x }
  | 0x250 => if nbits x 2 2 = 1 then s
             else if nbits x 2 2 = 2 then endForwarding st (nbits x 0 2) s
             else putCtl s st { c with migSize := nbits x 0 2 }
  | 0x260 => putCtl s st { c with biasBase := x }
  | 0x268 => if nbits x 0 2 = 0 ∨ nbits x 0 2 = 3 then
      putCtl s st { c with biasOp := nbits x 0 2, biasPages := nbits x 2 16 } else s
  | _ => s

/-- R5, R6, R279: a management write to a register without a row of its own, by its offset in BAR0. -/
def execRegisterWrite (offset : Nat) (viaSession : Bool) (v : DWord) (s : State) : Answer1 :=
  let sealedOk := viaSession && s.plat.session
  if offset % 8 ≠ 0 then .next s
  else if offset < 0x20_0000 then
    let die := offset / 0x10_0000
    .next (if deadDie s die then s else writeDieReg s die (offset % 0x10_0000) sealedOk v)
  else if 0x40_0000 ≤ offset ∧ offset < 0x48_0000 then
    let st := (offset - 0x40_0000) / 0x1_0000
    .next (if deadStack s st then s else writeStackReg s st (offset % 0x1_0000) v)
  else .next s

/-! ## Register reads (R5, R6, R279, R290) -/

/-- BOOT_STATUS (R293). -/
def bootStatus (p : Platform) : DWord :=
  BitVec.ofNat 64 (b2n p.walk * 2 ^ 31 + p.attempts % 8 * 2 ^ 28 + p.stage % 16 * 2 ^ 24 + p.reason % 256 * 2 ^ 16 +
    p.unit % 256 * 2 ^ 8)

/-- What a register of a die's page reads as, but for PREEMPT_STATUS: reserved bits, WO registers and offsets without a register read 0.
At 0x1C0 LINK_CTL answers, not WATCH3's second word (log entry 30). -/
def dieReg (s : State) (die off : Nat) (sealedOk : Bool) : Nat :=
  let d := dieRegs s die
  let watch := fun n : Nat => d.watch.getD n (0, 0, 0)
  let range := fun n : Nat => (watch n).2.1 + (watch n).2.2 * 2 ^ 32
  match off with
  | 0x000 => if die = 0 then (bootStatus s.plat).toNat else 0
  | 0x008 => if die = 0 ∧ sealedOk then s.plat.paletteCtl else 0
  | 0x108 => d.regResult
  | 0x120 => d.viewTable
  | 0x140 => b2n (s.xlat.invals.any fun i => i.1 == die)
  | 0x160 => d.part0 + d.part1 * 2 ^ 16
  | 0x170 => d.faultqOpen
  | 0x178 => if sealedOk then d.faultqSealed else 0
  | 0x180 => d.watchCtx
  | 0x188 => (watch 0).1
  | 0x190 => range 0
  | 0x198 => (watch 1).1
  | 0x1A0 => range 1
  | 0x1A8 => (watch 2).1
  | 0x1B0 => range 2
  | 0x1B8 => (watch 3).1
  | 0x1C0 => s.plat.retrainLimit + s.plat.linkUp.toNat * 2 ^ 28
  | 0x1C8 => if die = 0 ∧ sealedOk then s.plat.powerLimit else 0
  | _ => 0

/-- What a register of a stack's page reads as, but for DRAM_EVENTS and ECC_STATUS. -/
def stackReg (s : State) (st off : Nat) : Nat :=
  let c := ctlOf s st
  match off with
  | 0x200 => c.thresh + b2n c.test * 2 ^ 31
  | 0x220 => c.period + b2n c.scrubEn * 2 ^ 31
  | 0x228 => c.settle
  | 0x238 => c.engRing
  | 0x240 => c.migSrc
  | 0x248 => c.migDst
  | 0x250 => c.migSize + migStatus (migOf s st) * 2 ^ 28
  | 0x268 => c.biasOp + c.biasPages * 4 + c.biasStatus * 2 ^ 30
  | _ => 0

/-- R5, R6, R279: the host reads a register of BAR0, and gets its value; an RC register is cleared. -/
def readRegister (offset : Nat) (viaSession : Bool) (s : State) : State :=
  let answer := fun x : Nat => deliver s [BitVec.ofNat 64 x]
  if offset % 8 ≠ 0 then answer 0
  else if offset < 0x20_0000 then
    let die := offset / 0x10_0000
    if deadDie s die then answer 0
    else if offset % 0x10_0000 = 0x158 then readPreemptStatus s die
    else answer (dieReg s die (offset % 0x10_0000) (viaSession && s.plat.session))
  else if 0x40_0000 ≤ offset ∧ offset < 0x48_0000 then
    let st := (offset - 0x40_0000) / 0x1_0000
    let off := offset % 0x1_0000
    if deadStack s st then answer 0
    else if off = 0x208 then readDramEvents s st
    else if off = 0x210 then readEccStatus s st
    else answer (stackReg s st off)
  else answer 0

/-! ## Bias (R284) -/

/-- First page of 64 KiB and number of pages that a write of BIAS_CTL names. -/
def biasRange (c : Stack) (v : DWord) : Nat × Nat := (c.biasBase / 65536, nbits v.toNat 2 16 + 1)

/-- A flip is refused: another is busy, or a page lies outside device DRAM (log entry 29). -/
def biasRefused (s : State) (c : Stack) (v : DWord) : Bool :=
  let r := biasRange c v
  c.biasStatus == 1 || !inDram s.plat.walk (r.1 * 65536) (r.2 * 65536)

/-- The controller after a write of BIAS_CTL that asks for a flip: its fields are stored, and an accepted flip keeps its own pages. A
flip under way stays busy. -/
def biasAsked (c : Stack) (v : DWord) (status : Nat) : Stack :=
  { c with biasOp := nbits v.toNat 0 2, biasPages := nbits v.toNat 2 16, biasStatus := if c.biasStatus = 1 then 1 else status,
           flip := if c.biasStatus = 1 then c.flip else biasRange c v }

/-- Flags of atoms of some pages changed. -/
def onPages (d : Meta) (mine : Nat → Bool) (f : AtomFlags → AtomFlags) : Meta :=
  { d with flags := d.flags.map fun x => (x.1, if mine (x.1 / 2048) then f x.2 else x.2) }

/-- R284: pages flip to host bias: X is set on every atom of them. -/
def execBiasToHost (stack : Nat) (v : DWord) (s : State) : Answer1 :=
  let c := ctlOf s stack
  if deadStack s stack ∨ nbits v.toNat 0 2 ≠ 1 then .next s
  else if biasRefused s c v then .next (putCtl s stack (biasAsked c v 3))
  else
    let r := biasRange c v
    let d := onPages s.ms.dram (inRange · r) fun f => { f with back := false }
    let pages := (List.range r.2).foldl (fun ps i => insertKey (r.1 + i) ps) d.hostBias
    .next (putCtl { s with ms := { s.ms with dram := { d with hostBias := pages } } } stack (biasAsked c v 2))

/-- R284: pages begin to flip to device bias; the flip completes once the host has given back every line. -/
def execBiasToDevice (stack : Nat) (v : DWord) (s : State) : Answer1 :=
  let c := ctlOf s stack
  if deadStack s stack ∨ nbits v.toNat 0 2 ≠ 2 then .next s
  else if biasRefused s c v then .next (putCtl s stack (biasAsked c v 3))
  else .next (putCtl s stack (biasAsked c v 1))

/-- R284: the host has given back every line of the pages under way. -/
def execBiasFlipComplete (stack : Nat) (s : State) : Answer1 :=
  let c := ctlOf s stack
  if c.biasStatus ≠ 1 then .next s
  else
    let d := onPages s.ms.dram (inRange · c.flip) fun f => { f with x := false, back := false }
    let d := { d with hostBias := d.hostBias.filter fun p => !inRange p c.flip }
    .next (putCtl { s with ms := { s.ms with dram := d } } stack { c with biasStatus := 2 })

/-! ## The host (R284, R285, R288) -/

/-- The host takes the atoms of a range: X is set (R108). -/
def takeAtoms (d : Meta) (pa n : Nat) : Meta :=
  { d with flags := (atomsOf (forwarded d pa) n).foldl (fun (m : NMap AtomFlags) a =>
      let f := mget {} a m
      mset {} a { f with x := true, back := false } m) d.flags }

/-- The page of an address is under host bias. -/
def underHostBias (d : Meta) (pa : Nat) : Bool := d.hostBias.contains (forwarded d pa / 65536)

/-- Every byte of a list, each in a word of what is delivered. -/
def byteWords (bs : List Byte) : List DWord := bs.map fun b => b.setWidth 64

/-- Bytes of an outside access lie where the outside may reach: DRAM in service, no sealed range (R20, R288). -/
def outsideOk (s : State) (addr n : Nat) : Bool := decide (0 < n) && inDram s.plat.walk addr n && !sealedAt s addr n

/-- R284, R288, R292: a CXL.mem access of the host, which a start enables at its stage 6. A read delivers as many bytes as `data` has;
an error delivers none. -/
def execHostCxlMemAccess (write : Bool) (addr : Nat) (data : List Byte) (s : State) : Answer1 :=
  if !s.plat.started ∨ s.plat.walk ∨ !outsideOk s addr data.length then .next (deliver s [])
  else
    let lines := linesOf addr data.length
    let ms := lines.foldl (fun ms l => recallHome l ms) (reachHome s.clock.ps .outside addr data.length s.ms)
    let own := underHostBias ms.dram addr
    let take := fun ms : MemSys => if own then { ms with dram := takeAtoms ms.dram addr data.length } else ms
    if write then .next (putMs s (take (engineWrite s.clock.ps .outside addr data ms)))
    else .next (putMs (deliver s (byteWords (readHome ms addr data.length))) (take ms))

/-- R285: a snoop of the host reaches the CXL.cache agent, which holds a line only within one step: nothing changes. -/
def execHostSnoop (_addr : Nat) (s : State) : Answer1 := .next s

/-! ## Peers and links (R286, R287, R144, R127) -/

/-- R286, R288: a peer's request to device DRAM, executed here at system scope. -/
def execPeerRequest (peer : Nat) (kind : PeerKind) (addr : Nat) (data : List Byte) (s : State) : Answer1 :=
  if 256 ≤ peer ∨ s.plat.linkUp = 0 then .next s
  else if !outsideOk s addr data.length then .next (deliver s [])
  else
    let n := data.length
    let ms := (linesOf addr n).foldl (fun ms l => recallHome l ms) (reachHome s.clock.ps .outside addr n s.ms)
    let old := readHome ms addr n
    match kind with
    | .load => .next (putMs (deliver s (byteWords old)) ms)
    | .store => .next (putMs (deliver s []) (engineWrite s.clock.ps .outside addr data ms))
    | .atomic op =>
      let new := leBytes n (rmw op n (leNat old) (leNat data))
      .next (putMs (deliver s (byteWords old)) (if op = .ld then ms else engineWrite s.clock.ps .outside addr new ms))

/-- No port of the link group is up, and none retrains. -/
def linkDead (s : State) : Bool := s.plat.linkUp == 0 && s.plat.linkRetraining == 0

/-- Chunks that a dead link will not acknowledge stop their channels: a permission fault at the destination (R144). -/
def stopChunks : List (Nat × Nat × Nat) → State → State
  | [], s => s
  | (key, _, _) :: r, s =>
    stopChunks r (match (chanOf s key).jobs with
      | [] => s
      | j :: _ => stopChan s key j 6 2 3 j.done ((jobDst j + (jobSpot j).1) % 2 ^ 64))

/-- The chunks to peers are lost once the link is dead. -/
def loseChunks (s : State) : State :=
  if linkDead s then
    let out := s.copies.peerChunks
    stopChunks out { s with copies := { s.copies with peerChunks := [] } }
  else s

/-- Die to which a port is attached: ports 0 to 8 to die 0, the others to die 1 (R10). -/
def portDie (port : Nat) : Nat := port / 9

/-- R286: a port goes down, which its die's Colophon records (R294). Whether it retrains is open (log entry 29). -/
def execLinkDown (port : Nat) (s : State) : Answer1 :=
  if 18 ≤ port ∨ !s.plat.linkUp.getLsbD port then .next s
  else
    let bit := BitVec.twoPow 18 port
    let again := (Config.freeWord s.free).getLsbD 0
    let since := mput port s.clock.ps s.plat.retrainSince
    let s := { s with free := s.free + freeStep }
    let s := putPlat s { s.plat with
      linkUp := s.plat.linkUp &&& ~~~bit, retrainSince := since,
      linkRetraining := if again then s.plat.linkRetraining ||| bit else s.plat.linkRetraining }
    .next (loseChunks (colophon s (portDie port) 5 port 0 0))

/-- R287: a port trains and comes up. -/
def execLinkUp (port : Nat) (s : State) : Answer1 :=
  if 18 ≤ port ∨ s.plat.walk then .next s
  else
    let bit := BitVec.twoPow 18 port
    .next (putPlat s { s.plat with linkUp := s.plat.linkUp ||| bit, linkRetraining := s.plat.linkRetraining &&& ~~~bit })

/-- A system fence whose release waits for peer writes of its lanes gives them up: the limit has passed (R127). One whose lanes' loads
are still out has not come to its release (R126). -/
def expireFence (s : State) (f : FenceRec) : State :=
  if !f.rel || f.scope != .sys || f.isView || fenceWaits s f then s
  else
    let t := fenceRelease s f
    if t.ms.cache.peerWrites.any fun w => w.lost.isNone && f.owns w then
      let t := giveUpPeers t f 2
      let t := if f.acq then putMs t (acquire f.core .dev (fenceLines t f) t.ms) else t
      endFence t f false
    else s

/-- R127, R144, R287: the link-retrain limit passes while a port retrains. -/
def execLinkRetrainLimitExpiry (port : Nat) (s : State) : Answer1 :=
  if !s.plat.linkRetraining.getLsbD port ∨ s.clock.ps < mget 0 port s.plat.retrainSince + s.plat.retrainLimit * 1_000_000
  then .next s
  else
    let left := s.plat.linkRetraining &&& ~~~BitVec.twoPow 18 port
    let s := putPlat s { s.plat with linkRetraining := left }
    if linkDead s then .next (loseChunks (s.ms.cache.fences.foldl expireFence s)) else .next s

/-! ## Start-up (R20, R292, R293) -/

/-- The machine after the power has gone: its memory but for host, peers and Vellum, and everything else, as at reset. Kept are
the Gremund controller's store, its firmware slots and fuses, and the model's own agenda and counter. -/
def coldState (s : State) : State :=
  let r := State.reset
  { r with
    agenda := s.agenda, free := s.free, clock := { r.clock with resets := s.clock.resets + 1 },
    ms := { r.ms with mem := s.ms.mem.filter fun x => decide (Config.dramEnd ≤ x.1) },
    tier := { r.tier with placesUsed := s.tier.placesUsed, placesFreed := s.tier.placesFreed },
    plat := { r.plat with attempts := s.plat.attempts, paletteCtl := s.plat.paletteCtl, mainSlot := s.plat.mainSlot,
                          recoverySlot := s.plat.recoverySlot, fuses := s.plat.fuses } }

/-- The Colophons of the machine before a reset that keeps them. -/
def keepColophons (s c : State) : State :=
  { c with die0 := { c.die0 with colophon := s.die0.colophon, colSeq := s.die0.colSeq },
           die1 := { c.die1 with colophon := s.die1.colophon, colSeq := s.die1.colSeq } }

/-- Colophon events of stages 1 to n, the last with a failing unit. -/
def stageEvents (n failed unit : Nat) (s : State) : State :=
  (List.range n).foldl (fun s i => colophon s 0 1 (if i + 1 = failed then unit % 256 else 0) (i + 1) 0) s

/-- REASON for which the Gremund controller does not load an image (R289, R293); none: it loads it. -/
def verifyImage (f : Fuses) (i : FwImage) : Option Nat :=
  if !i.edSigned || i.edKey != f.edKey then some 1
  else if !i.mlSigned || i.mlKey != f.mlKey then some 2
  else if i.version < f.rollback then some 3
  else none

/-- Stages that a start from an image passes and the REASON of the next one's failure: none passes where the image does not verify;
how the others fare is told from outside. -/
def startOutcome (s : State) (i : FwImage) (passed reason : Nat) : Nat × Nat :=
  match verifyImage s.plat.fuses i with
  | some r => (0, r)
  | none => (passed, reason)

/-- A start of all six stages (R292) from the main slot. `passed` stages complete, and the next fails for a reason. `done`: REASON of a
start that completes. -/
def fullStart (passed reason unit done : Nat) (s : State) : State :=
  let o := startOutcome s s.plat.mainSlot passed reason
  let p := { s.plat with walk := false, inReset := false, firmware := if 1 ≤ o.1 then s.plat.mainSlot.id else s.plat.firmware }
  if 6 ≤ o.1 then
    putPlat (stageEvents 6 0 0 s) { p with attempts := 0, stage := 6, reason := done, unit := 0, started := true,
                                           paletteGib := s.plat.paletteCtl, linkUp := BitVec.allOnes 18, linkRetraining := 0 }
  else
    putPlat (stageEvents (o.1 + 1) (o.1 + 1) unit s)
      { p with attempts := min 3 (s.plat.attempts + 1), stage := o.1, reason := o.2 % 256, unit := unit % 256, started := false }

/-- A start in walk mode (R20, R293): the recovery firmware, stages 1 to 3. BOOT_STATUS keeps the last failure's REASON and
UNIT where it completes. A recovery image that does not verify leaves the device in reset, with nothing running or registered. -/
def walkStart (passed reason unit : Nat) (s : State) : State :=
  let o := startOutcome s s.plat.recoverySlot passed reason
  let bad := (verifyImage s.plat.fuses s.plat.recoverySlot).isSome
  let s := if bad then keepColophons s (coldState s) else s
  let p := { s.plat with walk := true, linkUp := 0, linkRetraining := 0, inReset := bad,
                         firmware := if 1 ≤ o.1 then s.plat.recoverySlot.id else s.plat.firmware }
  if 3 ≤ o.1 then putPlat (stageEvents 3 0 0 s) { p with stage := 3, started := true, paletteGib := s.plat.paletteCtl }
  else
    putPlat (stageEvents (o.1 + 1) (o.1 + 1) unit s)
      { p with stage := o.1, reason := o.2 % 256, unit := unit % 256, started := false }

/-- What a start begins from: a device that is running goes down first (log entry 31). -/
def startFrom (s : State) : State :=
  if s.plat.started then
    let c := coldState s
    putPlat c { c.plat with reason := s.plat.reason, unit := s.plat.unit }
  else s

/-- R292, R293: a start. The third failure makes the next start enter walk mode. -/
def execDeviceStart (passed reason unit : Nat) (s : State) : Answer1 :=
  let s := startFrom s
  if s.plat.attempts = 3 then .next (walkStart passed reason unit s) else .next (fullStart passed reason unit 0 s)

/-- R294: a warm reset keeps the Colophon; the device starts again by a DEVICE_START. -/
def execWarmReset (s : State) : Answer1 :=
  let c := coldState s
  let w := { keepColophons s c with
    ms := { c.ms with mem := s.ms.mem, dram := { c.ms.dram with flags := s.ms.dram.flags, errs := s.ms.dram.errs } },
    plat := { c.plat with reason := s.plat.reason, unit := s.plat.unit, inReset := s.plat.inReset } }
  .next (colophon (colophon w 0 10 0 0 0) 1 10 0 0 0)

/-- R293: FULL_RETRY clears the count and makes a full start. -/
def execFullRetry (passed reason unit : Nat) (s : State) : Answer1 :=
  let s := startFrom s
  .next (fullStart passed reason unit 9 (putPlat s { s.plat with attempts := 0, walk := false }))

/-! ## The Gremund controller (R288 to R291, R294) -/

/-- R291: the host opens the one secure session. -/
def execSpdmSessionOpen (s : State) : Answer1 := .next (putPlat s { s.plat with session := true })

/-- R291: the session ends. -/
def execSpdmSessionClose (s : State) : Answer1 := .next (putPlat s { s.plat with session := false })

/-- R290: the measurements of the fuses and both slots, PALETTE_CTL, BOOT_STATUS and the sealed ranges. -/
def execSpdmAttestation (s : State) : Answer1 :=
  .next (deliver s (if s.plat.inReset then [] else [Config.measurement 0, Config.measurement 1, Config.measurement 2, BitVec.ofNat 64 s.plat.paletteCtl,
    bootStatus s.plat] ++ s.plat.sealedRanges.flatMap fun r => [BitVec.ofNat 64 r.1, BitVec.ofNat 64 r.2]))

/-- A record's words, two at a time. -/
def pairWords : List Word → List DWord
  | a :: b :: r => (b ++ a) :: pairWords r
  | _ => []

/-- R290, R294: a die's Colophon is delivered, oldest record first. -/
def execColophonReadout (die : Nat) (s : State) : Answer1 :=
  .next (deliver s (if 2 ≤ die then [] else (dieRegs s die).colophon.flatMap pairWords))

/-- R288: the Gremund controller sets the sealed physical ranges, at most 16. -/
def execSealedPhysicalRangesSet (ranges : List (Nat × Nat)) (s : State) : Answer1 :=
  if 16 < ranges.length ∨ !(ranges.all fun r => decide (0 < r.2) && inDram s.plat.walk r.1 r.2) then .next s
  else .next (putPlat s { s.plat with sealedRanges := ranges })

/-! ## Power (R290, R295, R296) -/

/-- R290: power telemetry: the average of the last window, and the clock. -/
def execPowerTelemetry (s : State) : Answer1 :=
  .next (deliver s [BitVec.ofNat 64 s.plat.watts, BitVec.ofNat 64 s.clock.mhz])

/-- The clock after a window (R296). -/
def nextMhz (limit mhz watts : Nat) : Nat :=
  if limit < watts then max 1200 (mhz - 100)
  else if watts * 100 ≤ limit * 95 then min 2500 (mhz + 100)
  else mhz

/-- A window of the power average: 1 ms, in ps (R296). -/
def windowPs : Nat := 1_000_000_000

/-- R296: a window of 1 ms ends, with its average power; not before the millisecond is over. -/
def execPowerWindow (watts : Nat) (s : State) : Answer1 :=
  if s.clock.ps < s.plat.windowAt + windowPs then .next s
  else
    let mhz := nextMhz s.plat.powerLimit s.clock.mhz watts
    let p := { s.plat with watts := watts, windowAt := s.plat.windowAt + windowPs }
    let s' := putPlat { s with clock := { s.clock with mhz := mhz } } p
    .next (if mhz = s.clock.mhz then s' else colophon s' 0 7 0 0 0)

end Sys2Proof.Machine
end

