-- ==== Sys2Proof/Machine/Agenda.lean ====
section
/-! DEFINITION. Agenda.lean: which step of the device comes about next of itself, and the placing of a word where the next
fetch reads it. -/

namespace Sys2Proof.Machine

/-! ## Pending work -/

/-- Steps that the outstanding results and the waits of the resident groups bring about. -/
def groupWork (s : State) : List Instr :=
  s.sched.groups.flatMap fun g => g.splits.flatMap fun p =>
    ((outstanding g p).zipIdx.filterMap fun x : LongResult × Nat => match x.1.kind with
      | .value | .mem _ _ _ => some (Instr.longResultWritten g.id p.id x.2)
      | _ => none) ++
    (if hasLate g p && takesLate p.wait then [Instr.lateTrap g.id p.id] else []) ++
    (match p.wait with
     | .sleep _ (some t) => if t ≤ s.clock.ps then [Instr.sleepTimeout g.id p.id] else []
     | _ => [])

/-- One step for each element of a list that is not parked or stopped, by its place in the list. -/
def eachOf {α : Type} (xs : List α) (held : α → Bool) (f : Nat → Instr) : List Instr :=
  (xs.zipIdx.filter fun x : α × Nat => !held x.1).map fun x : α × Nat => f x.2

/-- Nothing holds an element. -/
def neverHeld {α : Type} : α → Bool := fun _ => false

/-- Steps of the caches and of fences. -/
def cacheWork (s : State) : List Instr :=
  eachOf s.ms.cache.amsgs neverHeld .amsgExecute ++ eachOf s.ms.cache.fences neverHeld .fenceCompletion ++
    ((s.ms.cache.team.filter fun c => c.count == some 0).map fun c => .readCountExpiry c.owner c.line)

/-- Records for rings that nothing holds, and that no other goes before. -/
def ringWork (s : State) : List Instr :=
  (s.copies.rings.zipIdx.filter fun x : RingRec × Nat => x.1.free && !ringHeld s x.2 x.1).map
    fun x : RingRec × Nat => .ringRecordWrite x.2

/-- Steps of the copy engines, barriers and rings. -/
def copyWork (s : State) : List Instr :=
  (if s.copies.updates.isEmpty then [] else [.barrierUpdate 0]) ++ ringWork s ++
    (if s.plat.linkUp = 0 then [] else eachOf s.copies.peerChunks neverHeld .peerChunkAck) ++
    s.copies.chans.flatMap fun x : Nat × Channel => match x.2.jobs with
      | [] => []
      | j :: _ => if !chanReady s x.1 then []
                  else if j.gather then [.stippleElementDelivery (x.1 / 6) (x.1 % 6)]
                  else if j.dec then [.decompressBlock (x.1 / 6) (x.1 % 6)]
                  else [.drayChunkDelivery (x.1 / 6) (x.1 % 6)]

/-- Steps of the Yokes. -/
def yokeWork (s : State) : List Instr :=
  s.cores.yokes.flatMap fun x : Nat × Yoke =>
    (if x.2.table.isEmpty && x.2.waiting.isEmpty then [] else [Instr.yokeGrant x.1]) ++
      x.2.running.zipIdx.map fun r : YokeReq × Nat =>
        if r.1.isLoad then .stencilPlaneWritten x.1 r.2 else .yokePassComplete x.1 r.2

/-- Steps of the Coursers and Washes. -/
def renderWork (s : State) : List Instr :=
  ((s.render.flying.zipIdx.filter fun x : Flight × Nat => x.1.parked.isNone && !flightHeld s x.2 x.1).map
      fun x : Flight × Nat => .rayMessageArrival x.2) ++
    ((s.render.answers.zipIdx.filter fun x : Answer × Nat => x.1.parked.isNone && !answerHeld s x.2 x.1).map
      fun x : Answer × Nat => .callbackAnswerArrival x.2) ++
    ((s.render.subs.zipIdx.filter fun x : InflightSub × Nat => !subHeld s x.2 x.1).map
      fun x : InflightSub × Nat => .inflightSubtraction x.2) ++ eachOf s.render.washes (fun w => w.stopped || w.parked.isSome) .washRequest ++
    ((List.range Config.numStacks).filter fun st =>
      (mget [] st s.render.paddocks).any Paddock.ready || !(mget {} st s.render.waiting).rays.isEmpty ||
        (!s.render.dying.isEmpty && (!(mget [] st s.render.paddocks).isEmpty ||
          s.render.answering.any fun r => r.stackNo == st))).map .courserRound

/-- Steps of the views and of the Vellum tier. -/
def tierWork (s : State) : List Instr :=
  (match settledBlock s with | some b => [.settleIntervalExpiry b] | none => []) ++
    ((s.tier.jobs.zipIdx.filter fun x : ViewJob × Nat => !(x.1.stopped || x.1.parked.isSome || jobHeld s x.2 x.1)).map
      fun x : ViewJob × Nat => .viewBlockRecompute x.2) ++
    s.tier.fills.map (.vellumFolioFill · false) ++
    ((s.tier.installs.filter fun x : Nat × List Install => !x.2.isEmpty).map fun x : Nat × List Install =>
      .installFolio x.1 false false) ++
    ((List.range Config.numStacks).filter fun st => (nextBlockOf s st).isSome).map .checkpointBlock ++
    eachOf s.tier.acks (·.parked.isSome) .checkpointEntryAck

/-- Steps of the dispatchers and of pre-emption. -/
def schedWork (s : State) : List Instr :=
  eachOf s.sched.deferred neverHeld .deferredPublication ++
    (if !s.pre.restores.isEmpty || (s.sched.queues.any fun q => q.head.isSome || hdrHead s q.header != q.tail)
     then [.dispatchRound] else []) ++
    ((s.sched.queues.filter fun q => q.drain.isEmpty && q.fitSince.any fun t => decide (t + 4096 ≤ s.clock.cycle)).map
      fun q => .fitWaitExpiry q.num) ++
    (s.pre.reqs.zipIdx.flatMap fun x : PreReq × Nat =>
      (if !x.1.passed && decide (x.1.deadline ≤ s.clock.ps) then [.preemptionDeadline x.2] else []) ++ [.preemptSaveWrite x.2]) ++
    (s.xlat.invals.map fun x => .invalidationComplete x.1)

/-- Steps of the DRAM controllers and of the links. -/
def platWork (s : State) : List Instr :=
  (s.ctls.flatMap fun x : Nat × Stack =>
    x.2.inBackoff.map (fun b => Instr.backoffComplete x.1 b.1) ++ (if x.2.passOn then [.scrubRowRead x.1] else [])) ++
    ((List.range Config.numStacks).filter fun st => (ctlOf s st).scrubEn && !deadStack s st &&
      decide ((ctlOf s st).passAt + (ctlOf s st).period * hourPs ≤ s.clock.ps)).map .scrubPassStart ++
    ((s.ms.dram.migs.filter fun x : Nat × Mig => x.2.status == 1).map fun x : Nat × Mig => .migrationPass x.1) ++
    ((List.range 18).filter fun p => s.plat.linkRetraining.getLsbD p &&
      decide (mget 0 p s.plat.retrainSince + s.plat.retrainLimit * 1_000_000 ≤ s.clock.ps)).map .linkRetrainLimitExpiry

/-- The steps that may come about of themselves now. -/
def pendingWork (s : State) : List Instr :=
  groupWork s ++ cacheWork s ++ copyWork s ++ yokeWork s ++ renderWork s ++ tierWork s ++ schedWork s ++ platWork s

/-- The one that comes about in a cycle: each in its turn (log entry 1). -/
def nextInternal (s : State) : Option Instr :=
  match pendingWork s with
  | [] => none
  | w => w[s.clock.cycle % w.length]?

/-- A split whose phase has arrived (R243). -/
def phaseDue (s : State) : Option (Nat × Nat) :=
  s.sched.groups.findSome? fun g => g.splits.findSome? fun p => match p.wait with
    | .phase n _ => if n ≤ g.phase then some (g.id, p.id) else none
    | _ => none

/-- What a step does: a split issues, a step of the device or something from outside comes about, or the cycle ends. -/
inductive Choice1 where
  | issue (grp sp : Nat)
  | occur (i : Instr)
  | outside (a : Act)
  | pass
  deriving Repr

/-- The picks of a cycle are made; the first issues, or the cycle ends where there is none. -/
def firstPick (s : State) (ps : List (Nat × Nat)) : Choice1 × State :=
  match ps with
  | [] => (.pass, makePicks s [])
  | x :: r => (.issue x.1 x.2, { makePicks s ps with picks := some r })

/-- While a bank is in back-off, requests for it are held: the back-off ends before anything else comes about, but a refresh that falls
due meanwhile (R272, log entry 1). -/
def backoffStep (s : State) : Option (Instr × State) :=
  (s.ctls.findSome? fun x => x.2.inBackoff.head?.map fun b => (x.1, b.1)).map fun b =>
    match s.agenda with
    | .occur (.refreshDue st k) :: r => (.refreshDue st k, { s with agenda := r })
    | _ => (.backoffComplete b.1 b.2, s)

/-- What begins a cycle: what the agenda names comes about, a step of the device, something from outside or the pick of a core, or
else a step of the pending work; then every core's picks are made. -/
def beginCycle (s : State) : Choice1 × State :=
  let own := match nextInternal s with
    | some i => (.occur i, makePicks s (pickAll s))
    | none => firstPick s (pickAll s)
  match s.agenda with
  | .occur i :: r => (.occur i, { makePicks s (pickAll s) with agenda := r })
  | .read x :: r => (.outside (.read x), { makePicks s (pickAll s) with agenda := r })
  | .upset a k :: r => (.outside (.upset a k), { makePicks s (pickAll s) with agenda := r })
  | .issue gid sid :: r =>
    match findGroup s gid with
    | none => firstPick { s with agenda := r } (pickAll s)
    | some g =>
      if goesFirst s g.core then firstPick s (pickAll s) else firstPick { s with agenda := r } (pickNamed s gid sid g.core)
  | _ => own

/-- What comes next (log entry 1). In a cycle whose picks are made they issue one after another, and the cycle ends. A new cycle
begins with the WAITPH releases that are due (R243). -/
def choose (s : State) : Choice1 × State :=
  match backoffStep s with
  | some x => (.occur x.1, x.2)
  | none =>
    match s.picks with
    | some (x :: r) => (.issue x.1 x.2, { s with picks := some r })
    | some [] => (.pass, s)
    | none =>
      match phaseDue s with
      | some x => (.occur (.waitphRelease x.1 x.2), s)
      | none => beginCycle s

/-- Something from outside comes about: a register is read (R279, R290), or a symbol of an atom of DRAM goes wrong (R268). -/
def bringAbout (a : Act) (s : State) : State :=
  match a with
  | .read (.bar0 offset viaSession) => readRegister offset viaSession s
  | .read .bootStatus => deliver s [bootStatus s.plat]
  | .upset atom symbol =>
    let d := s.ms.dram
    let wrong := ((mget? atom d.errs).getD [] ++ [symbol % 37]).dedup
    if (physOf false (atom * 32)).isDram then { s with ms := { s.ms with dram := { d with errs := mput atom wrong d.errs } } } else s
  | .issue _ _ | .occur _ | .pass _ => s

/-- The controllers learn of the master pages of the VALID views (R108, R206, R209; log entry 26). -/
def noteMasters (s : State) : State :=
  let leaf := fun (v : ViewEntry) (d : Meta) (b : Nat) =>
    match leafOf s v.asid (v.mbase + 4096 * b) with
    | some (l, e) => noteLeaf s.clock.ps d l e
    | none => d
  let d := (views s).foldl (fun (d : Meta) v => (List.range (v.mlen / 4096)).foldl (leaf v) d) s.ms.dram
  { s with ms := { s.ms with dram := d } }

/-- What every step begins with. -/
def beginStep (s : State) : State := noteMasters (noteWrites s)

/-! ## Placing a word for the next fetch -/

/-- The physical address that the next step fetches from, where the next step is an issue. -/
def nextFetch (s : State) : Option (Nat × Nat) :=
  match choose (beginStep s) with
  | (.issue gid sid, s) =>
    match curSplit { s with cur := (gid, sid) } with
    | some (g, p) =>
      if isReady g p && !(wgOf s g.launch g.wg).stopping && !hasLate g p && !joinDue g p then
        match checkObject s (whoOf s g) 0 .fetch false 4 4 4 p.pc.toNat with
        | .ok ((_, pa, _) :: _) => some (g.core, pa)
        | _ => none
      else none
    | none => none
  | _ => none

/-- A word stored at a physical address, with no older copy in a core's instruction cache. -/
def putWord (s : State) (core pa w : Nat) : State :=
  let d := s.ms.dram
  let f := mget {} (pa / 32) d.flags
  let flags := mset {} (pa / 32) { f with p := false } d.flags
  let dram := { d with errs := mdel (pa / 32) d.errs, flags := flags }
  let cache := { s.ms.cache with icache := mdel (icacheKey core pa) s.ms.cache.icache }
  { s with ms := { mem := setBytes s.ms.mem pa (leBytes 4 w), dram := dram, cache := cache } }

/-- Where a program is loaded when none runs: page tables of one readable, writable, executable 4 GiB page, and its code. -/
def loadRoot : Nat := 0x10000
def loadTable : Nat := 0x20000
def loadCode : Nat := 0x30000

/-- A launch of one workgroup of one group of 8 lanes on core 0, placed from outside (log entry 1). -/
def loadLaunch (s : State) : State :=
  let l : Launch := { id := s.sched.nextLaunch, queue := 0, asid := 0, placed := 1,
                      desc := { entry := BitVec.ofNat 64 loadCode, vregs := 256, sregs := 512 } }
  let w : Workgroup := { launch := l.id, wg := 0, cores := [0], groupsLeft := 1, aBytes := 0, aBase := [(0, 0)],
                         wBase := [(0, 0)], cBase := [(0, 0)], slots := [], trapBase := 0, isSealed := false, priv := false,
                         landingPad := false }
  let g : Group := { id := s.sched.nextGroup, launch := l.id, wg := 0, index := 0, core := 0, pos := 0, width := 8,
                     vregs := 256, sregs := 512, octet := 0, regOffset := 0, itemBase := 0,
                     gens := (List.range 8).map (seedLane 0), slices := [⟨15, 15, [], 0⟩, ⟨15, 15, [], 0⟩],
                     splits := [{ id := 0, slices := [0, 1], pc := BitVec.ofNat 64 loadCode, fmt := 0 }] }
  let mem := setBytes (setBytes s.ms.mem loadRoot (leBytes 8 (loadTable + 1))) loadTable (leBytes 8 0x1F)
  { s with picks := some [(g.id, 0)],
           ctls := s.ctls.map fun x => (x.1, { x.2 with inBackoff := [] }), ms := { s.ms with mem := mem },
           xlat := { s.xlat with binds := mput 0 ⟨loadRoot, false⟩ s.xlat.binds,
                                 tlb := s.xlat.tlb.filter fun t => t.asid != 0 },
           sched := { s.sched with launches := s.sched.launches ++ [l], wgs := s.sched.wgs ++ [w],
                                   groups := s.sched.groups ++ [g], nextLaunch := s.sched.nextLaunch + 1,
                                   nextGroup := s.sched.nextGroup + 1 } }

/-- The state whose next step fetches a word: in place where the next step fetches, else after a load from outside. -/
def placeWord (s : State) (w : Nat) : State :=
  match nextFetch s with
  | some (core, pa) => putWord s core pa w
  | none =>
    let s := loadLaunch s
    putWord s 0 loadCode w

end Sys2Proof.Machine
end

