-- ==== Sys2Proof/Machine/CrossLane.lean ====
section
/-! DEFINITION. CrossLane.lean: instructions across the lanes of a split, index registers and predicates (R57, R385, R389, R399,
R411, R413, R415). -/

namespace Sys2Proof.Machine

/-- Source position of SHFL, on unbounded integers (R399). -/
def shflFrom (m : ShflMode) (lane : Nat) (y : Word) : Int :=
  match m with
  | .idx => y.toNat
  | .up => (lane : Int) - y.toNat
  | .down => (lane : Int) + y.toNat
  | .xor => ((lane ^^^ y.toNat : Nat) : Int)

/-- R399. -/
def execShfl (y : Bool) (gd : Guard) (d a : BitVec 6) (b : Src) (m : ShflMode) (s : State) : Answer1 :=
  vecOp (.shfl y gd d a b m) {} y gd [a.toNat, d.toNat] (some b)
    (fun g _ ls bv => (setLanes g ls (eff g d.toNat) fun l =>
      let q := shflFrom m l (bv l)
      if 0 ≤ q && decide (q < g.width) && ls.contains q.toNat then aVal g q.toNat a else aVal g l a, {})) s

/-- Value of the source predicate of VOTE in a lane (R415). -/
def voteVal (g : Group) (a : BitVec 6) (lane : Nat) : Bool := xor (getP g lane (a.toNat % 8)) (a.getLsbD 3)

/-- The answer of any, all and eq. -/
def voteAns (m : VoteMode) (vs : List Bool) : Bool :=
  match m with
  | .any => vs.any id
  | .all => vs.all id
  | _ => vs.all id || vs.all (!·)

/-- R415. -/
def execVote (y : Bool) (gd : Guard) (d a : BitVec 6) (b : BitVec 7) (m : VoteMode) (s : State) : Answer1 :=
  vecChecked (.vote y gd d a b m) {} y gd (fun _ _ => [])
    (fun g _ ls => if m = .ballot then sRange g (laneBits ls) [d.toNat, d.toNat + 1, d.toNat + 2, d.toNat + 3] else none)
    (fun g _ ls =>
      (if ls.isEmpty then g
       else if m = .ballot then
         let w := laneBits (ls.filter (voteVal g a))
         (List.range 4).foldl (fun h k => setS h (d.toNat + k) (fld w (32 * k) 32)) g
       else setPreds g ls (d.toNat / 8) fun _ => voteAns m (ls.map (voteVal g a)), {})) s

/-- One step of a reduction (R389). -/
def reduxOne (m : ReduxOp) (a b : Word) : Word :=
  match m with
  | .add => a + b
  | .min => if b.slt a then b else a
  | .max => if a.slt b then b else a
  | .or => a ||| b

/-- R389: long. -/
def execRedux (y : Bool) (gd : Guard) (d a : BitVec 6) (b : BitVec 7) (m : ReduxOp) (s : State) : Answer1 :=
  vecChecked (.redux y gd d a b m) {} y gd (fun _ _ => [a.toNat]) (fun g _ ls => sRange g (laneBits ls) [d.toNat])
    (fun g p ls =>
      (match ls with
       | [] => g
       | l :: r => addLong g p ls [] [(d.toNat, r.foldl (fun x k => reduxOne m x (aVal g k a)) (aVal g l a))] none, {})) s

/-- R411: long. -/
def execV2s (y : Bool) (gd : Guard) (d a : BitVec 6) (b : BitVec 7) (s : State) : Answer1 :=
  vecChecked (.v2s y gd d a b) {} y gd (fun _ _ => [a.toNat]) (fun g _ ls => sRange g (laneBits ls) [d.toNat])
    (fun g p ls =>
      (if ls.isEmpty then g
       else addLong g p ls [] [(d.toNat, if ls.contains b.toNat then aVal g b.toNat a else 0)] none, {})) s

/-! ## Index registers (R57, R413) -/

def XRegNum : XReg → Nat
  | .x1 => 1 | .x2 => 2 | .x3 => 3

/-- Effective number that an index names in a lane (R57). -/
def indexOf (g : Group) (p : Split) (x : XReg) (i : BitVec 9) (lane : Nat) : Int :=
  ((getX g lane (XRegNum x)).toNat : Int) + immVI p i + g.wb.toNat

/-- The index-bound trap: exactly the failing lanes (R57, R244). -/
def indexBound (g : Group) (p : Split) (x : XReg) (i : BitVec 9) (ls : List Nat) : Option Trap :=
  match ls.filter fun l => indexOf g p x i l < 0 || decide ((g.vregs : Int) ≤ indexOf g p x i l) with
  | [] => none
  | l :: r => some { cause := 0x04, lanes := laneBits (l :: r),
                     info := BitVec.ofNat 64 (XRegNum x + 256 * (indexOf g p x i l % 256).toNat) }

/-- Writes index register Xn of lanes. -/
def setXs (g : Group) (ls : List Nat) (n : Nat) (f : Nat → Byte) : Group := ls.foldl (fun h l => setX h l n (f l)) g

/-- R413. -/
def execVmovx (y : Bool) (gd : Guard) (d : BitVec 6) (x : XReg) (i : BitVec 9) (s : State) : Answer1 :=
  vecChecked (.vmovx y gd d x i) { imms := 2 } y gd (fun _ _ => [d.toNat]) (fun g p ls => indexBound g p x i ls)
    (fun g p ls => (setLanes g ls (eff g d.toNat) fun l => getV g l (indexOf g p x i l).toNat, {})) s

/-- R413. -/
def execVmovxToX (y : Bool) (gd : Guard) (d : BitVec 6) (x : XReg) (i : BitVec 9) (s : State) : Answer1 :=
  vecChecked (.vmovxToX y gd d x i) { imms := 2 } y gd (fun _ _ => [d.toNat]) (fun _ _ _ => none)
    (fun g p ls => (setXs g ls (XRegNum x) fun l => (aVal g l d).setWidth 8 + BitVec.ofInt 8 (immVI p i), {})) s

/-- R413. -/
def execVmovxFromX (y : Bool) (gd : Guard) (d : BitVec 6) (x : XReg) (s : State) : Answer1 :=
  vecChecked (.vmovxFromX y gd d x) { imms := 2 } y gd (fun _ _ => [d.toNat]) (fun _ _ _ => none)
    (fun g _ ls => (setLanes g ls (eff g d.toNat) fun l => (getX g l (XRegNum x)).setWidth 32, {})) s

/-- R413. -/
def execVstx (y : Bool) (gd : Guard) (d : BitVec 6) (x : XReg) (i : BitVec 9) (s : State) : Answer1 :=
  vecChecked (.vstx y gd d x i) { imms := 2 } y gd (fun _ _ => [d.toNat]) (fun g p ls => indexBound g p x i ls)
    (fun g p ls => (ls.foldl (fun h l => setV h l (indexOf g p x i l).toNat (aVal g l d)) g, {})) s

/-- R413. -/
def execVstxAdd (y : Bool) (gd : Guard) (x : XReg) (i : BitVec 9) (s : State) : Answer1 :=
  vecChecked (.vstxAdd y gd x i) { imms := 2 } y gd (fun _ _ => []) (fun _ _ _ => none)
    (fun g p ls => (setXs g ls (XRegNum x) fun l => getX g l (XRegNum x) + BitVec.ofInt 8 (immVI p i), {})) s

/-! ## Predicates -/

/-- R385. -/
def execPlop (y : Bool) (gd : Guard) (d a b : BitVec 3) (lut : BitVec 4) (s : State) : Answer1 :=
  vecChecked (.plop y gd d a b lut) {} y gd (fun _ _ => []) (fun _ _ _ => none)
    (fun g _ ls => (setPreds g ls d.toNat fun l =>
      lut.getLsbD (2 * b2n (getP g l a.toNat) + b2n (getP g l b.toNat)), {})) s

end Sys2Proof.Machine
end

