-- ==== Sys2Proof/Machine/Scalar.lean ====
section
/-! DEFINITION. Scalar.lean: scalar arithmetic, group predicates, format and window registers, system registers and clocks
(R52 to R64, R345, R393 to R397, R402, R403, R407, R408). -/

namespace Sys2Proof.Machine

/-- Shift count of SSHL and SSHR (R393). -/
def sCount {n : Nat} (b : BitVec n) : Nat := b.toNat % 256

/-- A scalar instruction of the SR3 format: words, or pairs under HX.w, whose registers must then be even (R55, R393). -/
def scalarOp (i : Instr) (y : Bool) (gd : Guard) (d a b : BitVec 7) (f : Word → Word → Word) (f2 : DWord → DWord → DWord)
    (s : State) : Answer1 :=
  issueQ i { w := true } y gd s fun g p =>
    let (x, u, v) := (d.toNat, a.toNat, b.toNat)
    if (hxOf p).w then
      if !(even d && even a && even b) then takeTrap s g p (illegal i g p) none
      else orTrap s g p (sCheck g p [u, u + 1, v, v + 1, x, x + 1])
        (finish s (setS64 g x (f2 (getS64 g u) (getS64 g v))) p y)
    else orTrap s g p (sCheck g p [u, v, x]) (finish s (setS g x (f (getS g u) (getS g v))) p y)

/-- R393. -/
def execSadd (y : Bool) (g : Guard) (d a b : BitVec 7) (s : State) : Answer1 :=
  scalarOp (.sadd y g d a b) y g d a b (· + ·) (· + ·) s
/-- R393. -/
def execSsub (y : Bool) (g : Guard) (d a b : BitVec 7) (s : State) : Answer1 :=
  scalarOp (.ssub y g d a b) y g d a b (· - ·) (· - ·) s
/-- R393. -/
def execSmul (y : Bool) (g : Guard) (d a b : BitVec 7) (s : State) : Answer1 :=
  scalarOp (.smul y g d a b) y g d a b (· * ·) (· * ·) s
/-- R393. -/
def execSand (y : Bool) (g : Guard) (d a b : BitVec 7) (s : State) : Answer1 :=
  scalarOp (.sand y g d a b) y g d a b (· &&& ·) (· &&& ·) s
/-- R393. -/
def execSor (y : Bool) (g : Guard) (d a b : BitVec 7) (s : State) : Answer1 :=
  scalarOp (.sor y g d a b) y g d a b (· ||| ·) (· ||| ·) s
/-- R393. -/
def execSxor (y : Bool) (g : Guard) (d a b : BitVec 7) (s : State) : Answer1 :=
  scalarOp (.sxor y g d a b) y g d a b (· ^^^ ·) (· ^^^ ·) s
/-- R393. -/
def execSshl (y : Bool) (g : Guard) (d a b : BitVec 7) (s : State) : Answer1 :=
  scalarOp (.sshl y g d a b) y g d a b (fun x z => x <<< sCount z) (fun x z => x <<< sCount z) s
/-- R393. -/
def execSshr (y : Bool) (g : Guard) (d a b : BitVec 7) (s : State) : Answer1 :=
  scalarOp (.sshr y g d a b) y g d a b (fun x z => x >>> sCount z) (fun x z => x >>> sCount z) s

/-- R403. -/
def execSsetp (y : Bool) (gd : Guard) (q : BitVec 3) (c : ICond) (a b : BitVec 7) (s : State) : Answer1 :=
  issueQ (.ssetp y gd q c a b) { w := true } y gd s fun g p =>
    let (u, v) := (a.toNat, b.toNat)
    if (hxOf p).w then
      if !(even a && even b) then takeTrap s g p (illegal (.ssetp y gd q c a b) g p) none
      else orTrap s g p (sCheck g p [u, u + 1, v, v + 1])
        (finish s (setQ g q.toNat (icond c (getS64 g u) (getS64 g v))) p y)
    else orTrap s g p (sCheck g p [u, v]) (finish s (setQ g q.toNat (icond c (getS g u) (getS g v))) p y)

/-- R402. -/
def execSmov (y : Bool) (gd : Guard) (d a : BitVec 9) (s : State) : Answer1 :=
  issueQ (.smov y gd d a) {} y gd s fun g p =>
    orTrap s g p (sCheck g p [a.toNat, d.toNat]) (finish s (setS g d.toNat (getS g a.toNat)) p y)

/-- R402; odd numbers are refused by the word (R55). -/
def execSmovB64 (y : Bool) (gd : Guard) (d a : BitVec 9) (s : State) : Answer1 :=
  issueQ (.smovB64 y gd d a) {} y gd s fun g p =>
    orTrap s g p (sCheck g p [a.toNat, a.toNat + 1, d.toNat, d.toNat + 1])
      (finish s (setS64 g d.toNat (getS64 g a.toNat)) p y)

/-- R394. -/
def execSaddi (y : Bool) (gd : Guard) (d : BitVec 9) (i : BitVec 12) (s : State) : Answer1 :=
  issueQ (.saddi y gd d i) { w := true, imms := 2 } y gd s fun g p =>
    let x := d.toNat
    if (hxOf p).w then
      if !even d then takeTrap s g p (illegal (.saddi y gd d i) g p) none
      else orTrap s g p (sCheck g p [x, x + 1])
        (finish s (setS64 g x (getS64 g x + BitVec.ofInt 64 (immSI p i))) p y)
    else orTrap s g p (sCheck g p [x]) (finish s (setS g x (getS g x + BitVec.ofInt 32 (immSI p i))) p y)

/-! ## FMT, SPA and WB (R59, R60, R396) -/

/-- A value FMT may hold (R59). -/
def fmtLegal (w : Word) : Bool :=
  nbits w.toNat 17 15 == 0 && fmtQrnd w != 3 && fmtScale w != 3 && decide (nbits w.toNat 4 4 < 10) &&
    decide (nbits w.toNat 0 4 < 10)

/-- R396. -/
def execSetfmt (y : Bool) (gd : Guard) (a : BitVec 7) (s : State) : Answer1 :=
  issueQ (.setfmt y gd a) {} y gd s fun g p =>
    orTrap s g p ((sCheck g p [a.toNat]).or
        (if fmtLegal (getS g a.toNat) then none else some (illegal (.setfmt y gd a) g p)))
      (finish s g { p with fmt := getS g a.toNat } y)

/-- R396. -/
def execSetspare (y : Bool) (gd : Guard) (a : BitVec 7) (s : State) : Answer1 :=
  issueQ (.setspare y gd a) {} y gd s fun g p =>
    orTrap s g p (sCheck g p [a.toNat]) (finish s { g with spa := (getS g a.toNat).setWidth 16 } p y)

/-- R53, R396. -/
def execSetwb (y : Bool) (gd : Guard) (w : BitVec 5) (s : State) : Answer1 :=
  issueQ (.setwb y gd w) {} y gd s fun g p => finish s { g with wb := w ++ 0#3 } p y

/-- R53, R396. -/
def execSetwbReg (y : Bool) (gd : Guard) (a : BitVec 7) (s : State) : Answer1 :=
  issueQ (.setwbReg y gd a) {} y gd s fun g p =>
    orTrap s g p (sCheck g p [a.toNat]) (finish s { g with wb := (fld (getS g a.toNat) 3 5 : BitVec 5) ++ 0#3 } p y)

/-! ## System registers (R62 to R64, R407, R408) -/

/-- Value of a system register as SYSRD reads it; a write-only register reads 0. -/
def sysRead (s : State) (g : Group) (p : Split) (n : Nat) : DWord :=
  let w := wgOf s g.launch g.wg
  match n with
  | 0x00 => BitVec.ofNat 64 g.core
  | 0x01 => BitVec.ofNat 64 (teamOf g.core)
  | 0x02 => BitVec.ofNat 64 (dieOf g.core)
  | 0x03 => BitVec.ofNat 64 g.index
  | 0x04 => BitVec.ofNat 64 g.wg
  | 0x05 => BitVec.ofNat 64 g.launch
  | 0x06 => if (launchOf s g.launch).desc.kmax = 0 then 0 else g.itemBase.setWidth 64
  | 0x10 => w.trapBase
  | 0x11 => p.flt.cause.setWidth 64
  | 0x12 => p.flt.pc
  | 0x13 => p.flt.addr
  | 0x14 => fld p.flt.lanes 0 64
  | 0x15 => fld p.flt.lanes 64 64
  | 0x16 => p.flt.progress.setWidth 64
  | 0x17 => p.flt.info
  | 0x20 => BitVec.ofNat 64 (coreSt s g.core).ageLimit
  | 0x21 => BitVec.ofNat 64 (b2n w.isSealed)
  | _ => 0

/-- Scalar registers a system register moves through. -/
def sysRegs (n : BitVec 6) (d : BitVec 7) : List Nat := if SysReg.wide n then [d.toNat, d.toNat + 1] else [d.toNat]

/-- R62, R407. -/
def execSysrd (y : Bool) (gd : Guard) (d : BitVec 7) (n : BitVec 6) (s : State) : Answer1 :=
  issueQ (.sysrd y gd d n) {} y gd s fun g p =>
    let v := sysRead s g p n.toNat
    orTrap s g p (sCheck g p (sysRegs n d))
      (finish s (if SysReg.wide n then setS64 g d.toNat v else setS g d.toNat (v.setWidth 32)) p y)

/-- The nearer bound of AGE_LIMIT (R64). -/
def ageBound (v : Nat) : Nat := min (max v 64) 1024

/-- A permitted write of a system register (R408): the state and the group after it. -/
def sysWrite (s : State) (g : Group) (n : Nat) (v : DWord) : State × Group :=
  match n with
  | 0x10 => (putWg s { wgOf s g.launch g.wg with trapBase := v }, g)
  | 0x20 =>
    let st := { coreSt s g.core with ageLimit := ageBound (v.toNat % 2 ^ 32) }
    ({ s with cores := { s.cores with cs := (mset {} g.core st s.cores.cs) } }, g)
  | 0x22 => (s, { g with gens := (List.range g.width).map (seedLane (v.setWidth 32)) })
  | _ => (s, g)

/-- Privilege, and a change of world, at a write (R62, R408). All writable registers need privilege (R63). -/
def sysRefused (s : State) (g : Group) (p : Split) (n : Nat) (v : DWord) : Option Trap :=
  let w := wgOf s g.launch g.wg
  if !w.priv || (n == 0x21 && v.getLsbD 0 != w.isSealed) then some (permTrap 8 7 0 (allOf g p)) else none

/-- R62, R407, R408. -/
def execSyswr (y : Bool) (gd : Guard) (d : BitVec 7) (n : BitVec 6) (s : State) : Answer1 :=
  issueQ (.syswr y gd d n) {} y gd s fun g p =>
    let v := if SysReg.wide n then getS64 g d.toNat else (getS g d.toNat).setWidth 64
    orTrap s g p ((sCheck g p (sysRegs n d)).or (sysRefused s g p n.toNat v))
      (finish (sysWrite s g n.toNat v).1 (sysWrite s g n.toNat v).2 p y)

/-- R345. -/
def execClock (y : Bool) (gd : Guard) (d : BitVec 6) (n : Bool) (s : State) : Answer1 :=
  issueQ (.clock y gd d n) {} y gd s fun g p =>
    let x := 2 * d.toNat
    orTrap s g p (sCheck g p [x, x + 1])
      (finish s (setS64 g x (BitVec.ofNat 64 (if n then nowNs s else s.clock.cycle))) p y)

end Sys2Proof.Machine
end

