-- ==== Sys2Proof/Machine/Dispatch.lean ====
section
/-! DEFINITION. Dispatch.lean: one arm for each constructor of Instr. -/

namespace Sys2Proof.Machine

def exec (i : Instr) (s : State) : Host.Outcome State Fault Refusal :=
  match i with
  | .iadd y g d a b => Sys2Proof.Machine.execIadd y g d a b s
  | .isub y g d a b => Sys2Proof.Machine.execIsub y g d a b s
  | .imin y g d a b => Sys2Proof.Machine.execImin y g d a b s
  | .imax y g d a b => Sys2Proof.Machine.execImax y g d a b s
  | .imul y g d a b => Sys2Proof.Machine.execImul y g d a b s
  | .imulh y g d a b => Sys2Proof.Machine.execImulh y g d a b s
  | .imad y g d a b => Sys2Proof.Machine.execImad y g d a b s
  | .idot4 y g d a b => Sys2Proof.Machine.execIdot4 y g d a b s
  | .and y g d a b => Sys2Proof.Machine.execAnd y g d a b s
  | .or y g d a b => Sys2Proof.Machine.execOr y g d a b s
  | .xor y g d a b => Sys2Proof.Machine.execXor y g d a b s
  | .andn y g d a b => Sys2Proof.Machine.execAndn y g d a b s
  | .shl y g d a b => Sys2Proof.Machine.execShl y g d a b s
  | .shr y g d a b => Sys2Proof.Machine.execShr y g d a b s
  | .sar y g d a b => Sys2Proof.Machine.execSar y g d a b s
  | .rotl y g d a b => Sys2Proof.Machine.execRotl y g d a b s
  | .popc y g d a => Sys2Proof.Machine.execPopc y g d a s
  | .clz y g d a => Sys2Proof.Machine.execClz y g d a s
  | .brev y g d a => Sys2Proof.Machine.execBrev y g d a s
  | .iabs y g d a => Sys2Proof.Machine.execIabs y g d a s
  | .bfx y g d a b => Sys2Proof.Machine.execBfx y g d a b s
  | .bfi y g d a b => Sys2Proof.Machine.execBfi y g d a b s
  | .prmt y g d a b => Sys2Proof.Machine.execPrmt y g d a b s
  | .mov y g d a => Sys2Proof.Machine.execMov y g d a s
  | .isetp y g p c a b m => Sys2Proof.Machine.execIsetp y g p c a b m s
  | .sel y g d a b k => Sys2Proof.Machine.execSel y g d a b k s
  | .iaddi y g d a i_ => Sys2Proof.Machine.execIaddi y g d a i_ s
  | .movi y g d i_ => Sys2Proof.Machine.execMovi y g d i_ s
  | .fadd y g d a b => Sys2Proof.Machine.execFadd y g d a b s
  | .fmul y g d a b => Sys2Proof.Machine.execFmul y g d a b s
  | .fmin y g d a b => Sys2Proof.Machine.execFmin y g d a b s
  | .fmax y g d a b => Sys2Proof.Machine.execFmax y g d a b s
  | .ffma y g d a b => Sys2Proof.Machine.execFfma y g d a b s
  | .ffnma y g d a b => Sys2Proof.Machine.execFfnma y g d a b s
  | .ffms y g d a b => Sys2Proof.Machine.execFfms y g d a b s
  | .fsetp y g p c a b m => Sys2Proof.Machine.execFsetp y g p c a b m s
  | .sfu y g d a f => Sys2Proof.Machine.execSfu y g d a f s
  | .hfma2 y g d a b => Sys2Proof.Machine.execHfma2 y g d a b s
  | .bfma2 y g d a b => Sys2Proof.Machine.execBfma2 y g d a b s
  | .hadd2 y g d a b => Sys2Proof.Machine.execHadd2 y g d a b s
  | .hmul2 y g d a b => Sys2Proof.Machine.execHmul2 y g d a b s
  | .cvt y g d a s_ t r => Sys2Proof.Machine.execCvt y g d a s_ t r s
  | .frnd y g d a r => Sys2Proof.Machine.execFrnd y g d a r s
  | .qnt y g d a b => Sys2Proof.Machine.execQnt y g d a b s
  | .dqn y g d a b => Sys2Proof.Machine.execDqn y g d a b s
  | .had y g d a => Sys2Proof.Machine.execHad y g d a s
  | .shfl y g d a b m => Sys2Proof.Machine.execShfl y g d a b m s
  | .vote y g d a b m => Sys2Proof.Machine.execVote y g d a b m s
  | .redux y g d a b m => Sys2Proof.Machine.execRedux y g d a b m s
  | .v2s y g d a b => Sys2Proof.Machine.execV2s y g d a b s
  | .vmovx y g d x i_ => Sys2Proof.Machine.execVmovx y g d x i_ s
  | .vmovxToX y g d x i_ => Sys2Proof.Machine.execVmovxToX y g d x i_ s
  | .vmovxFromX y g d x => Sys2Proof.Machine.execVmovxFromX y g d x s
  | .vstx y g d x i_ => Sys2Proof.Machine.execVstx y g d x i_ s
  | .vstxAdd y g x i_ => Sys2Proof.Machine.execVstxAdd y g x i_ s
  | .sadd y g d a b => Sys2Proof.Machine.execSadd y g d a b s
  | .ssub y g d a b => Sys2Proof.Machine.execSsub y g d a b s
  | .smul y g d a b => Sys2Proof.Machine.execSmul y g d a b s
  | .sand y g d a b => Sys2Proof.Machine.execSand y g d a b s
  | .sor y g d a b => Sys2Proof.Machine.execSor y g d a b s
  | .sxor y g d a b => Sys2Proof.Machine.execSxor y g d a b s
  | .sshl y g d a b => Sys2Proof.Machine.execSshl y g d a b s
  | .sshr y g d a b => Sys2Proof.Machine.execSshr y g d a b s
  | .ssetp y g q c a b => Sys2Proof.Machine.execSsetp y g q c a b s
  | .smov y g d a => Sys2Proof.Machine.execSmov y g d a s
  | .smovB64 y g d a => Sys2Proof.Machine.execSmovB64 y g d a s
  | .saddi y g d i_ => Sys2Proof.Machine.execSaddi y g d i_ s
  | .bra y g o => Sys2Proof.Machine.execBra y g o s
  | .call y g o => Sys2Proof.Machine.execCall y g o s
  | .ld y g d a b n x => Sys2Proof.Machine.execLd y g d a b n x s
  | .st y g d a b n => Sys2Proof.Machine.execSt y g d a b n s
  | .atom y g d a o r s_ z => Sys2Proof.Machine.execAtom y g d a o r s_ z s
  | .atomc y g d a n s_ z => Sys2Proof.Machine.execAtomc y g d a n s_ z s
  | .lda y g d a b n x => Sys2Proof.Machine.execLda y g d a b n x s
  | .sta y g d a b n => Sys2Proof.Machine.execSta y g d a b n s
  | .ldc y g d a b n x => Sys2Proof.Machine.execLdc y g d a b n x s
  | .stc y g d a b n => Sys2Proof.Machine.execStc y g d a b n s
  | .ldm y g d a b c => Sys2Proof.Machine.execLdm y g d a b c s
  | .stm y g d a b c => Sys2Proof.Machine.execStm y g d a b c s
  | .sld y g d b i_ z => Sys2Proof.Machine.execSld y g d b i_ z s
  | .sst y g d b i_ z => Sys2Proof.Machine.execSst y g d b i_ z s
  | .mma y g a s_ c n k => Sys2Proof.Machine.execMma y g a s_ c n k s
  | .mmaAs y g a s_ c n k => Sys2Proof.Machine.execMmaAs y g a s_ c n k s
  | .ldstn y g s_ p => Sys2Proof.Machine.execLdstn y g s_ p s
  | .wash y g c d s_ => Sys2Proof.Machine.execWash y g c d s_ s
  | .raysend y g a s_ o c f => Sys2Proof.Machine.execRaysend y g a s_ o c f s
  | .dray y d e c p k => Sys2Proof.Machine.execDray y d e c p k s
  | .gath y g d c p => Sys2Proof.Machine.execGath y g d c p s
  | .himm i_ => Sys2Proof.Machine.execHimm i_ s
  | .hx r p z s_ h c w => Sys2Proof.Machine.execHx r p z s_ h c w s
  | .hfwd k s_ => Sys2Proof.Machine.execHfwd k s_ s
  | .nop y g => Sys2Proof.Machine.execNop y g s
  | .exit y g => Sys2Proof.Machine.execExit y g s
  | .ret y g a => Sys2Proof.Machine.execRet y g a s
  | .brx y g a => Sys2Proof.Machine.execBrx y g a s
  | .callx y g a d => Sys2Proof.Machine.execCallx y g a d s
  | .setj y o => Sys2Proof.Machine.execSetj y o s
  | .regang y => Sys2Proof.Machine.execRegang y s
  | .lpad y l => Sys2Proof.Machine.execLpad y l s
  | .trap y g c => Sys2Proof.Machine.execTrap y g c s
  | .trapret y m => Sys2Proof.Machine.execTrapret y m s
  | .sleep y g p q => Sys2Proof.Machine.execSleep y g p q s
  | .fence y q s_ o => Sys2Proof.Machine.execFence y q s_ o s
  | .fencer y p s_ o => Sys2Proof.Machine.execFencer y p s_ o s
  | .vfence y p q => Sys2Proof.Machine.execVfence y p q s
  | .oprdy y => Sys2Proof.Machine.execOprdy y s
  | .mwait y n => Sys2Proof.Machine.execMwait y n s
  | .binit y g p s_ c => Sys2Proof.Machine.execBinit y g p s_ c s
  | .bexp y g p s_ b => Sys2Proof.Machine.execBexp y g p s_ b s
  | .barr y g p s_ => Sys2Proof.Machine.execBarr y g p s_ s
  | .bwait y g p s_ h => Sys2Proof.Machine.execBwait y g p s_ h s
  | .bar y => Sys2Proof.Machine.execBar y s
  | .cad y l => Sys2Proof.Machine.execCad y l s
  | .waitph y n q => Sys2Proof.Machine.execWaitph y n q s
  | .rdptr y g d c => Sys2Proof.Machine.execRdptr y g d c s
  | .tpf y g n => Sys2Proof.Machine.execTpf y g n s
  | .tpfBind y g n b s_ => Sys2Proof.Machine.execTpfBind y g n b s_ s
  | .install y g d => Sys2Proof.Machine.execInstall y g d s
  | .ckpt y g d f => Sys2Proof.Machine.execCkpt y g d f s
  | .cpoll y g p b q => Sys2Proof.Machine.execCpoll y g p b q s
  | .amsg y g a o s_ => Sys2Proof.Machine.execAmsg y g a o s_ s
  | .pub y g n s_ => Sys2Proof.Machine.execPub y g n s_ s
  | .item y g d t => Sys2Proof.Machine.execItem y g d t s
  | .cback y g b c => Sys2Proof.Machine.execCback y g b c s
  | .aspub y g p q => Sys2Proof.Machine.execAspub y g p q s
  | .vqry y g p b q => Sys2Proof.Machine.execVqry y g p b q s
  | .vqrySt y g b q => Sys2Proof.Machine.execVqrySt y g b q s
  | .setfmt y g a => Sys2Proof.Machine.execSetfmt y g a s
  | .setspare y g a => Sys2Proof.Machine.execSetspare y g a s
  | .setwb y g w => Sys2Proof.Machine.execSetwb y g w s
  | .setwbReg y g a => Sys2Proof.Machine.execSetwbReg y g a s
  | .plop y g d a b l => Sys2Proof.Machine.execPlop y g d a b l s
  | .sysrd y g d n => Sys2Proof.Machine.execSysrd y g d n s
  | .syswr y g d n => Sys2Proof.Machine.execSyswr y g d n s
  | .launch y g p q => Sys2Proof.Machine.execLaunch y g p q s
  | .clock y g d n => Sys2Proof.Machine.execClock y g d n s
  | .ageLimitReached core => Sys2Proof.Machine.execAgeLimitReached core s
  | .longResultWritten grp sp k => Sys2Proof.Machine.execLongResultWritten grp sp k s
  | .deferredPublication k => Sys2Proof.Machine.execDeferredPublication k s
  | .lateTrap grp sp => Sys2Proof.Machine.execLateTrap grp sp s
  | .faultResolveRetry die v => Sys2Proof.Machine.execFaultResolveRetry die v s
  | .faultResolveFail die v => Sys2Proof.Machine.execFaultResolveFail die v s
  | .pinPromotion atom => Sys2Proof.Machine.execPinPromotion atom s
  | .readCountExpiry team line => Sys2Proof.Machine.execReadCountExpiry team line s
  | .hardwarePrefetch core line toTeam => Sys2Proof.Machine.execHardwarePrefetch core line toTeam s
  | .amsgExecute k => Sys2Proof.Machine.execAmsgExecute k s
  | .vellumFolioFill folio failed => Sys2Proof.Machine.execVellumFolioFill folio failed s
  | .barrierUpdate k => Sys2Proof.Machine.execBarrierUpdate k s
  | .drayChunkDelivery core ch => Sys2Proof.Machine.execDrayChunkDelivery core ch s
  | .peerChunkAck k => Sys2Proof.Machine.execPeerChunkAck k s
  | .stippleElementDelivery core ch => Sys2Proof.Machine.execStippleElementDelivery core ch s
  | .decompressBlock core ch => Sys2Proof.Machine.execDecompressBlock core ch s
  | .ringRecordWrite k => Sys2Proof.Machine.execRingRecordWrite k s
  | .sleepTimeout grp sp => Sys2Proof.Machine.execSleepTimeout grp sp s
  | .fenceCompletion k => Sys2Proof.Machine.execFenceCompletion k s
  | .linkRetrainLimitExpiry port => Sys2Proof.Machine.execLinkRetrainLimitExpiry port s
  | .yokeGrant team => Sys2Proof.Machine.execYokeGrant team s
  | .yokePassComplete team k => Sys2Proof.Machine.execYokePassComplete team k s
  | .stencilPlaneWritten team k => Sys2Proof.Machine.execStencilPlaneWritten team k s
  | .rayMessageArrival k => Sys2Proof.Machine.execRayMessageArrival k s
  | .courserRound stack => Sys2Proof.Machine.execCourserRound stack s
  | .callbackAnswerArrival k => Sys2Proof.Machine.execCallbackAnswerArrival k s
  | .inflightSubtraction k => Sys2Proof.Machine.execInflightSubtraction k s
  | .washRequest k => Sys2Proof.Machine.execWashRequest k s
  | .engJobResume stack v => Sys2Proof.Machine.execEngJobResume stack v s
  | .engJobAbort stack v => Sys2Proof.Machine.execEngJobAbort stack v s
  | .settleIntervalExpiry block => Sys2Proof.Machine.execSettleIntervalExpiry block s
  | .viewBlockRecompute k => Sys2Proof.Machine.execViewBlockRecompute k s
  | .installFolio stack fail1 fail2 => Sys2Proof.Machine.execInstallFolio stack fail1 fail2 s
  | .checkpointBlock stack => Sys2Proof.Machine.execCheckpointBlock stack s
  | .checkpointEntryAck k => Sys2Proof.Machine.execCheckpointEntryAck k s
  | .regRegion die v => Sys2Proof.Machine.execRegRegion die v s
  | .queueHdr die v => Sys2Proof.Machine.execQueueHdr die v s
  | .doorbell q v => Sys2Proof.Machine.execDoorbell q v s
  | .dispatchRound => Sys2Proof.Machine.execDispatchRound s
  | .fitWaitExpiry q => Sys2Proof.Machine.execFitWaitExpiry q s
  | .waitphRelease grp sp => Sys2Proof.Machine.execWaitphRelease grp sp s
  | .preempt die v => Sys2Proof.Machine.execPreempt die v s
  | .preemptionDeadline k => Sys2Proof.Machine.execPreemptionDeadline k s
  | .preemptSaveWrite k => Sys2Proof.Machine.execPreemptSaveWrite k s
  | .restore die v => Sys2Proof.Machine.execRestore die v s
  | .preemptStatusRead die => Sys2Proof.Machine.execPreemptStatusRead die s
  | .partition die v => Sys2Proof.Machine.execPartition die v s
  | .inval die v => Sys2Proof.Machine.execInval die v s
  | .invalidationComplete die => Sys2Proof.Machine.execInvalidationComplete die s
  | .dramRetrain stack => Sys2Proof.Machine.execDramRetrain stack s
  | .rowPrecharge stack bank row => Sys2Proof.Machine.execRowPrecharge stack bank row s
  | .backoffComplete stack bank => Sys2Proof.Machine.execBackoffComplete stack bank s
  | .refreshDue stack bank => Sys2Proof.Machine.execRefreshDue stack bank s
  | .scrubPassStart stack => Sys2Proof.Machine.execScrubPassStart stack s
  | .scrubRowRead stack => Sys2Proof.Machine.execScrubRowRead stack s
  | .eccStatusRead stack => Sys2Proof.Machine.execEccStatusRead stack s
  | .dramEventsRead stack => Sys2Proof.Machine.execDramEventsRead stack s
  | .migrationStart stack v => Sys2Proof.Machine.execMigrationStart stack v s
  | .migrationPass stack => Sys2Proof.Machine.execMigrationPass stack s
  | .migrationEndForwarding stack => Sys2Proof.Machine.execMigrationEndForwarding stack s
  | .asidBind die isSealed v => Sys2Proof.Machine.execAsidBind die isSealed v s
  | .asidUnbind die isSealed v => Sys2Proof.Machine.execAsidUnbind die isSealed v s
  | .biasToHost stack v => Sys2Proof.Machine.execBiasToHost stack v s
  | .biasToDevice stack v => Sys2Proof.Machine.execBiasToDevice stack v s
  | .biasFlipComplete stack => Sys2Proof.Machine.execBiasFlipComplete stack s
  | .hostCxlMemAccess write addr data => Sys2Proof.Machine.execHostCxlMemAccess write addr data s
  | .hostSnoop addr => Sys2Proof.Machine.execHostSnoop addr s
  | .peerRequest peer kind addr data => Sys2Proof.Machine.execPeerRequest peer kind addr data s
  | .linkDown port => Sys2Proof.Machine.execLinkDown port s
  | .linkUp port => Sys2Proof.Machine.execLinkUp port s
  | .deviceStart passed reason unit => Sys2Proof.Machine.execDeviceStart passed reason unit s
  | .warmReset => Sys2Proof.Machine.execWarmReset s
  | .fullRetry passed reason unit => Sys2Proof.Machine.execFullRetry passed reason unit s
  | .spdmSessionOpen => Sys2Proof.Machine.execSpdmSessionOpen s
  | .spdmAttestation => Sys2Proof.Machine.execSpdmAttestation s
  | .colophonReadout die => Sys2Proof.Machine.execColophonReadout die s
  | .powerTelemetry => Sys2Proof.Machine.execPowerTelemetry s
  | .powerWindow watts => Sys2Proof.Machine.execPowerWindow watts s
  | .registerWrite offset viaSession v => Sys2Proof.Machine.execRegisterWrite offset viaSession v s
  | .spdmSessionClose => Sys2Proof.Machine.execSpdmSessionClose s
  | .regionTeardown addr => Sys2Proof.Machine.execRegionTeardown addr s
  | .eraseAndRetireUnit stack freed retired => Sys2Proof.Machine.execEraseAndRetireUnit stack freed retired s
  | .sealedPhysicalRangesSet ranges => Sys2Proof.Machine.execSealedPhysicalRangesSet ranges s

end Sys2Proof.Machine
end

