-- ==== Sys2Proof/Machine/Step.lean ====
section
/-! DEFINITION. Step.lean: one step of the machine: the conditions of waiting launches are looked at (R231), then a split issues
one instruction, or a step of the device or something from outside comes about, or the cycle ends. -/

namespace Sys2Proof.Machine

def step (s : State) : Host.Outcome State Fault Refusal :=
  match choose (beginStep s) with
  | (.issue g sp, s) =>
    match issueOf s g sp with
    | .run i s => exec i s
    | .done s => .next s
  | (.occur i, s) => exec i (beginEvent s)
  | (.outside a, s) => .next (bringAbout a (beginEvent s))
  | (.pass, s) => .next (tick s)

/-- The state whose next step fetches and runs the instruction with these bits. -/
def State.withFetchWord (s : State) (nbits w : Nat) : State := placeWord s (w % 2 ^ nbits)

end Sys2Proof.Machine
end

