-- ==== Sys2Proof/Safety.lean ====
section
/-! DEFINITION. Safety.lean: the terms in which claims are stated: safe runs, what an instruction needs in order to complete,
what it leaves as it was, and the functions of the spec's tables in plain arithmetic. -/

namespace Sys2Proof.Safety

open Sys2Proof.Machine

/-! ## What waits for a page (R203, R259) -/

/-- Something that waits until a page is resolved. -/
inductive Waiter where
  | split (gid sid : Nat)
  | paddock (st : Nat) (p : Paddock)
  | chain (st : Nat)
  | flight (f : Flight)
  | answer (a : Answer)
  | wash (r : WashReq)
  | chan (key : Nat) (c : Channel)
  | ring (r : RingRec)
  | view (i : Nat) (j : ViewJob)
  | block (j : BlockJob)
  | entry (a : CkptAck)
  | cond (q : Queue)
  deriving DecidableEq, Repr

/-- All that waits for a page. -/
def waiters (s : State) (k : PageKey) : List Waiter :=
  (s.sched.groups.flatMap fun g => (g.splits.filter k.waits).map fun p => .split g.id p.id) ++
  ((List.range Config.numStacks).flatMap fun st =>
    ((paddocksOf s st).filter fun p => k.holds p.parked).map (.paddock st) ++
      (if k.holds (chainAt s st).parked then [.chain st] else [])) ++
  (s.render.flying.filter fun f => k.holds f.parked).map .flight ++
  (s.render.answers.filter fun a => k.holds a.parked).map .answer ++
  (s.render.washes.filter fun r => k.holds r.parked).map .wash ++
  (s.copies.chans.filter fun x => k.holds x.2.parked).map (fun x => .chan x.1 x.2) ++
  (s.copies.rings.filter fun r => k.holds r.parked).map .ring ++
  (s.tier.jobs.zipIdx.filter fun x => k.holds x.1.parked).map (fun x => .view x.2 x.1) ++
  (s.tier.blocked.filter fun j => k.holds j.parked).map .block ++
  (s.tier.acks.filter fun a => k.holds a.parked).map .entry ++
  (s.sched.queues.filter fun q => decide (k.die = 0) && q.asid == k.asid && q.condWait.any fun c => c.2 == k.page).map .cond

/-! ## Runs -/

/-- The step answers a next state. -/
def Goes (s : State) : Prop := ∃ t, step s = .next t

/-- n steps answer next states. -/
def SafeFor : Nat → State → Prop
  | 0, _ => True
  | n + 1, s => ∃ t, step s = .next t ∧ SafeFor n t

/-! ## What an instruction needs -/

/-- Split p of group g issues in s, and its pair holds no hint but those the instruction accepts (R306). -/
structure Issues (s : State) (g : Group) (p : Split) (a : Accept) : Prop where
  issuing : curSplit s = some (g, p)
  pair : badHint a p.hints = none

/-- Every vector register named lies in the group's allocation, where a lane is active (R54). -/
def VOk (g : Group) (ls rs : List Nat) : Prop := ls = [] ∨ ∀ r ∈ rs, eff g r < g.vregs

/-- The same of operand b, a vector register or a broadcast scalar (R54, R55). -/
def BOk (g : Group) (ls : List Nat) (b : Src) : Prop :=
  ls = [] ∨ match b with
    | .v n => eff g n.toNat < g.vregs
    | .s n => n.toNat < g.sregs

/-- Every scalar register named is declared (R55). -/
def SOk (g : Group) (rs : List Nat) : Prop := ∀ r ∈ rs, r < g.sregs

/-! ## What is left as it was -/

/-- Outstanding long results but for the note that a destination has been overwritten since (R300). -/
def pendBut (rs : List LongResult) : List LongResult := rs.map fun r => { r with clobbered := [] }

/-- h is g with register e of the lanes ls at f; every other vector register, and all else of the group, is as it was, but for
what is noted of written registers for R130 and R300. -/
structure WroteV (g h : Group) (ls : List Nat) (e : Nat) (f : Nat → Word) : Prop where
  new : ∀ l ∈ ls, getV h l e = f l
  old : ∀ k, (∀ l ∈ ls, k ≠ l * 256 + e) → mget 0 k h.v = mget 0 k g.v
  rest : h = { g with v := h.v, pend := h.pend, touched := h.touched }
  pending : pendBut h.pend = pendBut g.pend

/-- The same for n consecutive registers of each lane. -/
structure WroteRun (g h : Group) (ls : List Nat) (e n : Nat) (f : Nat → Nat → Word) : Prop where
  new : ∀ l ∈ ls, ∀ i < n, getV h l (e + i) = f l i
  old : ∀ k, (∀ l ∈ ls, ∀ i < n, k ≠ l * 256 + e + i) → mget 0 k h.v = mget 0 k g.v
  rest : h = { g with v := h.v, pend := h.pend, touched := h.touched }
  pending : pendBut h.pend = pendBut g.pend

/-- h is g with predicate n of the lanes ls at f, nothing else written; P0 stays 1 (R52). -/
structure WroteP (g h : Group) (ls : List Nat) (n : Nat) (f : Nat → Bool) : Prop where
  new : ∀ l ∈ ls, getP h l n = (n == 0 || f l)
  old : ∀ l k, k < 8 → (l ∉ ls ∨ k ≠ n) → getP h l k = getP g l k
  rest : h = { g with p := h.p }

/-- h is g with index register n of the lanes ls at f (R57). -/
structure WroteX (g h : Group) (ls : List Nat) (n : Nat) (f : Nat → Byte) : Prop where
  new : ∀ l ∈ ls, getX h l n = f l
  old : ∀ l k, k < 4 → (l ∉ ls ∨ k ≠ n) → getX h l k = getX g l k
  rest : h = { g with x := h.x }

/-- h is g with scalar register n at x. -/
structure WroteS (g h : Group) (n : Nat) (x : Word) : Prop where
  new : getS h n = x
  old : ∀ k, k ≠ n → getS h k = getS g k
  rest : h = { g with s := h.s, pend := h.pend }
  pending : pendBut h.pend = pendBut g.pend

/-- h is g with the pair n, n + 1 at x, low word first (R52). -/
structure WroteS64 (g h : Group) (n : Nat) (x : DWord) : Prop where
  new : getS64 h n = x
  old : ∀ k, k ≠ n → k ≠ n + 1 → getS h k = getS g k
  rest : h = { g with s := h.s, pend := h.pend }
  pending : pendBut h.pend = pendBut g.pend

/-- h is g with group predicate n at b; Q0 stays 1 (R52). -/
structure WroteQ (g h : Group) (n : Nat) (b : Bool) : Prop where
  new : getQ h n = (n == 0 || b)
  old : ∀ k, k < 8 → k ≠ n → getQ h k = getQ g k
  rest : h = { g with q := h.q, pend := h.pend }
  pending : pendBut h.pend = pendBut g.pend

/-! ## Functions of the spec's tables, in plain arithmetic -/

/-- Signed minimum and maximum (R365). -/
def sMin (a b : Word) : Word := if a.toInt ≤ b.toInt then a else b
def sMax (a b : Word) : Word := if a.toInt ≤ b.toInt then b else a

/-- Byte j of a word, signed or unsigned (R367). -/
def byteOf (uns : Bool) (a : Word) (j : Nat) : Int :=
  if uns then ((a.toNat / 256 ^ j % 256 : Nat) : Int) else (BitVec.ofNat 8 (a.toNat / 256 ^ j)).toInt

/-- High word of the 64-bit product (R367). -/
def hiProduct (uns : Bool) (a b : Word) : Word :=
  BitVec.ofInt 32 ((if uns then (a.toNat : Int) * b.toNat else a.toInt * b.toInt) / 2 ^ 32)

/-- d plus the sum of the four byte products (R367). -/
def dotProduct (uns : Bool) (a b d : Word) : Word :=
  BitVec.ofInt 32 (d.toInt + byteOf uns a 0 * byteOf uns b 0 + byteOf uns a 1 * byteOf uns b 1 +
    byteOf uns a 2 * byteOf uns b 2 + byteOf uns a 3 * byteOf uns b 3)

/-- The shifts of R392 by n. -/
def shiftLeft (a : Word) (n : Nat) : Word := if 32 ≤ n then 0 else BitVec.ofNat 32 (a.toNat * 2 ^ n)
def shiftRight (a : Word) (n : Nat) : Word := if 32 ≤ n then 0 else BitVec.ofNat 32 (a.toNat / 2 ^ n)
def shiftArith (a : Word) (n : Nat) : Word :=
  if 32 ≤ n then (if a.msb then 0xFFFF_FFFF else 0) else BitVec.ofInt 32 (a.toInt / 2 ^ n)
def rotate (a : Word) (n : Nat) : Word := BitVec.ofNat 32 (a.toNat * 2 ^ n) ||| BitVec.ofNat 32 (a.toNat / 2 ^ (32 - n))

/-- Number of 1 bits, leading zeros, bit reversal and signed absolute value (R338). -/
def oneBits (a : Word) : Word := BitVec.ofNat 32 ((List.range 32).filter fun i => a.getLsbD i).length
def leadZeros (a : Word) : Word := BitVec.ofNat 32 (if a = 0 then 32 else 31 - Nat.log2 a.toNat)
def mirrored (a : Word) : Word := BitVec.ofFnLE fun i : Fin 32 => a.getLsbD (31 - i.val)
def absolute (a : Word) : Word := BitVec.ofInt 32 a.toInt.natAbs

/-- Position, length and sign flag of a bit-field control word (R334). -/
def fieldPos (c : Word) : Nat := c.toNat % 32
def fieldLen (c : Word) : Nat := min (c.toNat / 256 % 64) 32

/-- Bits pos on of a, len of them, then zeros; or, with the sign flag, copies of the top bit of the field, and of a above its
bit 31 (R335). -/
def extractBits (a c : Word) : Word :=
  let bit := fun i : Nat => if 32 ≤ i then c.getLsbD 15 && a.msb else a.getLsbD i
  BitVec.ofFnLE fun i : Fin 32 =>
    if i.val < fieldLen c then bit (fieldPos c + i.val)
    else c.getLsbD 15 && decide (0 < fieldLen c) && bit (fieldPos c + fieldLen c - 1)

/-- The low len bits of a in place of bits pos on of d (R335). -/
def insertBits (a c d : Word) : Word :=
  BitVec.ofFnLE fun i : Fin 32 =>
    if fieldPos c ≤ i.val ∧ i.val < fieldPos c + fieldLen c then a.getLsbD (i.val - fieldPos c) else d.getLsbD i.val

/-- Bit i of the result of PRMT: of byte i / 8, by its selector and mode (R334, R335). -/
def permuteBits (a c d : Word) : Word :=
  let src := fun (sel i : Nat) => if sel < 4 then a.getLsbD (8 * sel + i) else d.getLsbD (8 * (sel - 4) + i)
  BitVec.ofFnLE fun i : Fin 32 =>
    let sel := c.toNat / 8 ^ (i.val / 8) % 8
    match c.toNat / 4096 / 4 ^ (i.val / 8) % 4 with
    | 0 => src sel (i.val % 8)
    | 1 => false
    | 2 => src sel 7
    | _ => true

/-- The instructions that act on a and b in each lane and accept no modifier but HFWD: what d becomes, of a, b and old d. -/
def intTable : List ((Bool → Guard → BitVec 6 → BitVec 6 → Src → Instr) × (Word → Word → Word → Word)) :=
  [(.iadd, fun a b _ => BitVec.ofInt 32 (a.toInt + b.toInt)),
   (.isub, fun a b _ => BitVec.ofInt 32 (a.toInt - b.toInt)),
   (.imin, fun a b _ => sMin a b),
   (.imax, fun a b _ => sMax a b),
   (.imul, fun a b _ => BitVec.ofInt 32 (a.toInt * b.toInt)),
   (.imad, fun a b d => BitVec.ofInt 32 (a.toInt * b.toInt + d.toInt)),
   (.and, fun a b _ => a &&& b),
   (.or, fun a b _ => a ||| b),
   (.xor, fun a b _ => a ^^^ b),
   (.andn, fun a b _ => a &&& ~~~ b),
   (.shl, fun a b _ => shiftLeft a (b.toNat % 256)),
   (.shr, fun a b _ => shiftRight a (b.toNat % 256)),
   (.sar, fun a b _ => shiftArith a (b.toNat % 256)),
   (.rotl, fun a b _ => rotate a (b.toNat % 32)),
   (.bfx, fun a c _ => extractBits a c),
   (.bfi, fun a c d => insertBits a c d),
   (.prmt, fun a c d => permuteBits a c d)]

/-- The two that HX.z makes unsigned. -/
def productTable : List ((Bool → Guard → BitVec 6 → BitVec 6 → Src → Instr) × (Bool → Word → Word → Word → Word)) :=
  [(.imulh, fun uns a b _ => hiProduct uns a b), (.idot4, fun uns a b d => dotProduct uns a b d)]

/-- The instructions of one vector operand. -/
def unaryTable : List ((Bool → Guard → BitVec 6 → BitVec 6 → Instr) × (Word → Word)) :=
  [(.popc, oneBits), (.clz, leadZeros), (.brev, mirrored), (.iabs, absolute), (.mov, id)]

/-- How a comparison joins the old predicate (R359). -/
def joined : Comb → Bool → Bool → Bool
  | .set, _, t => t
  | .and, p, t => p && t
  | .or, p, t => p || t
  | .xor, p, t => p != t

/-- Integer conditions (R370): on the bits, on signed values, and on unsigned values. -/
def intCondition {n : Nat} (c : ICond) (a b : BitVec n) : Bool :=
  match c with
  | .eq => decide (a = b)
  | .ne => decide (a ≠ b)
  | .lt => decide (a.toInt < b.toInt)
  | .le => decide (a.toInt ≤ b.toInt)
  | .gt => decide (b.toInt < a.toInt)
  | .ge => decide (b.toInt ≤ a.toInt)
  | .lo => decide (a.toNat < b.toNat)
  | .hs => decide (b.toNat ≤ a.toNat)

/-- When an FP32 comparison is invalid (R359): a signalling NaN, or any NaN under lt, le, gt and ge. -/
def fpInvalid (ftz : Bool) (c : FCond) (a b : Word) : Bool :=
  isSnan .f32 a.toNat || isSnan .f32 b.toNat ||
    (decide (c = .lt ∨ c = .le ∨ c = .gt ∨ c = .ge) && ((in32 ftz a).isNan || (in32 ftz b).isNan))

/-- An immediate: an instruction's own bits, with the bits of up to two HIMM words above them, the first uppermost; signed
(R303). -/
def built {n : Nat} (h : List (BitVec 21)) (own : BitVec n) : Int :=
  match h with
  | [] => own.toInt
  | [x] => (x ++ own).toInt
  | x :: z :: _ => (x ++ z ++ own).toInt

/-- The registers named exist (R52, R54): in the group's allocation, and among V0 to V255. -/
def VIn (g : Group) (ls rs : List Nat) : Prop := ls = [] ∨ ∀ r ∈ rs, eff g r < g.vregs ∧ eff g r < 256

/-- The FP32 instructions: value and flags, of FMT.FTZ, a, b and old d (R354, R356). -/
def floatTable : List ((Bool → Guard → BitVec 6 → BitVec 6 → Src → Instr) × (Bool → Word → Word → Word → Word × FpFlags)) :=
  [(.fadd, fun z a b _ => withInvalid [a, b] (out32 z ((in32 z a).add (in32 z b)))),
   (.fmul, fun z a b _ => withInvalid [a, b] (out32 z ((in32 z a).mul (in32 z b)))),
   (.fmin, fun z a b _ => fminmax32 z false a b),
   (.fmax, fun z a b _ => fminmax32 z true a b),
   (.ffma, fun z a b d => fma32 z false false a b d),
   (.ffnma, fun z a b d => fma32 z true false a b d),
   (.ffms, fun z a b d => fma32 z false true a b d)]

/-- The packed instructions: value and flags, of saturation, a, b and old d (R83, R336). -/
def packedTable : List ((Bool → Guard → BitVec 6 → BitVec 6 → Src → Instr) × (Bool → Word → Word → Word → Word × FpFlags)) :=
  [(.hfma2, packFma .f16), (.bfma2, packFma .bf16), (.hadd2, packAdd .f16), (.hmul2, packMul .f16)]

/-- Saturation is asked for by HX.sat or FMT.SAT (R74). -/
def saturates (p : Split) : Bool := (hxOf p).sat || p.fmt.getLsbD 13

/-- The reduction of R389 over the values of the active lanes. -/
def reduction (m : ReduxOp) (vs : List Word) : Word :=
  match m with
  | .add => vs.foldl (· + ·) 0
  | .min => vs.foldl sMin (vs.headD 0)
  | .max => vs.foldl sMax (vs.headD 0)
  | .or => vs.foldl (· ||| ·) 0

/-- Source lane of SHFL, as an integer (R399). -/
def shuffleFrom (m : ShflMode) (l : Nat) (y : Word) : Int :=
  match m with
  | .idx => y.toNat
  | .up => (l : Int) - y.toNat
  | .down => l + y.toNat
  | .xor => ((l ^^^ y.toNat : Nat) : Int)

/-- The outstanding long result of an instruction that knows its value at issue (R300). -/
def knownResult (p : Split) (ls : List Nat) (v : List (Nat × Word)) (sr : List (Nat × Word)) : LongResult :=
  { kind := .value, pc := startPc p, owner := ownLanes p, lanes := laneBits ls, v := v, s := sr }

/-- The scalar instructions of R393, on words or on pairs of 64 bits. -/
def scalarTable : List ((Bool → Guard → BitVec 7 → BitVec 7 → BitVec 7 → Instr) × ((n : Nat) → BitVec n → BitVec n → BitVec n)) :=
  [(.sadd, fun n a b => BitVec.ofNat n (a.toNat + b.toNat)),
   (.ssub, fun n a b => BitVec.ofInt n (a.toInt - b.toInt)),
   (.smul, fun n a b => BitVec.ofNat n (a.toNat * b.toNat)),
   (.sand, fun _ a b => a &&& b),
   (.sor, fun _ a b => a ||| b),
   (.sxor, fun _ a b => a ^^^ b),
   (.sshl, fun n a b => if n ≤ b.toNat % 256 then 0 else BitVec.ofNat n (a.toNat * 2 ^ (b.toNat % 256))),
   (.sshr, fun n a b => if n ≤ b.toNat % 256 then 0 else BitVec.ofNat n (a.toNat / 2 ^ (b.toNat % 256)))]

/-- The Q-class instructions of the arithmetic and system families, with what their pairs accept. -/
def guardedForms (y : Bool) (gd : Guard) (d a b : BitVec 7) (q : BitVec 3) (c : ICond) (d9 a9 : BitVec 9) (i : BitVec 12)
    (w : BitVec 5) (n : BitVec 6) (ns : Bool) : List (Instr × Accept) :=
  [(.sadd y gd d a b, { w := true }), (.ssub y gd d a b, { w := true }), (.smul y gd d a b, { w := true }),
   (.sand y gd d a b, { w := true }), (.sor y gd d a b, { w := true }), (.sxor y gd d a b, { w := true }),
   (.sshl y gd d a b, { w := true }), (.sshr y gd d a b, { w := true }), (.ssetp y gd q c a b, { w := true }),
   (.smov y gd d9 a9, {}), (.smovB64 y gd d9 a9, {}), (.saddi y gd d9 i, { w := true, imms := 2 }),
   (.setfmt y gd a, {}), (.setspare y gd a, {}), (.setwb y gd w, {}), (.setwbReg y gd a, {}), (.sysrd y gd d n, {}),
   (.syswr y gd d n, {}), (.clock y gd n ns, {})]

/-- A value FMT may hold: no reserved bit or code (R59). -/
def fmtValid (w : Word) : Prop :=
  w.toNat < 2 ^ 17 ∧ w.toNat / 1024 % 4 ≠ 3 ∧ w.toNat / 256 % 4 ≠ 3 ∧ w.toNat / 16 % 16 < 10 ∧ w.toNat % 16 < 10

/-- What SYSRD reads (R62 to R64); a register of which nothing is read gives 0. -/
def systemValue (s : State) (g : Group) (p : Split) : Nat → DWord
  | 0x00 => BitVec.ofNat 64 g.core
  | 0x01 => BitVec.ofNat 64 (g.core / 4)
  | 0x02 => BitVec.ofNat 64 (g.core / 96)
  | 0x03 => BitVec.ofNat 64 g.index
  | 0x04 => BitVec.ofNat 64 g.wg
  | 0x05 => BitVec.ofNat 64 g.launch
  | 0x06 => if (launchOf s g.launch).desc.kmax = 0 then 0 else BitVec.ofNat 64 g.itemBase.toNat
  | 0x10 => (wgOf s g.launch g.wg).trapBase
  | 0x11 => BitVec.ofNat 64 p.flt.cause.toNat
  | 0x12 => p.flt.pc
  | 0x13 => p.flt.addr
  | 0x14 => BitVec.ofNat 64 p.flt.lanes.toNat
  | 0x15 => BitVec.ofNat 64 (p.flt.lanes.toNat / 2 ^ 64)
  | 0x16 => BitVec.ofNat 64 p.flt.progress.toNat
  | 0x17 => p.flt.info
  | 0x20 => BitVec.ofNat 64 (coreSt s g.core).ageLimit
  | 0x21 => if (wgOf s g.launch g.wg).isSealed then 1 else 0
  | _ => 0

/-- What an instruction with a word, that is no hint, accepts before it (R303 to R305). -/
def takes (i : Instr) : Option Accept :=
  match i with
  | .himm _ | .hx _ _ _ _ _ _ _ | .hfwd _ _ => none
  | .iadd _ _ _ _ b | .isub _ _ _ _ b | .imin _ _ _ _ b | .imax _ _ _ _ b | .imul _ _ _ _ b | .imad _ _ _ _ b
  | .and _ _ _ _ b | .or _ _ _ _ b | .xor _ _ _ _ b | .andn _ _ _ _ b | .shl _ _ _ _ b | .shr _ _ _ _ b
  | .sar _ _ _ _ b | .rotl _ _ _ _ b | .bfx _ _ _ _ b | .bfi _ _ _ _ b | .prmt _ _ _ _ b | .sel _ _ _ _ b _
  | .isetp _ _ _ _ _ b _ | .fsetp _ _ _ _ _ b _ | .fadd _ _ _ _ b | .fmul _ _ _ _ b | .fmin _ _ _ _ b
  | .fmax _ _ _ _ b | .ffma _ _ _ _ b | .ffnma _ _ _ _ b | .ffms _ _ _ _ b => some { fwd := b == .v 0 }
  | .imulh _ _ _ _ b | .idot4 _ _ _ _ b => some { fwd := b == .v 0, z := true }
  | .hfma2 _ _ _ _ b | .bfma2 _ _ _ _ b | .hadd2 _ _ _ _ b | .hmul2 _ _ _ _ b => some { fwd := b == .v 0, sat := true }
  | .iaddi _ _ _ _ k | .movi _ _ _ k => some { fwd := k == 0, imms := 2 }
  | .vmovx _ _ _ _ _ | .vmovxToX _ _ _ _ _ | .vmovxFromX _ _ _ _ | .vstx _ _ _ _ _ | .vstxAdd _ _ _ _ => some { imms := 2 }
  | .cvt _ _ _ _ src dst _ => some { z := src == .s8, sat := dst != .s32 && dst != .u32 }
  | .had _ _ _ _ => some { had := true }
  | .sadd _ _ _ _ _ | .ssub _ _ _ _ _ | .smul _ _ _ _ _ | .sand _ _ _ _ _ | .sor _ _ _ _ _ | .sxor _ _ _ _ _
  | .sshl _ _ _ _ _ | .sshr _ _ _ _ _ | .ssetp _ _ _ _ _ _ => some { w := true }
  | .saddi _ _ _ _ => some { w := true, imms := 2 }
  | .ld _ _ _ _ _ _ _ | .ldm _ _ _ _ _ _ | .sld _ _ _ _ _ _ => some { rc := true, pol := true, imms := 2 }
  | .st _ _ _ _ _ _ | .stm _ _ _ _ _ _ | .sst _ _ _ _ _ _ => some { pol := true, imms := 2 }
  | .lda _ _ _ _ _ _ _ | .ldc _ _ _ _ _ _ _ | .sta _ _ _ _ _ _ | .stc _ _ _ _ _ _ => some { imms := 2 }
  | .brx _ _ _ | .callx _ _ _ _ => some { imms := 1 }
  | .mma _ _ _ _ _ _ _ | .mmaAs _ _ _ _ _ _ _ => some { z := true, sat := true, had := true }
  | .ldstn _ _ _ _ => some { z := true, had := true }
  | i => if (encode i).isSome then some {} else none

/-! ## Block formats and special functions (R72, R80, R81, R85) -/

/-- Half h of a register, 0 the low one (R83). -/
def halfOf (w : Word) (h : Nat) : Nat := w.toNat / 2 ^ (16 * h) % 2 ^ 16

/-- A register of two halves (R83). -/
def twoHalves (r : Nat → Nat) : Word := BitVec.ofNat 32 (r 0 + 2 ^ 16 * r 1)

/-- Bits lo on of the bit string that k registers of 32 bits hold, w of them (R80). -/
def stringBits (reg : Nat → Nat) (k lo w : Nat) : Nat :=
  ((List.range k).map fun q => reg q * 2 ^ (32 * q)).sum / 2 ^ lo % 2 ^ w

/-- An element of a block under a split's FMT: its code's value times its scale's, or the spare value where the code is E2M1's 8,
FMT.SPARE is set and the scale is no NaN (R72, R79, R80). -/
def blockElement (p : Split) (scale spare code : Nat) : XVal :=
  if fmtSpare p.fmt = true ∧ fmtA p.fmt = .e2m1 ∧ code = 8 ∧ (scaleValue (fmtScale p.fmt) scale).isNan = false then
    decodeNum .bf16 spare
  else (decodeNum (fmtA p.fmt) code).mul (scaleValue (fmtScale p.fmt) scale)

/-- The constant c of a Hadamard transform (R81). -/
def hadamardFactor (h : Nat) : XVal :=
  if h = 16 then .fin ⟨false, 1, -2⟩ else if h = 64 then .fin ⟨false, 1, -3⟩ else ofF32 0x3E35_04F3#32

/-- A number below 128 has an odd number of ones. -/
def oddOnes (n : Nat) : Bool := (List.range 7).countP (fun k => n.testBit k) % 2 == 1

/-- The special results of SFU: function, input, result (R85). -/
def sfuSpecials : List (SfuFn × Word × Word) :=
  let pz := 0#32; let nz := 0x8000_0000#32; let pi := 0x7F80_0000#32; let ni := 0xFF80_0000#32
  let nan := 0x7FC0_0000#32; let one := 0x3F80_0000#32
  [(.rcp, pz, pi), (.rcp, nz, ni), (.rcp, pi, pz), (.rcp, ni, nz),
   (.rsq, pz, pi), (.rsq, nz, ni), (.rsq, pi, pz), (.rsq, ni, nan),
   (.sqrt, pz, pz), (.sqrt, nz, nz), (.sqrt, pi, pi), (.sqrt, ni, nan),
   (.ex2, pz, one), (.ex2, nz, one), (.ex2, pi, pi), (.ex2, ni, pz),
   (.lg2, pz, ni), (.lg2, nz, ni), (.lg2, pi, pi), (.lg2, ni, nan),
   (.sin, pz, pz), (.sin, nz, nz), (.sin, pi, nan), (.sin, ni, nan),
   (.cos, pz, one), (.cos, nz, one), (.cos, pi, nan), (.cos, ni, nan)]

/-! ## Branches (R27, R30, R32) -/

/-- A slice after a branch at which the lanes `pend` of its mask wait at `pc` (R32). -/
def sliceAfter (sl : Slice) (pend : BitVec 4) (pc : DWord) (join : Option DWord) (fmt : Word) : Slice :=
  if pend = 0 then sl
  else if join = some pc then
    { sl with mask := sl.mask &&& ~~~ pend,
              stack := if sl.stack.head?.map (·.join) = some join then sl.stack else ⟨sl.mask, 0, pc, join, fmt⟩ :: sl.stack }
  else { sl with mask := sl.mask &&& ~~~ pend, stack := ⟨sl.mask, pend, pc, join, fmt⟩ :: sl.stack }

/-- No slice of the split comes near the depth at which entries spill (R34). -/
def Shallow (g : Group) (p : Split) : Prop := ∀ j ∈ p.slices, (sliceAt g j).stack.length + (sliceAt g j).spilled < 8

/-- Lanes of slice j that its mask enables. -/
def lanesHere (g : Group) (j : Nat) : List Nat := sliceLanes j (sliceAt g j).mask

/-- Where slice j goes on: at the target of its lowest active lane, or past the branch where it has none (R32). -/
def sliceNext (g : Group) (ls : List Nat) (target : Nat → DWord) (fall : DWord) (j : Nat) : DWord :=
  match (lanesHere g j).filter fun l => decide (l ∈ ls) with
  | [] => fall
  | l :: _ => target l

/-- Lanes of slice j that wait: none where none is active, else those that do not go where the slice goes on (R32). -/
def sliceWaits (g : Group) (ls : List Nat) (target : Nat → DWord) (fall : DWord) (j : Nat) : BitVec 4 :=
  if ∃ l ∈ lanesHere g j, l ∈ ls then
    sliceMask j ((lanesHere g j).filter fun l => !decide (l ∈ ls ∧ target l = sliceNext g ls target fall j))
  else 0

/-- Group h is group g after split p has branched: each slice goes on where its lanes go, keeping those that wait on its stack,
and the split divides by where its slices go on, under one new fork, or not at all (R27, R32). Slices and splits of others, and
all registers, are as they were. -/
structure Branched (g h : Group) (p : Split) (y : Bool) (ls : List Nat) (target : Nat → DWord) (fall again : DWord)
    (join : Option DWord) : Prop where
  slice : ∀ j, p.slices.count j = 1 →
    sliceAt h j = sliceAfter (sliceAt g j) (sliceWaits g ls target fall j) again join p.fmt
  otherSlice : ∀ j, j ∉ p.slices → sliceAt h j = sliceAt g j
  goes : ∀ j ∈ p.slices, ∃ q ∈ h.splits, j ∈ q.slices ∧ q.pc = sliceNext g ls target fall j ∧ q.fmt = p.fmt ∧
    q.join = none ∧ q.ypark = y ∧ q.hints = {} ∧ q.wait = p.wait
  otherSplit : ∀ q ∈ g.splits, q.id ≠ p.id → q ∈ h.splits
  whole : (∀ j ∈ p.slices, ∀ k ∈ p.slices, sliceNext g ls target fall j = sliceNext g ls target fall k) → h.forks = g.forks
  divided : (∃ j ∈ p.slices, ∃ k ∈ p.slices, sliceNext g ls target fall j ≠ sliceNext g ls target fall k) →
    h.forks = g.forks ++ [⟨g.nextFork, p.slices, join, p.fmt, p.fork⟩] ∧
    ∀ q ∈ h.splits, (∃ j ∈ q.slices, j ∈ p.slices) → q ∉ g.splits → q.fork = some g.nextFork
  rest : h = { g with slices := h.slices, splits := h.splits, forks := h.forks, nextFork := h.nextFork,
                      nextSplit := h.nextSplit }

/-! ## Memory -/

/-- Some place of memory holds b for address a: the home, a line of an L1 or of a team cache, a write-combining buffer, or a write
on its way to a peer. -/
def Holds (ms : MemSys) (a : Nat) (b : Byte) : Prop :=
  mget unlistedByte a ms.mem = b ∨
  (∃ c, (c ∈ ms.cache.l1 ∨ c ∈ ms.cache.team) ∧ c.line = a / 128 ∧ c.bytes[a % 128]? = some b) ∨
  (∃ w ∈ ms.cache.wc, w.2.line = a / 128 ∧ w.2.mask.getLsbD (a % 128) = true ∧ w.2.bytes[a % 128]? = some b) ∨
  (∃ w ∈ ms.cache.peerWrites, w.pa ≤ a ∧ w.bytes[a - w.pa]? = some b)

/-- No page is under forwarding (R278). -/
def NoForwarding (ms : MemSys) : Prop := ∀ m ∈ ms.dram.migs, m.2.status ≠ 3

/-- Every byte of memory is as it was but those at the addresses of `out`: whatever some place holds for an address after, some
place held for it before. -/
def KeepsBytes (u v : MemSys) (out : Nat → Prop) : Prop := ∀ a b, ¬ out a → Holds v a b → Holds u a b

/-- No atom is poisoned, and no stored error is uncorrectable (R108, R269). -/
def NoPoison (ms : MemSys) : Prop := (∀ f ∈ ms.dram.flags, f.2.p = false) ∧ ∀ e ∈ ms.dram.errs, correctable e.2 = true

/-- Address of a lane in the formats of R91: the base pair, the lane's signed offset and the displacement that HIMM built. -/
def laneAddress (g : Group) (p : Split) (a : BitVec 6) (sb : BitVec 5) (l : Nat) : Nat :=
  (getS64 g (2 * sb.toNat) + BitVec.ofInt 64 (aVal g l a).toInt + BitVec.ofInt 64 (match p.hints.himm with
    | [] => 0
    | [x] => x.toInt
    | x :: z :: _ => (x ++ z).toInt)).toNat

/-- Accesses of the active lanes. -/
def laneAccesses (g : Group) (p : Split) (a : BitVec 6) (sb : BitVec 5) (ls : List Nat) : List (Nat × Nat) :=
  ls.map fun l => (l, laneAddress g p a sb l)

/-- What a load or store of lanes needs: the addresses pass the checks, and no watchpoint or fence holds them. -/
structure Reaches (s : State) (g : Group) (acc : Acc) (rd wr : Bool) (n : Nat) (as : List (Nat × Nat))
    (xs : List (Nat × Nat × Attr)) : Prop where
  checked : checkLanes s (whoOf s g) acc false acc.code n n as = .ok xs
  unwatched : watchTrap s g rd wr n as = none
  unfenced : fenceHolds s g (as.map (·.1)) (rangesOf n as) = false

/-- Bytes of a size field (R302). -/
def memBytes : MemSize → Nat
  | .b8 => 1 | .b16 => 2 | .b32 => 4 | .b64 => 8 | .b128 => 16

/-- Vector registers from d on that n bytes fill. -/
def dataRegs (d : BitVec 6) (n : Nat) : List Nat := (List.range ((n + 3) / 4)).map (· + d.toNat)

/-- Word k of n loaded bytes: zero-extended, or sign-extended where fewer than 4 (R374). -/
def loadedWord (n : Nat) (sx : Bool) (x k : Nat) : Word :=
  if n < 4 ∧ sx then BitVec.ofInt 32 (BitVec.ofNat (8 * n) x).toInt else BitVec.ofNat 32 (x / 2 ^ (32 * k))

end Sys2Proof.Safety
end

