-- ==== Sys2Proof/Certificates/Slice0/Obligations.lean ====
section
/-! DEFINITION. Obligations.lean: what is claimed of the model: the encoding, the machine right after reset, the step, the result
and the frame of every instruction, and what comes about of itself. -/

open Sys2Proof Sys2Proof.Machine Sys2Proof.Safety

/-! ## Encoding, reset and the step -/

/-- R297, R301 to R303, R310: words that the spec writes out decode to the instructions they stand for. -/
def Obligations.DecodeWords : Prop :=
  decodeWord 0x0162_0A18 = .ok (.ffma false ⟨false, 0⟩ 4 5 (.v 6)) ∧
  decodeWord 0x0040_851B = .ok (.andn false ⟨false, 0⟩ 1 2 (.s 6)) ∧
  decodeWord 0x0101_05FF = .ok (.iaddi false ⟨false, 0⟩ 2 2 0x1FF) ∧
  decodeWord 0x06A2_0522 = .ok (.dray false 32 10 1 true false) ∧
  decodeWord 0x0480_0010 = .ok (.call false ⟨false, 0⟩ 16) ∧
  decodeWord 0x07E6_6CA8 = .ok (.plop false ⟨false, 0⟩ 3 1 2 8) ∧
  decodeWord 0x0780_0001 = .ok (.himm 1) ∧
  decodeWord 0x87E0_0000 = .ok (.nop true ⟨false, 0⟩)

/-- R297 to R311: encoding and decoding agree on every operand of every instruction with a word: a well-formed instruction's
word decodes to it, and a word that decodes is the one word of its instruction, which is well-formed. -/
def Obligations.DecodeEncodeAgree : Prop :=
  (∀ i w, i.wf = true → encode i = some w → decodeWord w = .ok i) ∧
  ∀ i w, decodeWord w = .ok i → encode i = some w ∧ i.wf = true

/-- R63, R270, R272, R275, R276, R279, R281, R282, R287, R294, R295: the values that the registers have at reset, with no group
resident, nothing registered, bound or pending, and memory in its canonical form. The state of the bias flip (R284) and whatever
else the spec gives no reset value are the choice of log entry 4. -/
def Obligations.ResetState : Prop :=
  (∀ core, (coreSt State.reset core).ageLimit = 256) ∧
  (∀ st c, c = ctlOf State.reset st → c.test = false ∧ c.thresh = 1024 ∧ c.backoffs = 0 ∧ c.drops = 0 ∧ c.scrubEn = true ∧
    c.period = 24 ∧ c.settle = 20 ∧ c.migSize = 0 ∧ c.biasOp = 0 ∧ c.biasStatus = 0 ∧ migStatus (migOf State.reset st) = 0 ∧
    mget {} st State.reset.ms.dram.ecc = ⟨0, 0, 0⟩) ∧
  (∀ die d, d = dieRegs State.reset die → d.part0 = 0 ∧ d.part1 = 0 ∧ d.colophon = [] ∧ d.colSeq = 0) ∧
  State.reset.plat.paletteCtl = 64 ∧ State.reset.plat.powerLimit = 3200 ∧ State.reset.plat.retrainLimit = 200 ∧
  State.reset.plat.linkUp = 0 ∧ State.reset.plat.session = false ∧ State.reset.pre.results = [] ∧
  State.reset.sched.groups = [] ∧ State.reset.sched.queues = [] ∧ State.reset.sched.regions = [] ∧
  State.reset.xlat.binds = [] ∧ Memory.wf State.reset.ms.mem = true

/-- Every step that goes on keeps memory in its canonical form: addresses strictly rising, and none listed at what it reads as
unlisted. Log entry 3 gives the form. -/
def Obligations.MemoryFormKept : Prop :=
  ∀ s t : State, Memory.wf s.ms.mem = true → step s = .next t → Memory.wf t.ms.mem = true

/-- R21, R40, R298, R300, R311: a step in which a split issues fetches the word at its PC and runs the instruction it decodes
to; a word that is no instruction and no hint is the illegal-instruction trap with the word in FLT_INFO, and, by log entry 13, the
split's enabled lanes in FLT_LANES. A step of the device
runs as itself, what comes from outside takes its effect, and a cycle whose picks have issued ends. Log entry 1 gives which comes
next. -/
def Obligations.StepRunsDecoded : Prop :=
  (∀ (s u v v' : State) (gid sid : Nat) (g : Group) (p : Split) (w : Word),
    choose (beginStep s) = (.issue gid sid, u) → v = notePick (beginIssue u gid sid) gid sid → curSplit v = some (g, p) →
    isReady g p = true → (wgOf v g.launch g.wg).stopping = false → hasLate g p = false → joinDue g p = false →
    fetchAt v g (allOf g p) p.pc = .word w v' →
    (∀ i, decodeWord w = .ok i → step s = exec i v') ∧
    (∀ e, decodeWord w = .error e → isHintWord w = false → step s = .next (takeTrap v' g p
      { cause := 0x01, lanes := allOf g p, info := w.setWidth 64 } none))) ∧
  (∀ (s u : State) (i : Instr), choose (beginStep s) = (.occur i, u) → step s = exec i (beginEvent u)) ∧
  (∀ (s u : State) (a : Act), choose (beginStep s) = (.outside a, u) → step s = .next (bringAbout a (beginEvent u))) ∧
  (∀ s u : State, choose (beginStep s) = (.pass, u) → step s = .next (tick u)) ∧
  ∀ (v u : State) (g : Group) (lanes : BitVec 128) (pc : DWord) (l pa : Nat) (a : Attr) (r : List (Nat × Nat × Attr)) (ms : MemSys),
    checkObject v (whoOf v g) lanes .fetch false 4 4 4 pc.toNat = .ok ((l, pa, a) :: r) → u = noteXlate v (whoOf v g) pc.toNat →
    (∀ w, mget? (icacheKey g.core pa) u.ms.cache.icache = some w → fetchAt v g lanes pc = .word w u) ∧
    (mget? (icacheKey g.core pa) u.ms.cache.icache = none → ms = reachHome u.clock.ps (.core g.core) pa 4 u.ms →
      poisonedAtoms ms.dram pa 4 = [] →
      ∃ v', fetchAt v g lanes pc = .word (BitVec.ofNat 32 (leNat (readHome ms pa 4))) v' ∧ v'.ms.mem = ms.mem ∧ v'.sched = u.sched)

/-- A step always goes on, to a next state, where no instruction with a word stands on the agenda as a step of the device: no
data of a program, and no event, stops the machine. Log entry 1 gives the agenda. -/
def Obligations.StepAlwaysGoes : Prop :=
  ∀ s : State, (∀ i, Act.occur i ∈ s.agenda → encode i = none) → Goes s

/-! ## Vector instructions -/

/-- R325, R334, R335, R365, R367, R392: the lane-wise integer and bitwise instructions that take no modifier. Each writes d of
the active lanes with its function of a, b and old d, sets no flag, and leaves everything else, all of memory too. PRMT follows
R335's pseudocode where its last table row differs (log entry 32). R367: IMULH
and IDOT4, signed, or unsigned under HX.z. R335, R338: POPC, CLZ, BREV, IABS and MOV accept no hint but one that changes
nothing. R366, R382, R303: IADDI and MOVI with their own 9 bits, or with up to two HIMM words before them, sign-extended. -/
def Obligations.LaneIntegerResults : Prop :=
  (∀ op ∈ intTable, ∀ (s : State) (g : Group) (p : Split) (y : Bool) (gd : Guard) (d a : BitVec 6) (b : Src),
    Issues s g p { fwd := b == .v 0 } → p.hints.hfwd = none →
    VOk g (active g p gd) [a.toNat, d.toNat] → BOk g (active g p gd) b →
    ∃ h, exec (op.1 y gd d a b) s = .next (finish s h p y) ∧
      WroteV g h (active g p gd) (eff g d.toNat) fun l => op.2 (aVal g l a) (bVal g l b) (aVal g l d)) ∧
  (∀ op ∈ productTable, ∀ (s : State) (g : Group) (p : Split) (y : Bool) (gd : Guard) (d a : BitVec 6) (b : Src),
    Issues s g p { fwd := b == .v 0, z := true } → p.hints.hfwd = none →
    VOk g (active g p gd) [a.toNat, d.toNat] → BOk g (active g p gd) b →
    ∃ h, exec (op.1 y gd d a b) s = .next (finish s h p y) ∧
      WroteV g h (active g p gd) (eff g d.toNat) fun l => op.2 (hxOf p).z (aVal g l a) (bVal g l b) (aVal g l d)) ∧
  (∀ op ∈ unaryTable, ∀ (s : State) (g : Group) (p : Split) (y : Bool) (gd : Guard) (d a : BitVec 6),
    Issues s g p {} → VOk g (active g p gd) [a.toNat, d.toNat] →
    ∃ h, exec (op.1 y gd d a) s = .next (finish s h p y) ∧
      WroteV g h (active g p gd) (eff g d.toNat) fun l => op.2 (aVal g l a)) ∧
  (∀ (s : State) (g : Group) (p : Split) (y : Bool) (gd : Guard) (d a : BitVec 6) (i : BitVec 9),
    Issues s g p { fwd := i == 0, imms := 2 } → p.hints.hfwd = none →
    (VOk g (active g p gd) [a.toNat, d.toNat] →
      ∃ h, exec (.iaddi y gd d a i) s = .next (finish s h p y) ∧
        WroteV g h (active g p gd) (eff g d.toNat) fun l => aVal g l a + BitVec.ofInt 32 (built p.hints.himm i)) ∧
    (VOk g (active g p gd) [d.toNat] →
      ∃ h, exec (.movi y gd d i) s = .next (finish s h p y) ∧
        WroteV g h (active g p gd) (eff g d.toNat) fun _ => BitVec.ofInt 32 (built p.hints.himm i)))

/-- R395: SEL takes a where the predicate holds, and b elsewhere. R359, R370, R52: ISETP and FSETP write Pd of the active lanes
with the old value joined to the condition; P0 stays 1. ISETP sets no flag; FSETP adds its invalid flags to the launch. R385:
PLOP looks its two predicates up in a table of four bits; R371: ITEM gives the item index, or the linear index of the lane in a
launch that is not chained, and under .st the chain status. -/
def Obligations.LanePredicateResults : Prop :=
  (∀ (s : State) (g : Group) (p : Split) (y : Bool) (gd : Guard) (d a : BitVec 6) (b : Src) (k : BitVec 2),
    Issues s g p { fwd := b == .v 0 } → p.hints.hfwd = none →
    VOk g (active g p gd) [a.toNat, d.toNat] → BOk g (active g p gd) b →
    ∃ h, exec (.sel y gd d a b k) s = .next (finish s h p y) ∧
      WroteV g h (active g p gd) (eff g d.toNat) fun l =>
        if getP g l (k.toNat + 1) then aVal g l a else bVal g l b) ∧
  (∀ (s : State) (g : Group) (p : Split) (y : Bool) (gd : Guard) (pd : BitVec 3) (a : BitVec 6) (b : Src) (m : Comb),
    Issues s g p { fwd := b == .v 0 } → p.hints.hfwd = none →
    VOk g (active g p gd) [a.toNat] → BOk g (active g p gd) b →
    (∀ c : ICond, ∃ h, exec (.isetp y gd pd c a b m) s = .next (finish s h p y) ∧
      WroteP g h (active g p gd) pd.toNat fun l =>
        joined m (getP g l pd.toNat) (intCondition c (aVal g l a) (bVal g l b))) ∧
    (∀ c : FCond, ∃ h, exec (.fsetp y gd pd c a b m) s =
        .next (finish (noteFlags s g.launch (laneFlags (active g p gd) fun l =>
          { invalid := fpInvalid (fmtFtz p.fmt) c (aVal g l a) (bVal g l b) })) h p y) ∧
      WroteP g h (active g p gd) pd.toNat fun l =>
        joined m (getP g l pd.toNat) (fcondX c (in32 (fmtFtz p.fmt) (aVal g l a)) (in32 (fmtFtz p.fmt) (bVal g l b))))) ∧
  (∀ (s : State) (g : Group) (p : Split) (y : Bool) (gd : Guard), Issues s g p {} →
    (∀ (d a b : BitVec 3) (lut : BitVec 4), ∃ h, exec (.plop y gd d a b lut) s = .next (finish s h p y) ∧
      WroteP g h (active g p gd) d.toNat fun l =>
        lut.getLsbD ((if getP g l a.toNat then 2 else 0) + if getP g l b.toNat then 1 else 0)) ∧
    (∀ d : BitVec 6, VOk g (active g p gd) [d.toNat] →
      (∃ h, exec (.item y gd d false) s = .next (finish s h p y) ∧
        WroteV g h (active g p gd) (eff g d.toNat) fun l =>
          if (launchOf s g.launch).desc.kmax = 0 then
            BitVec.ofNat 32 ((g.wg * (launchOf s g.launch).desc.groups + g.index) * g.width + l)
          else g.itemBase + BitVec.ofNat 32 l) ∧
      (∃ h, exec (.item y gd d true) s = .next (finish s h p y) ∧
        WroteV g h (active g p gd) (eff g d.toNat) fun l => chainStatus (launchOf s g.launch).desc g l)))

/-- R299, R301, R54, R312: a lane-wise instruction that names a register outside the group's allocation, with a lane active,
takes the register-range trap, and writes nothing. R244: FLT_INFO names the lowest effective vector register that fails, of a, d
and, unless the pair forwards it, b; where b alone fails and is a broadcast scalar, that scalar, with bit 9 set. R57, R244: an
index outside the allocation in some active lanes is the index-bound trap, of exactly those lanes. -/
def Obligations.LaneRegisterTraps : Prop :=
  (∀ mk ∈ intTable.map (·.1) ++ floatTable.map (·.1), ∀ (s : State) (g : Group) (p : Split) (y : Bool) (gd : Guard)
    (d a : BitVec 6) (b : Src) (rs : List Nat), Issues s g p { fwd := b == .v 0 } → active g p gd ≠ [] →
    rs = [a.toNat, d.toNat] ++ (match p.hints.hfwd, b with | none, .v n => [n.toNat] | _, _ => []) →
    (∀ r ∈ rs, g.vregs ≤ eff g r → (∀ q ∈ rs, g.vregs ≤ eff g q → eff g r ≤ eff g q) →
      exec (mk y gd d a b) s = .next (takeTrap s g p
        { cause := 0x03, lanes := laneBits (active g p gd), info := BitVec.ofNat 64 (eff g r % 512) } none)) ∧
    (∀ n : BitVec 6, b = .s n → p.hints.hfwd = none → (∀ r ∈ rs, eff g r < g.vregs) → g.sregs ≤ n.toNat →
      exec (mk y gd d a b) s = .next (takeTrap s g p
        { cause := 0x03, lanes := laneBits (active g p gd), info := BitVec.ofNat 64 (n.toNat + 512) } none))) ∧
  (∀ (s : State) (g : Group) (p : Split) (y : Bool) (gd : Guard) (d : BitVec 6) (x : XReg) (i : BitVec 9) (n : Nat)
    (e : Nat → Int) (bad : List Nat), Issues s g p { imms := 2 } → n = (match x with | .x1 => 1 | .x2 => 2 | .x3 => 3) →
    (∀ l, e l = (getX g l n).toNat + built p.hints.himm i + g.wb.toNat) → VOk g (active g p gd) [d.toNat] →
    bad = (active g p gd).filter (fun l => decide (e l < 0 ∨ g.vregs ≤ e l)) → bad ≠ [] →
    ∃ t : Trap, t.cause = 0x04 ∧ t.lanes = laneBits bad ∧
      exec (.vmovx y gd d x i) s = .next (takeTrap s g p t none) ∧
      exec (.vstx y gd d x i) s = .next (takeTrap s g p t none))

/-- R46, R47, R131, R305: under HFWD the lane-wise instructions that take a data operand b, and IADDI and MOVI in place of their
immediate, take the forwarded word where every active lane has its source: the launch's default for an item below the distance,
else the slot published by the item that far before. The read acquires. The integer forms, with IMULH and IDOT4, SEL, ISETP and
FSETP, the FP32 and the packed forms. PRMT is log entry 32's; that b's register is then not range-checked is log entry 48's. -/
def Obligations.ForwardedOperandResults : Prop :=
  ∀ (s w : State) (g u : Group) (p : Split) (y : Bool) (gd : Guard) (d a : BitVec 6) (k : BitVec 4) (slot : BitVec 2)
    (f : Nat → Word) (ls : List Nat), ls = active g p gd → p.hints.hfwd = some (k, slot) → p.slices ≠ [] →
    (ls ≠ [] → k.toNat + 1 ≤ (launchOf s g.launch).desc.kmax ∧ slot.toNat < (launchOf s g.launch).desc.slots) →
    (∀ l ∈ ls, (fwdValue s g (k.toNat + 1) slot.toNat l).map (·.1) = some (f l)) →
    w = acquireFrom s g (ls.flatMap fun l => (fwdValue s g (k.toNat + 1) slot.toNat l).elim [] (·.2)) →
    u = (if ls = [] then g else acquireWindow g) →
    (VOk g ls [a.toNat, d.toNat] →
      (∀ op ∈ intTable, Issues s g p { fwd := true } →
        ∃ h, exec (op.1 y gd d a (.v 0)) s = .next (finish w h p y) ∧
          WroteV u h ls (eff g d.toNat) fun l => op.2 (aVal g l a) (f l) (aVal g l d)) ∧
      (∀ op ∈ productTable, Issues s g p { fwd := true, z := true } →
        ∃ h, exec (op.1 y gd d a (.v 0)) s = .next (finish w h p y) ∧
          WroteV u h ls (eff g d.toNat) fun l => op.2 (hxOf p).z (aVal g l a) (f l) (aVal g l d)) ∧
      (∀ op ∈ floatTable, Issues s g p { fwd := true } →
        ∃ h, exec (op.1 y gd d a (.v 0)) s = .next (finish (noteFlags w g.launch (laneFlags ls fun l =>
            (op.2 (p.fmt.getLsbD 12) (aVal g l a) (f l) (aVal g l d)).2)) h p y) ∧
          WroteV u h ls (eff g d.toNat) fun l => (op.2 (p.fmt.getLsbD 12) (aVal g l a) (f l) (aVal g l d)).1) ∧
      (∀ op ∈ packedTable, Issues s g p { fwd := true, sat := true } →
        ∃ h, exec (op.1 y gd d a (.v 0)) s = .next (finish (noteFlags w g.launch (laneFlags ls fun l =>
            (op.2 (saturates p) (aVal g l a) (f l) (aVal g l d)).2)) h p y) ∧
          WroteV u h ls (eff g d.toNat) fun l => (op.2 (saturates p) (aVal g l a) (f l) (aVal g l d)).1) ∧
      (∀ c : BitVec 2, Issues s g p { fwd := true } →
        ∃ h, exec (.sel y gd d a (.v 0) c) s = .next (finish w h p y) ∧
          WroteV u h ls (eff g d.toNat) fun l => if getP g l (c.toNat + 1) then aVal g l a else f l) ∧
      (Issues s g p { fwd := true, imms := 2 } →
        ∃ h, exec (.iaddi y gd d a 0) s = .next (finish w h p y) ∧
          WroteV u h ls (eff g d.toNat) fun l => aVal g l a + f l)) ∧
    (VOk g ls [d.toNat] → Issues s g p { fwd := true, imms := 2 } →
      ∃ h, exec (.movi y gd d 0) s = .next (finish w h p y) ∧ WroteV u h ls (eff g d.toNat) fun l => f l) ∧
    (VOk g ls [a.toNat] → Issues s g p { fwd := true } → ∀ (pd : BitVec 3) (m : Comb),
      (∀ c : ICond, ∃ h, exec (.isetp y gd pd c a (.v 0) m) s = .next (finish w h p y) ∧
        WroteP u h ls pd.toNat fun l => joined m (getP g l pd.toNat) (intCondition c (aVal g l a) (f l))) ∧
      (∀ c : FCond, ∃ h, exec (.fsetp y gd pd c a (.v 0) m) s = .next (finish (noteFlags w g.launch (laneFlags ls fun l =>
          { invalid := fpInvalid (fmtFtz p.fmt) c (aVal g l a) (f l) })) h p y) ∧
        WroteP u h ls pd.toNat fun l =>
          joined m (getP g l pd.toNat) (fcondX c (in32 (fmtFtz p.fmt) (aVal g l a)) (in32 (fmtFtz p.fmt) (f l)))))

/-- R82, R88, R354, R356: the FP32 instructions write d of the active lanes with their value, and add the flags of the active
lanes to the launch's sticky flags; nothing else changes. R74, R83, R88, R336: the packed instructions, saturating under HX.sat
or FMT.SAT. R76, R82, R347, R348, R357: CVT and FRND. CVT accepts HX.z of S8 and HX.sat of a float destination. R83, R336: each
half of a packed result is a.h × b.h + d.h, a.h + b.h or a.h × b.h, rounded once. R76, R348: CVT to another float format is the
rounded value; to S32 or U32 the rounded integer held to the bounds, which is invalid where it had to be held, and of a NaN 0,
invalid. -/
def Obligations.LaneFloatResults : Prop :=
  (∀ op ∈ floatTable, ∀ (s : State) (g : Group) (p : Split) (y : Bool) (gd : Guard) (d a : BitVec 6) (b : Src),
    Issues s g p { fwd := b == .v 0 } → p.hints.hfwd = none →
    VOk g (active g p gd) [a.toNat, d.toNat] → BOk g (active g p gd) b →
    ∃ h, exec (op.1 y gd d a b) s = .next (finish (noteFlags s g.launch (laneFlags (active g p gd) fun l =>
        (op.2 (p.fmt.getLsbD 12) (aVal g l a) (bVal g l b) (aVal g l d)).2)) h p y) ∧
      WroteV g h (active g p gd) (eff g d.toNat) fun l =>
        (op.2 (p.fmt.getLsbD 12) (aVal g l a) (bVal g l b) (aVal g l d)).1) ∧
  (∀ op ∈ packedTable, ∀ (s : State) (g : Group) (p : Split) (y : Bool) (gd : Guard) (d a : BitVec 6) (b : Src),
    Issues s g p { fwd := b == .v 0, sat := true } → p.hints.hfwd = none →
    VOk g (active g p gd) [a.toNat, d.toNat] → BOk g (active g p gd) b →
    ∃ h, exec (op.1 y gd d a b) s = .next (finish (noteFlags s g.launch (laneFlags (active g p gd) fun l =>
        (op.2 (saturates p) (aVal g l a) (bVal g l b) (aVal g l d)).2)) h p y) ∧
      WroteV g h (active g p gd) (eff g d.toNat) fun l =>
        (op.2 (saturates p) (aVal g l a) (bVal g l b) (aVal g l d)).1) ∧
  (∀ (s : State) (g : Group) (p : Split) (y : Bool) (gd : Guard) (d a : BitVec 6) (r : Rnd),
    VOk g (active g p gd) [a.toNat, d.toNat] →
    (∀ (src : CvtSrc) (dst : CvtDst), Issues s g p { z := src == .s8, sat := dst != .s32 && dst != .u32 } →
      ∃ h, exec (.cvt y gd d a src dst r) s = .next (finish (noteFlags s g.launch (laneFlags (active g p gd) fun l =>
          (cvtWord (p.fmt.getLsbD 12) (hxOf p).z (saturates p) src dst (modeOf r) (aVal g l a)).2)) h p y) ∧
        WroteV g h (active g p gd) (eff g d.toNat) fun l =>
          (cvtWord (p.fmt.getLsbD 12) (hxOf p).z (saturates p) src dst (modeOf r) (aVal g l a)).1) ∧
    (Issues s g p {} →
      ∃ h, exec (.frnd y gd d a r) s = .next (finish (noteFlags s g.launch (laneFlags (active g p gd) fun l =>
          (frnd32 (p.fmt.getLsbD 12) (modeOf r) (aVal g l a)).2)) h p y) ∧
        WroteV g h (active g p gd) (eff g d.toNat) fun l => (frnd32 (p.fmt.getLsbD 12) (modeOf r) (aVal g l a)).1)) ∧
  (∀ (f : Fmt) (sat : Bool) (a b d : Word),
    (packFma f sat a b d).1 = twoHalves (fun h => (roundX f (.mode .rne) sat
      (((decodeNum f (halfOf a h)).mul (decodeNum f (halfOf b h))).add (decodeNum f (halfOf d h)))).1) ∧
    (packAdd f sat a b d).1 = twoHalves (fun h => (roundX f (.mode .rne) sat
      ((decodeNum f (halfOf a h)).add (decodeNum f (halfOf b h)))).1) ∧
    (packMul f sat a b d).1 = twoHalves (fun h => (roundX f (.mode .rne) sat
      ((decodeNum f (halfOf a h)).mul (decodeNum f (halfOf b h)))).1)) ∧
  (∀ (ftz z sat : Bool) (src : CvtSrc) (dst : CvtDst) (m : RMode) (a : Word) (x : XVal), x = cvtValue ftz z src a →
    (∀ f, dstFmt dst = some f → srcFmt src ≠ some f → ftz = false →
      (cvtWord ftz z sat src dst m a).1 = BitVec.ofNat 32 (roundX f (.mode m) sat x).1) ∧
    (∀ (n lo hi : Int) (v : Dy), dstFmt dst = none → lo = (if dst = .u32 then 0 else -(2 ^ 31)) →
      hi = (if dst = .u32 then 2 ^ 32 - 1 else 2 ^ 31 - 1) → x = .fin v →
      n = (if v.neg then -((roundInt (if intSrc src then .rz else m) v : Nat) : Int)
        else ((roundInt (if intSrc src then .rz else m) v : Nat) : Int)) →
      (cvtWord ftz z sat src dst m a).1 = BitVec.ofInt 32 (max lo (min hi n)) ∧
      (cvtWord ftz z sat src dst m a).2.invalid = (decide (n < lo ∨ hi < n) || cvtSnan src a)) ∧
    (dstFmt dst = none → x = .nan →
      (cvtWord ftz z sat src dst m a).1 = 0 ∧ (cvtWord ftz z sat src dst m a).2.invalid = true))

/-- R70, R82, R354, R356: an FP32 sum, product or multiply-add of which an operand is a NaN gives the canonical NaN 0x7FC0_0000,
and raises invalid exactly where an operand it has is a signalling NaN or a product is zero times infinity. R69, R73: rounding
the value of an FP32 pattern that is no NaN gives the pattern back, with no flag. -/
def Obligations.FloatValueResults : Prop :=
  (∀ (z : Bool) (a b d : Word),
    ((ofF32 a).isNan ∨ (ofF32 b).isNan →
      (fadd32 z a b).1 = 0x7FC0_0000#32 ∧ (fmul32 z a b).1 = 0x7FC0_0000#32 ∧
      (fadd32 z a b).2.invalid = (isSnan .f32 a.toNat || isSnan .f32 b.toNat) ∧
      (fmul32 z a b).2.invalid = (isSnan .f32 a.toNat || isSnan .f32 b.toNat)) ∧
    ((ofF32 a).isNan ∨ (ofF32 b).isNan ∨ (ofF32 d).isNan → ∀ np nd,
      (fma32 z np nd a b d).1 = 0x7FC0_0000#32 ∧
      (fma32 z np nd a b d).2.invalid = (isSnan .f32 a.toNat || isSnan .f32 b.toNat || isSnan .f32 d.toNat ||
        (!(ofF32 a).isNan && !(ofF32 b).isNan && ((in32 z a).mul (in32 z b)).isNan)))) ∧
  (∀ w : Word, (ofF32 w).isNan = false → round32 (ofF32 w) = (w, {}))

/-- R300, R398, R389, R411: the long lane-wise instructions SFU, REDUX and V2S leave an outstanding result that holds the value
they computed at issue, and write no register yet; with no active lane they do nothing but pass on. R300: where another result
with the same destination is outstanding, the value of both there is open; other outstanding results are as they were. R85,
R398: the special results of SFU, a NaN of a NaN, of a negative number's root or logarithm, and the reciprocal of a power of two
whose reciprocal is normal; rcp, rsq and lg2 of a zero set divide by zero. -/
def Obligations.LongLaneResults : Prop :=
  (∀ (s : State) (g : Group) (p : Split) (y : Bool) (gd : Guard) (d a : BitVec 6), Issues s g p {} →
    (∀ f, VOk g (active g p gd) [a.toNat, d.toNat] →
      exec (.sfu y gd d a f) s = .next (finish (noteFlags s g.launch (laneFlags (active g p gd) fun l =>
          (sfu32 (p.fmt.getLsbD 12) f (aVal g l a)).2))
        (if active g p gd = [] then g else addPend g [knownResult p (active g p gd)
          ((active g p gd).map fun l => (l * 256 + eff g d.toNat, (sfu32 (p.fmt.getLsbD 12) f (aVal g l a)).1)) []]) p y)) ∧
    (∀ (b : BitVec 7) (m : ReduxOp), VOk g (active g p gd) [a.toNat] → d.toNat < g.sregs →
      exec (.redux y gd d a b m) s = .next (finish s
        (if active g p gd = [] then g else addPend g [knownResult p (active g p gd) []
          [(d.toNat, reduction m ((active g p gd).map fun l => aVal g l a))]]) p y)) ∧
    (∀ b : BitVec 7, VOk g (active g p gd) [a.toNat] → d.toNat < g.sregs →
      exec (.v2s y gd d a b) s = .next (finish s
        (if active g p gd = [] then g else addPend g [knownResult p (active g p gd) []
          [(d.toNat, if b.toNat ∈ active g p gd then aVal g b.toNat a else 0)]]) p y))) ∧
  (∀ (g : Group) (r : LongResult), ∃ old, (addPend g [r]).pend = old ++ [{ r with
      clobbered := (destKeys r).filter (fun k => decide (∃ o ∈ g.pend, k ∈ destKeys o)) ++ r.clobbered }] ∧
    pendBut old = pendBut g.pend ∧ addPend g [r] = { g with pend := (addPend g [r]).pend } ∧
    (∀ o ∈ g.pend, ∀ k ∈ destKeys o, k ∈ destKeys r →
      ∃ q ∈ old, q = { o with clobbered := q.clobbered } ∧ k ∈ q.clobbered) ∧
    ((∀ o ∈ g.pend, ∀ k ∈ destKeys o, k ∉ destKeys r) → (addPend g [r]).pend = g.pend ++ [r])) ∧
  (∀ e ∈ sfuSpecials, ∀ z : Bool, (sfu32 z e.1 e.2.1).1 = e.2.2) ∧
  (∀ (z : Bool) (f : SfuFn) (a : Word),
    ((ofF32 a).isNan = true → (sfu32 z f a).1 = 0x7FC0_0000#32) ∧
    (∀ v : Dy, in32 z a = .fin v → v.neg = true → v.m ≠ 0 → (f = .rsq ∨ f = .sqrt ∨ f = .lg2) →
      (sfu32 z f a).1 = 0x7FC0_0000#32 ∧ (sfu32 z f a).2.invalid = true) ∧
    ((f = .rcp ∨ f = .rsq ∨ f = .lg2) → (a = 0 ∨ a = 0x8000_0000#32) → (sfu32 z f a).2.divZero = true)) ∧
  ∀ (z neg : Bool) (e : Nat), 1 ≤ e → e ≤ 253 →
    (sfu32 z .rcp (BitVec.ofNat 32 ((if neg then 2 ^ 31 else 0) + e * 2 ^ 23))).1 =
      BitVec.ofNat 32 ((if neg then 2 ^ 31 else 0) + (254 - e) * 2 ^ 23)

/-- R399: SHFL takes a from the active lane that b names, and from its own lane where there is none. R415: VOTE: any, all and eq
write one predicate of every active lane; ballot writes four scalar registers with a bit for each active lane whose predicate
holds. -/
def Obligations.CrossLaneResults : Prop :=
  (∀ (s : State) (g : Group) (p : Split) (y : Bool) (gd : Guard) (d a : BitVec 6) (b : Src) (m : ShflMode),
    Issues s g p {} → VOk g (active g p gd) [a.toNat, d.toNat] → BOk g (active g p gd) b →
    ∃ h, exec (.shfl y gd d a b m) s = .next (finish s h p y) ∧
      WroteV g h (active g p gd) (eff g d.toNat) fun l =>
        let q := shuffleFrom m l (bVal g l b)
        if 0 ≤ q ∧ q < g.width ∧ q.toNat ∈ active g p gd then aVal g q.toNat a else aVal g l a) ∧
  (∀ (s : State) (g : Group) (p : Split) (y : Bool) (gd : Guard) (d a : BitVec 6) (b : BitVec 7) (v : Nat → Bool),
    Issues s g p {} → active g p gd ≠ [] → (∀ l, v l = (getP g l (a.toNat % 8) != a.getLsbD 3)) →
    (∀ m : VoteMode, m ≠ .ballot →
      ∃ h, exec (.vote y gd d a b m) s = .next (finish s h p y) ∧
        WroteP g h (active g p gd) (d.toNat / 8) fun _ => match m with
          | .any => decide (∃ l ∈ active g p gd, v l = true)
          | .all => decide (∀ l ∈ active g p gd, v l = true)
          | _ => decide (∀ l ∈ active g p gd, ∀ k ∈ active g p gd, v l = v k)) ∧
    (SOk g [d.toNat, d.toNat + 1, d.toNat + 2, d.toNat + 3] →
      ∃ h, exec (.vote y gd d a b .ballot) s = .next (finish s h p y) ∧
        (∀ k < 4, ∀ i < 32, (getS h (d.toNat + k)).getLsbD i =
          decide (32 * k + i ∈ active g p gd ∧ v (32 * k + i) = true)) ∧
        (∀ r, (∀ k < 4, r ≠ d.toNat + k) → getS h r = getS g r) ∧
        h = { g with s := h.s, pend := h.pend } ∧ pendBut h.pend = pendBut g.pend)) ∧
  (∀ (s : State) (g : Group) (p : Split) (y : Bool) (gd : Guard) (d a : BitVec 6) (b : BitVec 7),
    (∀ sb m, curSplit s = some (g, p) → p.hints.hfwd.isSome = true → p.hints.words ≠ [] → ∃ t : Trap, t.cause = 0x02 ∧
      exec (.shfl y gd d a sb m) s = .next (takeTrap s g p t none)) ∧
    (Issues s g p {} → active g p gd = [] → ∀ m, exec (.vote y gd d a b m) s = .next (finish s g p y)) ∧
    (Issues s g p {} → active g p gd ≠ [] → g.sregs ≤ d.toNat + 3 → ∃ t : Trap, t.cause = 0x03 ∧
      exec (.vote y gd d a b .ballot) s = .next (takeTrap s g p t none))) ∧
  (decodeWord 0x0243_0F2B = .ok (.shfl false ⟨false, 0⟩ 6 7 (.s 10) .xor) ∧
    decodeWord 0x0268_0201 = .ok (.vote false ⟨false, 0⟩ 16 1 0 .any) ∧
    decodeWord 0x0266_1600 = .ok (.vote false ⟨false, 0⟩ 12 11 0 .ballot))

/-- R57, R413: VMOVX and VSTX through an index register, and the forms that write and read index registers. -/
def Obligations.IndexRegisterResults : Prop :=
  ∀ (s : State) (g : Group) (p : Split) (y : Bool) (gd : Guard) (d : BitVec 6) (x : XReg) (i : BitVec 9) (n : Nat)
    (e : Nat → Int), Issues s g p { imms := 2 } → n = (match x with | .x1 => 1 | .x2 => 2 | .x3 => 3) →
    (∀ l, e l = (getX g l n).toNat + built p.hints.himm i + g.wb.toNat) →
    (VOk g (active g p gd) [d.toNat] → (∀ l ∈ active g p gd, 0 ≤ e l ∧ e l < g.vregs) →
      ∃ h, exec (.vmovx y gd d x i) s = .next (finish s h p y) ∧
        WroteV g h (active g p gd) (eff g d.toNat) fun l => getV g l (e l).toNat) ∧
    (VOk g (active g p gd) [d.toNat] → (∀ l ∈ active g p gd, 0 ≤ e l ∧ e l < g.vregs ∧ e l < 256) →
      ∃ h, exec (.vstx y gd d x i) s = .next (finish s h p y) ∧
        (∀ l ∈ active g p gd, getV h l (e l).toNat = aVal g l d) ∧
        (∀ k, (∀ l ∈ active g p gd, k ≠ l * 256 + (e l).toNat) → mget 0 k h.v = mget 0 k g.v) ∧
        h = { g with v := h.v, pend := h.pend, touched := h.touched } ∧ pendBut h.pend = pendBut g.pend) ∧
    (VOk g (active g p gd) [d.toNat] →
      ∃ h, exec (.vmovxToX y gd d x i) s = .next (finish s h p y) ∧
        WroteX g h (active g p gd) n fun l => (aVal g l d).setWidth 8 + BitVec.ofInt 8 (built p.hints.himm i)) ∧
    (VOk g (active g p gd) [d.toNat] →
      ∃ h, exec (.vmovxFromX y gd d x) s = .next (finish s h p y) ∧
        WroteV g h (active g p gd) (eff g d.toNat) fun l => (getX g l n).setWidth 32) ∧
    (∃ h, exec (.vstxAdd y gd x i) s = .next (finish s h p y) ∧
        WroteX g h (active g p gd) n fun l => getX g l n + BitVec.ofInt 8 (built p.hints.himm i))

/-- R75, R77 to R81, R349: QNT, DQN and HAD work on runs of registers of each active lane, reading all before they write any.
QNT writes k registers of codes, then the scale register unless there is no scale; under stochastic rounding the active lanes'
generators move on. That the scale comes after the codes, where its register is among theirs, is log entry 52's. R77 to R79: the
scale is 2^X with X by the greatest magnitude, or the smallest E4M3 value that reaches amax / M, or the NaN scale, and each code
is the element over the scale, rounded. R80: DQN gives code × scale, or the spare value of E2M1 code 8, rounded to FP32. R81: an
output of HAD is c times the signed sum of its inputs, rounded to FP32. -/
def Obligations.BlockResults : Prop :=
  (∀ (s : State) (g : Group) (p : Split) (y : Bool) (gd : Guard) (d a b : BitVec 6) (n k : Nat),
    n = (if fmtScale p.fmt = 2 then 16 else 32) → k = n * (fmtA p.fmt).width / 32 →
    (Issues s g p {} → fmtA p.fmt ≠ .f32 →
      VIn g (active g p gd) (span a n ++ span d k ++ if fmtScale p.fmt = 0 then [] else [b.toNat]) →
      ∃ h gens, exec (.qnt y gd d a (.v b)) s = .next (finish (noteFlags s g.launch (laneFlags (active g p gd) fun l =>
          (qntLane g p a l).2.2)) { h with gens := gens } p y) ∧
        gens = (g.gens.zipIdx.map fun x =>
          if fmtQrnd p.fmt = 2 ∧ x.2 ∈ active g p gd then (draws n x.1).getLastD x.1 else x.1) ∧
        (∀ l ∈ active g p gd, ∀ i < k, (fmtScale p.fmt = 0 ∨ d.toNat + i ≠ b.toNat) →
          getV h l (eff g d.toNat + i) = (packCodes (fmtA p.fmt).width k (qntLane g p a l).2.1).getD i 0) ∧
        (∀ l ∈ active g p gd, fmtScale p.fmt ≠ 0 →
          getV h l (eff g b.toNat) = BitVec.ofNat 32 ((qntLane g p a l).1 % 256)) ∧
        (∀ q, (∀ l ∈ active g p gd, (∀ i < k, q ≠ l * 256 + eff g d.toNat + i) ∧
            (fmtScale p.fmt = 0 ∨ q ≠ l * 256 + eff g b.toNat)) → mget 0 q h.v = mget 0 q g.v) ∧
        h = { g with v := h.v, pend := h.pend, touched := h.touched } ∧ pendBut h.pend = pendBut g.pend) ∧
    (Issues s g p {} → fmtA p.fmt ≠ .f32 →
      VIn g (active g p gd) (span d n ++ span a k ++ if fmtScale p.fmt = 0 then [] else [b.toNat]) →
      ∃ h, exec (.dqn y gd d a (.v b)) s = .next (finish (noteFlags s g.launch (laneFlags (active g p gd) fun l =>
          (dqnLane g p a b l).foldl (fun fl r => fl.or r.2) {})) h p y) ∧
        WroteRun g h (active g p gd) (eff g d.toNat) n fun l i => (out32 (fmtFtz p.fmt) (blockElement p
          (if fmtScale p.fmt = 0 then 0 else (getV g l (eff g b.toNat)).toNat % 256) g.spa.toNat
          (stringBits (fun q => (getV g l (eff g (a.toNat + q))).toNat) k (i * (fmtA p.fmt).width) (fmtA p.fmt).width))).1) ∧
    (Issues s g p { had := true } → hadOf p ≠ 0 → VIn g (active g p gd) (span a (hadOf p) ++ span d (hadOf p)) →
      ∃ h, exec (.had y gd d a) s = .next (finish (noteFlags s g.launch (laneFlags (active g p gd) fun l =>
          (hadLane g p a l).foldl (fun fl r => fl.or r.2) {})) h p y) ∧
        WroteRun g h (active g p gd) (eff g d.toNat) (hadOf p) fun l i => (out32 (fmtFtz p.fmt)
          ((hadamardFactor (hadOf p)).mul (sumX ((List.range (hadOf p)).map fun j =>
            XVal.negIf (oddOnes (i &&& j)) (in32 (fmtFtz p.fmt) (getV g l (eff g (a.toNat + j)))))))).1)) ∧
  (∀ (f : Fmt) (xs : List XVal) (cs : List Choice) (spare : Bool) (mode : Nat), cs.length = xs.length → mode < 3 →
    ((∃ x ∈ xs, x = .nan ∨ ∃ n, x = .inf n) → mode ≠ 0 →
      quantBlock f mode spare cs xs = (if mode = 1 then 0xFF else 0x7F, xs.map (fun _ => 0), {})) ∧
    ((∀ x ∈ xs, ∃ v, x = .fin v) → ∀ top : Dy, top = amaxOf xs →
      (∀ x ∈ xs, ∀ v, x = .fin v → top.lt { v with neg := false } = false) ∧
      (mode = 1 → top.m ≠ 0 → ∀ e : Int, Dy.lt top ⟨false, 1, e⟩ = false → Dy.lt top ⟨false, 1, e + 1⟩ = true →
        ((quantBlock f 1 spare cs xs).1 : Int) = min (max (e - f.emax) (-127)) 127 + 127 ∧
        (spare = false → (quantBlock f 1 spare cs xs).2.1 = (xs.zip cs).map fun x => (roundX f x.2 true (match x.1 with
          | .fin v => .fin ⟨v.neg, v.m, v.e - min (max (e - f.emax) (-127)) 127⟩
          | z => z)).1)) ∧
      (mode = 2 → top.m ≠ 0 → ∀ c, c = (quantBlock f 2 spare cs xs).1 → 1 ≤ c ∧ c ≤ 126 ∧
        ∀ q, 1 ≤ q → q < c → ∀ sv, decodeNum .e4m3 q = .fin sv → (sv.mul ⟨false, f.max.1, f.max.2⟩).lt top = true) ∧
      (mode = 0 → spare = false → (quantBlock f 0 spare cs xs).2.1 = (xs.zip cs).map fun x => (roundX f x.2 true x.1).1)))

/-! ## Scalar and system instructions -/

/-- R52, R55, R393: the scalar arithmetic writes Sd, or under HX.w the pair Sd:Sd+1 of even number, with its function of Sa and
Sb. No other register, flag or byte of memory changes. R55, R393: under HX.w an odd register is the illegal-instruction trap,
with the word in FLT_INFO. R402, R403, R394: SMOV, SMOV.b64, SSETP and SADDI, on words and, under HX.w, on pairs. -/
def Obligations.ScalarResults : Prop :=
  (∀ op ∈ scalarTable, ∀ (s : State) (g : Group) (p : Split) (y : Bool) (gd : Guard) (d a b : BitVec 7),
    Issues s g p { w := true } → guardQ g gd = true →
    ((hxOf p).w = false → SOk g [a.toNat, b.toNat, d.toNat] →
      ∃ h, exec (op.1 y gd d a b) s = .next (finish s h p y) ∧
        WroteS g h d.toNat (op.2 32 (getS g a.toNat) (getS g b.toNat))) ∧
    ((hxOf p).w = true → d.toNat % 2 = 0 → a.toNat % 2 = 0 → b.toNat % 2 = 0 →
      SOk g [a.toNat, a.toNat + 1, b.toNat, b.toNat + 1, d.toNat, d.toNat + 1] →
      ∃ h, exec (op.1 y gd d a b) s = .next (finish s h p y) ∧
        WroteS64 g h d.toNat (op.2 64 (getS64 g a.toNat) (getS64 g b.toNat)))) ∧
  (∀ op ∈ scalarTable, ∀ (s : State) (g : Group) (p : Split) (y : Bool) (gd : Guard) (d a b : BitVec 7),
    Issues s g p { w := true } → guardQ g gd = true → (hxOf p).w = true →
    (d.toNat % 2 = 1 ∨ a.toNat % 2 = 1 ∨ b.toNat % 2 = 1) →
    ∃ t : Trap, t.cause = 0x01 ∧ (∀ w, encode (op.1 y gd d a b) = some w → t.info = w.setWidth 64) ∧
      exec (op.1 y gd d a b) s = .next (takeTrap s g p t none)) ∧
  (∀ (s : State) (g : Group) (p : Split) (y : Bool) (gd : Guard) (d a : BitVec 9) (u v : BitVec 7) (q : BitVec 3) (c : ICond)
    (i : BitVec 12), guardQ g gd = true →
    (Issues s g p {} → SOk g [a.toNat, d.toNat] →
      ∃ h, exec (.smov y gd d a) s = .next (finish s h p y) ∧ WroteS g h d.toNat (getS g a.toNat)) ∧
    (Issues s g p {} → SOk g [a.toNat, a.toNat + 1, d.toNat, d.toNat + 1] →
      ∃ h, exec (.smovB64 y gd d a) s = .next (finish s h p y) ∧ WroteS64 g h d.toNat (getS64 g a.toNat)) ∧
    (Issues s g p { w := true } → (hxOf p).w = false → SOk g [u.toNat, v.toNat] →
      ∃ h, exec (.ssetp y gd q c u v) s = .next (finish s h p y) ∧
        WroteQ g h q.toNat (intCondition c (getS g u.toNat) (getS g v.toNat))) ∧
    (Issues s g p { w := true } → (hxOf p).w = true → u.toNat % 2 = 0 → v.toNat % 2 = 0 →
      SOk g [u.toNat, u.toNat + 1, v.toNat, v.toNat + 1] →
      ∃ h, exec (.ssetp y gd q c u v) s = .next (finish s h p y) ∧
        WroteQ g h q.toNat (intCondition c (getS64 g u.toNat) (getS64 g v.toNat))) ∧
    (Issues s g p { w := true, imms := 2 } → (hxOf p).w = false → SOk g [d.toNat] →
      ∃ h, exec (.saddi y gd d i) s = .next (finish s h p y) ∧
        WroteS g h d.toNat (getS g d.toNat + BitVec.ofInt 32 (built p.hints.himm i))) ∧
    (Issues s g p { w := true, imms := 2 } → (hxOf p).w = true → d.toNat % 2 = 0 → SOk g [d.toNat, d.toNat + 1] →
      ∃ h, exec (.saddi y gd d i) s = .next (finish s h p y) ∧
        WroteS64 g h d.toNat (getS64 g d.toNat + BitVec.ofInt 64 (built p.hints.himm i))))

/-- R299: a Q-class instruction whose guard is false only advances: no register, no system register and no byte changes. -/
def Obligations.FalseGuardPasses : Prop :=
  ∀ (s : State) (g : Group) (p : Split) (y : Bool) (gd : Guard) (d a b : BitVec 7) (q : BitVec 3) (c : ICond) (d9 a9 : BitVec 9)
    (i : BitVec 12) (w : BitVec 5) (n : BitVec 6) (ns : Bool),
    p.redo = none → guardQ g gd = false →
    ∀ j ∈ guardedForms y gd d a b q c d9 a9 i w n ns, Issues s g p j.2 → exec j.1 s = .next (finish s g p y)

/-- R53, R59, R60, R396: SETFMT, SETSPARE and the two forms of SETWB write FMT of the issuing split, SPA and WB of the group,
and nothing else. R59, R396: a value with a reserved bit or code is the illegal-instruction trap, and FMT keeps its value. -/
def Obligations.FormatResults : Prop :=
  (∀ (s : State) (g : Group) (p : Split) (y : Bool) (gd : Guard) (a : BitVec 7) (w : BitVec 5),
    Issues s g p {} → guardQ g gd = true →
    (a.toNat < g.sregs → fmtValid (getS g a.toNat) →
      exec (.setfmt y gd a) s = .next (finish s g { p with fmt := getS g a.toNat } y)) ∧
    (a.toNat < g.sregs →
      exec (.setspare y gd a) s = .next (finish s { g with spa := BitVec.ofNat 16 (getS g a.toNat).toNat } p y)) ∧
    exec (.setwb y gd w) s = .next (finish s { g with wb := BitVec.ofNat 8 (8 * w.toNat) } p y) ∧
    (a.toNat < g.sregs →
      exec (.setwbReg y gd a) s = .next (finish s { g with wb := BitVec.ofNat 8 (8 * ((getS g a.toNat).toNat / 8 % 32)) } p y))) ∧
  (∀ (s : State) (g : Group) (p : Split) (y : Bool) (gd : Guard) (a : BitVec 7),
    Issues s g p {} → guardQ g gd = true → a.toNat < g.sregs → ¬ fmtValid (getS g a.toNat) →
    ∃ t : Trap, t.cause = 0x01 ∧ exec (.setfmt y gd a) s = .next (takeTrap s g p t none)) ∧
  (decodeWord 0x07E6_0140 = .ok (.setfmt false ⟨false, 0⟩ 5) ∧
    decodeWord 0x07E6_2140 = .ok (.setspare false ⟨false, 0⟩ 5) ∧ decodeWord 0x07E6_4008 = .ok (.setwb false ⟨false, 0⟩ 8) ∧
    decodeWord 0x07E6_41E0 = .ok (.setwbReg false ⟨false, 0⟩ 7))

/-- R62 to R64, R407: SYSRD writes a system register's value into Sd, or into Sd:Sd+1 for one of 64 bits. R62 to R64, R75, R407,
R408: SYSWR in a privileged context: TRAP_BASE of the workgroup, AGE_LIMIT of the core within 64 to 1,024, CTX_WORLD where it
keeps its value, and SEED of the group's generators. R62, R244, R408, R432: SYSWR of a register in a context without privilege,
or one that would change SEALED, is the permission trap with reason 8, access code 7 and FLT_ADDR 0; nothing is written. Its lanes
are, by log entry 13, the split's enabled lanes. R345:
CLOCK writes the cycle counter, or device time in nanoseconds, into a pair. -/
def Obligations.SystemRegisterResults : Prop :=
  (∀ (s : State) (g : Group) (p : Split) (y : Bool) (gd : Guard) (d : BitVec 7) (n : BitVec 6),
    Issues s g p {} → guardQ g gd = true → SysReg.known n = true →
    (SysReg.wide n = false → SOk g [d.toNat] →
      ∃ h, exec (.sysrd y gd d n) s = .next (finish s h p y) ∧
        WroteS g h d.toNat (BitVec.ofNat 32 (systemValue s g p n.toNat).toNat)) ∧
    (SysReg.wide n = true → SOk g [d.toNat, d.toNat + 1] →
      ∃ h, exec (.sysrd y gd d n) s = .next (finish s h p y) ∧ WroteS64 g h d.toNat (systemValue s g p n.toNat))) ∧
  (∀ (s : State) (g : Group) (p : Split) (y : Bool) (gd : Guard) (d : BitVec 7),
    Issues s g p {} → guardQ g gd = true → (wgOf s g.launch g.wg).priv = true →
    (SOk g [d.toNat, d.toNat + 1] → exec (.syswr y gd d 0x10) s =
      .next (finish (putWg s { wgOf s g.launch g.wg with trapBase := getS64 g d.toNat }) g p y)) ∧
    (SOk g [d.toNat] → ∀ c, c = { coreSt s g.core with ageLimit := min (max (getS g d.toNat).toNat 64) 1024 } →
      exec (.syswr y gd d 0x20) s =
        .next (finish { s with cores := { s.cores with cs := (mset {} g.core c s.cores.cs) } } g p y)) ∧
    (SOk g [d.toNat] → (getS g d.toNat).getLsbD 0 = (wgOf s g.launch g.wg).isSealed →
      exec (.syswr y gd d 0x21) s = .next (finish s g p y)) ∧
    (SOk g [d.toNat] → ∀ gens, gens = ((List.range g.width).map fun l =>
        if getS g d.toNat ^^^ BitVec.ofNat 32 (l * 0x9E3779B9) = 0 then 1
        else getS g d.toNat ^^^ BitVec.ofNat 32 (l * 0x9E3779B9)) →
      exec (.syswr y gd d 0x22) s = .next (finish s { g with gens := gens } p y))) ∧
  (∀ (s : State) (g : Group) (p : Split) (y : Bool) (gd : Guard) (d : BitVec 7) (n : BitVec 6),
    Issues s g p {} → guardQ g gd = true → SysReg.known n = true → SysReg.readOnly n = false →
    SOk g [d.toNat, d.toNat + 1] →
    ((wgOf s g.launch g.wg).priv = false ∨
      (n = 0x21 ∧ (getS g d.toNat).getLsbD 0 ≠ (wgOf s g.launch g.wg).isSealed)) →
    exec (.syswr y gd d n) s = .next (takeTrap s g p
      { cause := 0x0B, addr := 0, lanes := laneBits (enabled g p), info := BitVec.ofNat 64 (8 + 16 * 7) } none)) ∧
  (∀ (s : State) (g : Group) (p : Split) (y : Bool) (gd : Guard) (d : BitVec 6) (ns : Bool),
    Issues s g p {} → guardQ g gd = true → SOk g [2 * d.toNat, 2 * d.toNat + 1] →
    ∃ h, exec (.clock y gd d ns) s = .next (finish s h p y) ∧
      WroteS64 g h (2 * d.toNat) (BitVec.ofNat 64 (if ns then s.clock.ps / 1000 else s.clock.cycle)))

/-- R62, R63, R407, R408: no instruction of a context without privilege changes any core's AGE_LIMIT, whatever it does and
wherever it traps. -/
def Obligations.AgeLimitNeedsPrivilege : Prop :=
  ∀ (s t : State) (g : Group) (p : Split) (i : Instr), (encode i).isSome = true → curSplit s = some (g, p) →
    (wgOf s g.launch g.wg).priv = false → exec i s = .next t → ∀ core, (coreSt t core).ageLimit = (coreSt s core).ageLimit

/-! ## Control -/

/-- R303 to R306, R362 to R364: a hint has no effect of its own: it joins the pair, and the PC moves past it; of an HX the
performance counters record sched. R306, R244: a hint out of its order, and an instruction, whichever it is, whose pair holds a
hint it does not accept, are the illegal-hint trap, with the hint and the instruction's word in FLT_INFO. R38, R317, R380,
R384: NOP and LPAD only pass on, whatever the guard; SETJ sets the issuing split's join register to its own address plus four
times its offset. -/
def Obligations.HintResults : Prop :=
  (∀ (s : State) (g : Group) (p : Split) (w : Word), curSplit s = some (g, p) →
    (∀ i : BitVec 21, encode (.himm i) = some w → p.hints.himm.length < 2 → exec (.himm i) s = .next (putGroup s (putSplit g
      { p with pc := p.pc + 4, ypark := false,
               hints := { p.hints with himm := p.hints.himm ++ [i], words := p.hints.words ++ [w], start := startPc p } }))) ∧
    (∀ r pol z sat had sched hw, encode (.hx r pol z sat had sched hw) = some w → p.hints.hx = none → p.hints.himm = [] →
      ∃ m, exec (.hx r pol z sat had sched hw) s = .next (putGroup { s with cores := { s.cores with schedCount := m } }
        (putSplit g { p with pc := p.pc + 4, ypark := false, hints := { p.hints with
          hx := some ⟨r, pol, z, sat, had, sched, hw⟩, words := p.hints.words ++ [w], start := startPc p } })) ∧
        ∀ k, mget 0 k m = mget 0 k s.cores.schedCount + if k = g.core * 16 + sched.toNat then 1 else 0) ∧
    (∀ k sl, encode (.hfwd k sl) = some w → p.hints.words = [] → exec (.hfwd k sl) s = .next (putGroup s (putSplit g
      { p with pc := p.pc + 4, ypark := false,
               hints := { p.hints with hfwd := some (k, sl), words := [w], start := startPc p } })))) ∧
  (∀ (s : State) (g : Group) (p : Split), curSplit s = some (g, p) →
    (∀ i : BitVec 21, 2 ≤ p.hints.himm.length → ∃ t : Trap, t.cause = 0x02 ∧
      exec (.himm i) s = .next (takeTrap s g p t none)) ∧
    (∀ r pol z sat had sched hw, p.hints.hx.isSome ∨ p.hints.himm ≠ [] → ∃ t : Trap, t.cause = 0x02 ∧
      exec (.hx r pol z sat had sched hw) s = .next (takeTrap s g p t none)) ∧
    (∀ k sl, p.hints.words ≠ [] → ∃ t : Trap, t.cause = 0x02 ∧
      exec (.hfwd k sl) s = .next (takeTrap s g p t none)) ∧
    (∀ (i : Instr) (a : Accept) (hint w : Word), takes i = some a → badHint a p.hints = some hint → encode i = some w →
      ∃ t : Trap, t.cause = 0x02 ∧ t.info = w ++ hint ∧ exec i s = .next (takeTrap s g p t none))) ∧
  (∀ (s : State) (g : Group) (p : Split) (y : Bool), Issues s g p {} →
    (∀ gd, exec (.nop y gd) s = .next (finish s g p y)) ∧
    (∀ l, exec (.lpad y l) s = .next (finish s g p y)) ∧
    (∀ o : BitVec 13, exec (.setj y o) s =
      .next (finish s g { p with join := some (p.pc + BitVec.ofInt 64 (4 * o.toInt)) } y)))

/-- R27, R30, R32, R313, R314, R337, R341, R391: BRA, CALL and RET, where the mask stacks are not near their depth. CALL writes
the address after it into V63 of the calling lanes. Lanes whose guards differ disagree even where the target is the next word:
the model's choice (log entry 49). -/
def Obligations.BranchResults : Prop :=
  ∀ (s : State) (g : Group) (p : Split) (y : Bool) (gd : Guard), Issues s g p {} → p.slices ≠ [] → Shallow g p →
    (∀ (o : BitVec 21) (target fall : DWord), target = p.pc + BitVec.ofInt 64 (4 * o.toInt) → fall = p.pc + 4 →
      (∃ h, exec (.bra y gd o) s = .next (putGroup s h) ∧
        Branched g h p y (active g p gd) (fun _ => target) fall fall
          (some (p.join.getD (if target.toNat < fall.toNat then fall else target)))) ∧
      (VOk g (active g p gd) [63] →
        ∃ h k, exec (.call y gd o) s = .next (putGroup s k) ∧
          WroteV g h (active g p gd) (eff g 63) (fun _ => fall.setWidth 32) ∧
          Branched h k p y (active g p gd) (fun _ => target) fall fall (some fall))) ∧
    (∀ a : BitVec 6, VOk g (active g p gd) [a.toNat] →
      ∃ h, exec (.ret y gd a) s = .next (putGroup s h) ∧
        Branched g h p y (active g p gd) (fun l => p.pc.extractLsb' 32 32 ++ (aVal g l a &&& 0xFFFF_FFFC#32)) (p.pc + 4)
          (startPc p) p.join)

/-- R30, R314 to R317, R340: BRX and CALLX, where their targets can be formed: from the table that HIMM names, or at landing
pads with the label that HIMM holds, 0 without one. CALLX writes the address after it into its link register. R315, R316: in
table mode a missing HIMM, and in landing-pad mode a label beyond 12 bits, is the illegal-instruction trap. Lanes that wait do
so at the first hint of the pair: the model's choice (log entry 49). -/
def Obligations.IndirectBranchResults : Prop :=
  (∀ (s u : State) (g : Group) (p : Split) (y : Bool) (gd : Guard) (a d : BitVec 6) (m : BitVec 21) (pad : Bool)
    (ts : List (Nat × DWord)) (tj : Option DWord) (target : Nat → DWord),
    Issues s g p { imms := 1 } → p.slices ≠ [] → Shallow g p → m = p.hints.himm.headD 0 →
    (pad = false → p.hints.himm ≠ []) →
    pad = (wgOf s g.launch g.wg).landingPad → (pad = true → m.toNat < 4096) →
    ts = (active g p gd).map (fun l => (l, target l)) →
    (if pad then padTargets s g p (active g p gd) a (m.setWidth 12) else tableTargets s g p (active g p gd) a m) = .go u ts tj →
    (VOk g (active g p gd) [a.toNat] →
      ∃ h, exec (.brx y gd a) s = .next (putGroup u h) ∧
        Branched (staleFrom u g) h p y (active g p gd) target (p.pc + 4) (startPc p) (p.join.or tj)) ∧
    (VOk g (active g p gd) [a.toNat, d.toNat] →
      ∃ h k, exec (.callx y gd a d) s = .next (putGroup u k) ∧
        WroteV (staleFrom u g) h (active g p gd) (eff g d.toNat) (fun _ => (p.pc + 4).setWidth 32) ∧
        Branched h k p y (active g p gd) target (p.pc + 4) (startPc p) (p.join.or (tj.or (some (p.pc + 4)))))) ∧
  (∀ (s : State) (g : Group) (p : Split) (y : Bool) (gd : Guard) (a d : BitVec 6), Issues s g p { imms := 1 } →
    ((wgOf s g.launch g.wg).landingPad = false ∧ p.hints.himm = [] ∨
      (wgOf s g.launch g.wg).landingPad = true ∧ 4096 ≤ (p.hints.himm.headD 0).toNat) →
    ∃ t : Trap, t.cause = 0x01 ∧ exec (.brx y gd a) s = .next (takeTrap s g p t none) ∧
      ∃ r : Trap, r.cause = 0x01 ∧ exec (.callx y gd a d) s = .next (takeTrap s g p r none))

/-- R34, R244: a BRA that would push a ninth entry in a launch without a spill area is the mask-stack overflow trap. R33: where
the top entry's join PC of a slice is the split's PC, the step performs the join action and issues nothing: with lanes pending,
they run next from the pending PC with the entry's FMT; with none, the entry is popped and the saved lanes that have not exited
go on; a slice without a join action stays where it is. R36: REGANG only passes on in a split without a fork, or whose fork has
another join PC; else the split parks: it stays parked where no fork is covered then, and where its fork is, the fork's splits
merge and go on after it with the fork's FMT. Fields that R33 and R36 leave unsaid follow log entry 49. -/
def Obligations.MaskStackResults : Prop :=
  (∀ (s : State) (g : Group) (p : Split) (y : Bool) (gd : Guard) (o : BitVec 21) (j : Nat), Issues s g p {} →
    (launchOf s g.launch).desc.spill = 0 → j ∈ p.slices →
    8 ≤ (sliceAt g j).stack.length + (sliceAt g j).spilled →
    (∃ l ∈ lanesHere g j, l ∈ active g p gd) → (∃ l ∈ lanesHere g j, l ∉ active g p gd) →
    p.join = none → p.pc.toNat + 4 < (p.pc + BitVec.ofInt 64 (4 * o.toInt)).toNat →
    ∃ t : Trap, t.cause = 0x0F ∧ exec (.bra y gd o) s = .next (takeTrap s g p t none)) ∧
  (∀ (s u v : State) (gid sid : Nat) (g : Group) (p : Split), choose (beginStep s) = (.issue gid sid, u) →
    v = notePick (beginIssue u gid sid) gid sid → curSplit v = some (g, p) → isReady g p = true →
    (wgOf v g.launch g.wg).stopping = false → hasLate g p = false → p.hints.words = [] → p.slices.Nodup →
    (∀ j ∈ p.slices, j < g.slices.length ∧ (sliceAt g j).spilled = 0 ∧ (sliceAt g j).mask ≠ 0) →
    (∃ j ∈ p.slices, ∃ e r, (sliceAt g j).stack = e :: r ∧ e.join = some p.pc) →
    ∃ h, step s = .next (putGroup v h) ∧
      h = { g with slices := h.slices, splits := h.splits, forks := h.forks, nextFork := h.nextFork, nextSplit := h.nextSplit } ∧
      (∀ j, j ∉ p.slices → sliceAt h j = sliceAt g j) ∧
      (∀ j ∈ p.slices, ∀ e r, (sliceAt g j).stack = e :: r → e.join = some p.pc → e.pending ≠ 0 →
        sliceAt h j = { sliceAt g j with mask := e.pending, stack := { e with pending := 0 } :: r } ∧
        ∃ q ∈ h.splits, j ∈ q.slices ∧ q.pc = e.pendingPc ∧ q.fmt = e.fmt) ∧
      (∀ j ∈ p.slices, ∀ e r, (sliceAt g j).stack = e :: r → e.join = some p.pc → e.pending = 0 →
        e.saved &&& (sliceAt g j).live ≠ 0 → (∀ e2, r.head? = some e2 → e2.join ≠ some p.pc) →
        sliceAt h j = { sliceAt g j with mask := e.saved &&& (sliceAt g j).live, stack := r } ∧
        ∃ q ∈ h.splits, j ∈ q.slices ∧ q.pc = p.pc ∧ q.fmt = e.fmt) ∧
      ∀ j ∈ p.slices, (∀ e, (sliceAt g j).stack.head? = some e → e.join ≠ some p.pc) →
        sliceAt h j = sliceAt g j ∧ ∃ q ∈ h.splits, j ∈ q.slices ∧ q.pc = p.pc) ∧
  (∀ (s : State) (g : Group) (p : Split) (y : Bool), Issues s g p {} →
    (forkOf g p = none → exec (.regang y) s = .next (finish s g p y)) ∧
    (∀ f, forkOf g p = some f → f.join ≠ none → f.join ≠ some p.pc → exec (.regang y) s = .next (finish s g p y)) ∧
    (∀ f h, forkOf g p = some f → (f.join = none ∨ f.join = some p.pc) →
      h = putSplit g { p with wait := .regang p.pc, ypark := y, hints := {}, redo := none } →
      exec (.regang y) s = .next (putGroup s (mergeAll h)) ∧
      (mergeable h = none → mergeAll h = h) ∧
      (h.forks = [f] → f.parent = none → (h.splits.map (·.id)).Nodup →
        (∀ q ∈ h.splits, q.fork = some f.id → q.wait = .regang p.pc) →
        (∀ j ∈ f.slices, (sliceAt h j).live ≠ 0 → ∃ q ∈ h.splits, q.fork = some f.id ∧ j ∈ q.slices) →
        ∃ q, mergeAll h = { h with splits := (h.splits.filter fun x => x.fork != some f.id) ++ [q], forks := [] } ∧
          q.pc = p.pc + 4 ∧ q.fmt = f.fmt ∧ q.fork = none ∧ q.wait = .ready ∧
          ∀ j, j ∈ q.slices ↔ j < h.slices.length ∧ ∃ x ∈ h.splits, x.fork = some f.id ∧ j ∈ x.slices)))

/-- R63, R64, R244, R247, R249, R410: TRAP takes the trap: the fault registers record it, the state to resume is saved, and the
split goes on at the handler with its low two bits 0. No other register and no byte of memory changes. With no active lane it
only passes on. R247: a trap first waits for the split's outstanding long results: known ones are written, and while others are
left the split waits, keeping the trap. R250: a trap in a workgroup without a handler, or in trap state, is fatal: the launch
ends, with the first fatal cause, this one where there was none before. That its groups are gone at once is log entry 39's; that
a TRAP_BASE of 1 to 3 has its handler at address 0 is log entry 50's. -/
def Obligations.TrapEntryResults : Prop :=
  (∀ (s : State) (g : Group) (p : Split) (y : Bool) (gd : Guard) (c : BitVec 13), Issues s g p {} →
    (active g p gd = [] → exec (.trap y gd c) s = .next (finish s g p y)) ∧
    (active g p gd ≠ [] → outstanding g p = [] → p.resume = none → (wgOf s g.launch g.wg).trapBase ≠ 0 → p.redo = none →
      exec (.trap y gd c) s = .next (putGroup s (putSplit g
        { p with flt := { cause := 0x10, pc := startPc p, addr := 0, lanes := laneBits (active g p gd), progress := 0,
                          info := c.setWidth 64 },
                 resume := some { masks := p.slices.map fun j => (j, (sliceAt g j).mask), fmt := p.fmt, join := p.join,
                                  after := p.pc + 4, redo := none, late := false, progress := 0, later := p.later },
                 pc := (wgOf s g.launch g.wg).trapBase &&& ~~~ 3#64, hints := {}, wait := .ready, ypark := false, age := 0,
                 redo := none, progress := 0, captured := [], later := [] })))) ∧
  (∀ (s : State) (g : Group) (p : Split) (y : Bool) (gd : Guard) (c : BitVec 13), Issues s g p {} → active g p gd ≠ [] →
    outstanding g p ≠ [] → (∀ r ∈ outstanding g p, r.kind ≠ .value ∧ isLate r = false) →
    ∃ t : Trap, t.cause = 0x10 ∧ exec (.trap y gd c) s = .next (putGroup s (putSplit g { p with wait := .drain t none }))) ∧
  (∀ (s : State) (g : Group) (p : Split) (y : Bool) (gd : Guard) (c : BitVec 13), Issues s g p {} → active g p gd ≠ [] →
    outstanding g p = [] → ((wgOf s g.launch g.wg).trapBase = 0 ∨ p.resume.isSome) →
    (launchOf s g.launch).id = g.launch → (launchOf s g.launch).completed = false →
    ∃ t, exec (.trap y gd c) s = .next t ∧ (∀ h ∈ t.sched.groups, h.launch ≠ g.launch) ∧
      ∀ l ∈ t.sched.launches, l.id = g.launch → l.completed = true ∧ l.fatal = some ((launchOf s g.launch).fatal.getD 0x10))

/-- R248, R249, R410: TRAPRET in trap state, with the masks as the trap recorded them, restores FMT and the join register and
goes on after the instruction, or executes it again, and what the instructions from there on had moved already stays moved;
elsewhere, and with other masks, it is the illegal-instruction trap. -/
def Obligations.TrapReturnResults : Prop :=
  ∀ (s : State) (g : Group) (p : Split) (y : Bool) (r : Resume), Issues s g p {} → (y = false ∨ outstanding g p = []) →
    (p.resume = some r → r.masks = p.slices.map (fun j => (j, (sliceAt g j).mask)) →
      exec (.trapret y .after) s = .next (putGroup s (putSplit g { p with
        fmt := r.fmt, join := r.join, resume := none, hints := {}, age := 0, pc := r.after, ypark := false,
        progress := (r.later.headD {}).count, captured := (r.later.headD {}).data, redo := (r.later.headD {}).redo,
        later := r.later.drop 1 })) ∧
      exec (.trapret y .again) s = .next (putGroup s (putSplit g { p with
        fmt := r.fmt, join := r.join, resume := none, hints := {}, age := 0, pc := p.flt.pc, ypark := false,
        progress := r.progress, later := r.later, redo := r.redo.map fun l => (l, if r.late then some r.after else none) }))) ∧
    (p.resume = none ∨ (p.resume = some r ∧ r.masks ≠ p.slices.map fun j => (j, (sliceAt g j).mask)) →
      ∀ m, ∃ t : Trap, t.cause = 0x01 ∧ exec (.trapret y m) s = .next (takeTrap s g p t none))

/-- R39, R352: EXIT of some lanes, none of whose slices is left without a running lane: those lanes leave the masks and the
saved and pending masks of their slices, and the split goes on after it. With no active lane it only passes on. With Y it first
waits for the split's outstanding results. R39: EXIT of the last lanes of a group retires the group: no group of its number is
left. -/
def Obligations.ExitResults : Prop :=
  (∀ (s : State) (g : Group) (p : Split) (y : Bool) (gd : Guard), Issues s g p {} →
    (active g p gd = [] → exec (.exit y gd) s = .next (finish s g p y)) ∧
    (active g p gd ≠ [] → y = true → outstanding g p ≠ [] →
      exec (.exit y gd) s = .next (putGroup s (putSplit g { backTo p .ready with ypark := true }))) ∧
    (active g p gd ≠ [] → (y = false ∨ outstanding g p = []) → p.wait = .ready →
      (∀ j ∈ p.slices, j < g.slices.length ∧ (sliceAt g j).mask &&& ~~~ sliceMask j (active g p gd) ≠ 0 ∧
        (sliceAt g j).live &&& (sliceAt g j).mask = (sliceAt g j).mask) → g.forks = [] → p.slices ≠ [] →
      ∃ t h, exec (.exit y gd) s = .next t ∧ findGroup t g.id = some h ∧
        (∀ j, sliceAt h j = retireSlice (sliceMask j (active g p gd)) (sliceAt g j)) ∧
        (∃ q ∈ h.splits, q.id = p.id ∧ q.pc = nextPc p ∧ q.slices = p.slices) ∧
        h.v = g.v ∧ h.s = g.s ∧ h.p = g.p ∧ h.q = g.q ∧ h.x = g.x ∧ t.ms.mem = s.ms.mem)) ∧
  (∀ (s : State) (g : Group) (p : Split) (y : Bool) (gd : Guard), Issues s g p {} → active g p gd ≠ [] →
    (y = false ∨ outstanding g p = []) → g.splits = [p] → g.forks = [] →
    (∀ j, (sliceAt g j).live &&& ~~~ sliceMask j (active g p gd) = 0) →
    ∃ t, exec (.exit y gd) s = .next t ∧ ∀ h ∈ t.sched.groups, h.id ≠ g.id)

/-- R46, R49, R131, R386: PUB, after a release at the chain's scope, publishes a slot of each active lane's item, to its group and
to the Relay, and splits that wait for a forwarded operand look again. While its release has to wait, it is held, and where no
port is up that is log entry 16's choice. With no active lane it only passes on. R46, R244: PUB of a slot already published,
of a slot the launch does not declare, or in a launch that is not chained, is the chain-error trap. -/
def Obligations.PublishResults : Prop :=
  (∀ (s : State) (g : Group) (p : Split) (y : Bool) (gd : Guard) (n : BitVec 6) (sl : BitVec 2), Issues s g p {} →
    (active g p gd = [] → exec (.pub y gd n sl) s = .next (finish s g p y)) ∧
    (active g p gd ≠ [] → VOk g (active g p gd) [n.toNat] → (launchOf s g.launch).desc.kmax ≠ 0 →
      sl.toNat < (launchOf s g.launch).desc.slots → (∀ l ∈ active g p gd, mget? (l * 4 + sl.toNat) g.published = none) →
      (relHeld s g (active g p gd) (launchOf s g.launch).desc.chainScope = true →
        exec (.pub y gd n sl) s = .next (hold s g p)) ∧
      (relHeld s g (active g p gd) (launchOf s g.launch).desc.chainScope = false →
      ∃ pubs, exec (.pub y gd n sl) s = .next (wakeForwarded (finish ((active g p gd).foldl
          (fun v l => relayPut v g.launch ⟨g.itemBase.toNat + l, sl.toNat, aVal g l n, [(g.core, g.id)]⟩)
          (releaseAt s g.core g.id (launchOf s g.launch).desc.chainScope)) { g with published := pubs } p y) g.launch) ∧
        (∀ l ∈ active g p gd, mget? (l * 4 + sl.toNat) pubs = some (aVal g l n)) ∧
        ∀ k, (∀ l ∈ active g p gd, k ≠ l * 4 + sl.toNat) → mget? k pubs = mget? k g.published))) ∧
  (∀ (s : State) (g : Group) (p : Split) (y : Bool) (gd : Guard) (n : BitVec 6) (sl : BitVec 2), Issues s g p {} →
    active g p gd ≠ [] → VOk g (active g p gd) [n.toNat] →
    ((launchOf s g.launch).desc.kmax = 0 ∨ (launchOf s g.launch).desc.slots ≤ sl.toNat ∨
      ∃ l ∈ active g p gd, (mget? (l * 4 + sl.toNat) g.published).isSome) →
    ∃ t : Trap, t.cause = 0x0E ∧ exec (.pub y gd n sl) s = .next (takeTrap s g p t none))

/-! ## Memory -/

/-- R8, R91, R92, R254, R300, R373 to R376: LD, where its registers and addresses pass their checks, issues its parts in lane
order; its result becomes outstanding, no register is written yet, and no byte of memory changes. R374, R376: an LD of one lane
in device memory that neither Vellum, a view nor poison touches holds the bytes the core's caches give it, extended as its
suffix says. -/
def Obligations.LoadResults : Prop :=
  (∀ (s : State) (g : Group) (p : Split) (y : Bool) (gd : Guard) (d a : BitVec 6) (b : BitVec 5) (n : MemSize) (x : Bool)
    (ls : List Nat) (as : List (Nat × Nat)) (xs : List (Nat × Nat × Attr)),
    Issues s g p { rc := true, pol := true, imms := 2 } → ls = active g p gd → as = laneAccesses g p a b ls →
    VOk g ls (a.toNat :: dataRegs d (memBytes n)) → (ls = [] ∨ SOk g [2 * b.toNat, 2 * b.toNat + 1]) →
    Reaches s g .read true false (memBytes n) as xs →
    ∃ u h, startLoad (noteAll s (whoOf s g) (as.map (·.2))) g p ls
        (lanePart (eff g d.toNat) (memBytes n) x (polOf s g p) 0 as xs) = (u, h) ∧
      exec (.ld y gd d a b n x) s = .next (finish u h p y) ∧
      h = { g with pend := h.pend, vstale := h.vstale } ∧ (NoForwarding s.ms → KeepsBytes s.ms u.ms fun _ => False)) ∧
  (∀ (s u : State) (g h : Group) (p : Split) (l e n va pa : Nat) (sx : Bool) (pol : Pol) (at_ : Attr),
    isVellum pa = false → viewParts s pa n = [] → 0 < n → pa % 128 + n ≤ 128 →
    loadPoison (loadLine s.clock.ps g.core at_ pol (lineOf pa) s.ms).1 g.core pa n = [] →
    startLoad s g p [l] (lanePart e n sx pol 0 [(l, va)] [(l, pa, at_)]) = (u, h) →
    h = addPend g [{ knownResult p [l] ((List.range (max 1 (n / 4))).map fun k =>
      (l * 256 + (e + k), loadedWord n sx (leNat (sliceOf
        (loadLine s.clock.ps g.core at_ pol (lineOf pa) s.ms).2 (pa % 128) n)) k)) [] with next := p.pc + 4 }])

/-- R404, R405: ST, where its registers and addresses pass their checks, stores each lane's bytes at that lane's physical
address; every other byte of memory, and every register, is as it was. -/
def Obligations.StoreResults : Prop :=
  ∀ (s : State) (g : Group) (p : Split) (y : Bool) (gd : Guard) (d a : BitVec 6) (b : BitVec 5) (n : MemSize)
    (ls : List Nat) (as : List (Nat × Nat)) (xs : List (Nat × Nat × Attr)),
    Issues s g p { pol := true, imms := 2 } → ls = active g p gd → as = laneAccesses g p a b ls →
    VOk g ls (a.toNat :: dataRegs d (memBytes n)) → (ls = [] ∨ SOk g [2 * b.toNat, 2 * b.toNat + 1]) →
    Reaches s g .write false true (memBytes n) as xs →
    ∃ u, u = storeLanes (noteAll s (whoOf s g) (as.map (·.2))) g (polOf s g p) xs
        (fun l => storeData g l (eff g d.toNat) (memBytes n)) ∧
      exec (.st y gd d a b n) s = .next (finish u g p y) ∧
      (NoForwarding s.ms → KeepsBytes s.ms u.ms fun c => ∃ x ∈ xs, x.2.1 ≤ c ∧ c < x.2.1 + memBytes n)

/-- R91, R92, R244: a misaligned lane of LD or ST is the misalignment trap of exactly the failing lanes, with the lowest of
their addresses, before any other check of the address. R256, R258: an LD whose lanes meet a translation fault and no trap parks
the split at the instruction, to execute again, with no lane's access made and no register written. That the address is the
lowest, and not the lowest lane's, is log entry 51's reading. -/
def Obligations.AccessTrapResults : Prop :=
  (∀ (s : State) (g : Group) (p : Split) (y : Bool) (gd : Guard) (d a : BitVec 6) (b : BitVec 5) (n : MemSize) (x : Bool)
    (ls bad : List Nat), Issues s g p { pol := true, imms := 2 } → ls = active g p gd →
    VOk g ls (a.toNat :: dataRegs d (memBytes n)) → SOk g [2 * b.toNat, 2 * b.toNat + 1] →
    bad = ls.filter (fun l => decide (laneAddress g p a b l % memBytes n ≠ 0)) → bad ≠ [] →
    ∃ t : Trap, t.cause = 0x0C ∧ t.lanes = laneBits bad ∧
      (∃ l ∈ bad, t.addr = BitVec.ofNat 64 (laneAddress g p a b l)) ∧
      (∀ l ∈ bad, t.addr.toNat ≤ laneAddress g p a b l) ∧
      exec (.ld y gd d a b n x) s = .next (takeTrap s g p t none) ∧
      exec (.st y gd d a b n) s = .next (takeTrap s g p t none)) ∧
  (∀ (s : State) (g : Group) (p : Split) (y : Bool) (gd : Guard) (d a : BitVec 6) (b : BitVec 5) (n : MemSize) (x : Bool)
    (ls : List Nat) (va level : Nat) (bad : BitVec 128), Issues s g p { rc := true, pol := true, imms := 2 } →
    ls = active g p gd → VOk g ls (a.toNat :: dataRegs d (memBytes n)) → SOk g [2 * b.toNat, 2 * b.toNat + 1] →
    checkLanes s (whoOf s g) .read false 1 (memBytes n) (memBytes n) (laneAccesses g p a b ls) = .park va level bad →
    ∃ t q tr, exec (.ld y gd d a b n x) s = .next t ∧ t.ms.mem = s.ms.mem ∧ t.ms.cache.l1 = s.ms.cache.l1 ∧
      t.ms.cache.team = s.ms.cache.team ∧ curSplit t = some (putSplit g q, q) ∧
      q = { p with pc := startPc p, hints := {}, wait := q.wait } ∧
      q.wait = .replay (dieOf g.core) (launchOf s g.launch).asid (va % 2 ^ 57 / 65536) tr (p.pc + 4) ∧
      tr.cause = 0x0B ∧ tr.lanes = bad ∧ tr.addr = BitVec.ofNat 64 va ∧ tr.info = 3 + 16 * 1)

/-- R24, R90, R91, R373 to R376: LDA reads the A-store window of the workgroup, and LDC the C-store tiles of its core, where no
tile is still open; the result is outstanding with its value, and nothing else changes. R24, R90, R91, R404, R405: STA and STC,
where no two active lanes name one address and no tile is open: each lane's bytes are in place after, every other typed byte,
all of memory and every register are as they were. -/
def Obligations.TypedAccessResults : Prop :=
  (∀ (s : State) (g : Group) (p : Split) (y : Bool) (gd : Guard) (d a : BitVec 6) (b : BitVec 5) (n : MemSize) (x : Bool)
    (ls : List Nat) (w : Workgroup) (result : (Nat → List Byte) → LongResult),
    Issues s g p { imms := 2 } → ls = active g p gd → w = wgOf s g.launch g.wg →
    VOk g ls (a.toNat :: dataRegs d (memBytes n)) → (ls = [] ∨ SOk g [2 * b.toNat, 2 * b.toNat + 1]) →
    (∀ l ∈ ls, laneAddress g p a b l % memBytes n = 0) → fenceHolds s g ls [] = false →
    (∀ f, result f = knownResult p ls (ls.flatMap fun l => (List.range ((memBytes n + 3) / 4)).map fun k =>
      (l * 256 + eff g d.toNat + k, loadedWord (memBytes n) x (leNat (f l)) k)) []) →
    ((∀ l ∈ ls, laneAddress g p a b l + memBytes n ≤ aWindow w) →
      exec (.lda y gd d a b n x) s = .next (finish s (addPend g
        [result fun l => aRead s w (laneAddress g p a b l) (memBytes n)]) p y)) ∧
    ((∀ l ∈ ls, laneAddress g p a b l + memBytes n ≤ cWindow s g ∧
        openTile s g (laneAddress g p a b l) (memBytes n) = false) →
      exec (.ldc y gd d a b n x) s = .next (finish s (addPend g
        [result fun l => (List.range (memBytes n)).map fun i =>
          mget 0 (cKey s g (laneAddress g p a b l + i)) s.cores.cstore]) p y))) ∧
  (∀ (s : State) (g : Group) (p : Split) (y : Bool) (gd : Guard) (d a : BitVec 6) (b : BitVec 5) (n : MemSize)
    (ls : List Nat) (w : Workgroup), Issues s g p { imms := 2 } → ls = active g p gd → w = wgOf s g.launch g.wg →
    VOk g ls (a.toNat :: dataRegs d (memBytes n)) → (ls = [] ∨ SOk g [2 * b.toNat, 2 * b.toNat + 1]) →
    (∀ l ∈ ls, laneAddress g p a b l % memBytes n = 0) → fenceHolds s g ls [] = false →
    (ls.map (laneAddress g p a b)).Nodup →
    ((∀ l ∈ ls, laneAddress g p a b l + memBytes n ≤ aWindow w) →
      (∀ c ∈ w.cores, mget 0 c w.aBase + w.aBytes ≤ 2 ^ 24) → w.cores.Nodup →
      ∃ m gs h, exec (.sta y gd d a b n) s = .next (finish { s with
          cores := { s.cores with astore := m }, sched := { s.sched with groups := gs } } h p y) ∧
        h = { g with touchedA := h.touchedA } ∧
        (gs.map fun q => { q with foreignA := [] }) = (s.sched.groups.map fun q => { q with foreignA := [] }) ∧
        (∀ l ∈ ls, ∀ i < memBytes n, mget 0 (bufKey (aPlace w (laneAddress g p a b l + i)).1
          (aPlace w (laneAddress g p a b l + i)).2) m = (storeData g l (eff g d.toNat) (memBytes n)).getD i 0) ∧
        ∀ k, (∀ l ∈ ls, ∀ i < memBytes n, k ≠ bufKey (aPlace w (laneAddress g p a b l + i)).1
          (aPlace w (laneAddress g p a b l + i)).2) → mget 0 k m = mget 0 k s.cores.astore) ∧
    ((∀ l ∈ ls, laneAddress g p a b l + memBytes n ≤ cWindow s g ∧
        openTile s g (laneAddress g p a b l) (memBytes n) = false) →
      ∃ m, exec (.stc y gd d a b n) s = .next (finish { s with cores := { s.cores with cstore := m } } g p y) ∧
        (∀ l ∈ ls, ∀ i < memBytes n, mget 0 (cKey s g (laneAddress g p a b l + i)) m =
          (storeData g l (eff g d.toNat) (memBytes n)).getD i 0) ∧
        ∀ k, (∀ l ∈ ls, ∀ i < memBytes n, k ≠ cKey s g (laneAddress g p a b l + i)) →
          mget 0 k m = mget 0 k s.cores.cstore))

/-- R257, R377, R378, R406: LDM and STM, where every register's address passes its checks, move the registers still to be moved,
a register of all lanes before the next. LDM's results are those of a load of a word for each register and lane, which become
outstanding; no byte of memory changes. STM stores each lane's words, those its first issue captured or else its registers; every
other byte is as it was. No register changes yet. -/
def Obligations.MultiWordResults : Prop :=
  ∀ (s v : State) (g : Group) (p : Split) (y : Bool) (gd : Guard) (d a : BitVec 6) (b : BitVec 5) (c : BitVec 4)
    (ls is : List Nat) (as : List (Nat × Nat)) (rs : List (Nat × List (Nat × Nat × Attr))) (ps : List LoadPart),
    ls = active g p gd → as = laneAccesses g p a b ls →
    VOk g ls (a.toNat :: (List.range (c.toNat + 1)).map (· + d.toNat)) → (ls = [] ∨ SOk g [2 * b.toNat, 2 * b.toNat + 1]) →
    (∀ l ∈ ls, laneAddress g p a b l % 4 = 0) →
    is = (if ls = [] then [] else (List.range (c.toNat + 1)).filter fun i => decide (p.progress ≤ i)) →
    (Issues s g p { rc := true, pol := true, imms := 2 } → scanWords s g .read false as is = (rs, .whole) →
      v = rs.foldl (fun w x => noteAll w (whoOf w g) (as.map fun z => (z.2 + 4 * x.1) % 2 ^ 64)) s →
      ps = rs.flatMap (fun x => lanePart (eff g d.toNat + x.1) 4 false (polOf v g p) x.1
        (as.map fun z => (z.1, (z.2 + 4 * x.1) % 2 ^ 64)) x.2) →
      ∃ u h, exec (.ldm y gd d a b c) s = .next (finish u h p y) ∧ rs.map (·.1) = is ∧
        (ps = [] → u = v ∧ h = g) ∧ (ps ≠ [] → (u, h) = startLoad v g p ls ps ∧ ∃ q, q ≠ [] ∧ pendBut h.pend = pendBut (g.pend ++ q)) ∧
        h = { g with pend := h.pend, vstale := h.vstale } ∧ (NoForwarding s.ms → KeepsBytes s.ms u.ms fun _ => False)) ∧
    (Issues s g p { pol := true, imms := 2 } → scanWords s g .write true as is = (rs, .whole) →
      ∀ word : Nat → Nat → Word, (∀ l i, word l i =
        ((p.captured.find? fun x => x.1 == l * 16 + i).map (·.2)).getD (getV g l (eff g d.toNat + i))) →
      ∃ u, exec (.stm y gd d a b c) s = .next (finish u g p y) ∧ rs.map (·.1) = is ∧
        u = rs.foldl (fun w x => storeLanes (noteAll w (whoOf w g) (as.map fun z => (z.2 + 4 * x.1) % 2 ^ 64)) g (polOf w g p)
          x.2 fun l => leBytes 4 (word l x.1).toNat) s ∧
        (NoForwarding s.ms → KeepsBytes s.ms u.ms fun k => ∃ x ∈ rs, ∃ z ∈ x.2, z.2.1 ≤ k ∧ k < z.2.1 + 4))

/-- R55, R91, R92, R254, R300, R400: SLD and SST of a word or a pair, where the address passes its checks. SLD's result becomes
outstanding for the split's enabled lanes, and no byte of memory changes: in device memory that neither Vellum, a view nor poison
touches it is Sd, or Sd and Sd+1, at the bytes the core's caches give at the address. SST stores Sd, or the pair, there, and no
other byte; that a peer write of it is every enabled lane's is log entry 57's choice. -/
def Obligations.ScalarMemoryResults : Prop :=
  ∀ (s : State) (g : Group) (p : Split) (y : Bool) (gd : Guard) (d : BitVec 9) (b : BitVec 5) (i : BitVec 6) (z : Bool)
    (n va : Nat) (xs : List (Nat × Nat × Attr)), guardQ g gd = true → n = (if z then 8 else 4) →
    va = (getS64 g (2 * b.toNat) + BitVec.ofInt 64 (4 * if p.hints.himm = [] then (i.toNat : Int) else built p.hints.himm i)).toNat →
    SOk g ([d.toNat, 2 * b.toNat, 2 * b.toNat + 1] ++ if z then [d.toNat + 1] else []) →
    (Issues s g p { rc := true, pol := true, imms := 2 } →
      checkObject s (whoOf s g) (laneBits (enabled g p)) .read false 1 n n va = .ok xs →
      watchTrap s g true false n [(0, va)] = none → fenceHolds s g (enabled g p) [(va, n)] = false →
      ∃ u h, exec (.sld y gd d b i z) s = .next (finish u h p y) ∧ h = { g with pend := h.pend, vstale := h.vstale } ∧
        (∃ r, pendBut h.pend = pendBut (g.pend ++ r) ∧ r ≠ []) ∧ (NoForwarding s.ms → KeepsBytes s.ms u.ms fun _ => False) ∧
        ∀ (v : State) (l pa : Nat) (at_ : Attr) (ld : MemSys × List Byte), xs = [(l, pa, at_)] → v = noteAll s (whoOf s g) [va] →
          isVellum pa = false → viewParts v pa n = [] → pa % 128 + n ≤ 128 →
          ld = loadLine v.clock.ps g.core at_ (polOf v g p) (lineOf pa) v.ms → loadPoison ld.1 g.core pa n = [] →
          u = putMs v ld.1 ∧
          h = addPend g [{ knownResult p (enabled g p) [] ((List.range (n / 4)).map fun k => (d.toNat + k,
            BitVec.ofNat 32 (leNat (sliceOf ld.2 (pa % 128) n) / 2 ^ (32 * k)))) with next := p.pc + 4 }]) ∧
    (Issues s g p { pol := true, imms := 2 } →
      checkObject s (whoOf s g) (laneBits (enabled g p)) .write false 2 n n va = .ok xs →
      watchTrap s g false true n [(0, va)] = none → fenceHolds s g (enabled g p) [(va, n)] = false →
      ∃ u, exec (.sst y gd d b i z) s = .next (finish u g p y) ∧
        u = storeLanes (noteAll s (whoOf s g) [va]) g (polOf s g p) xs
          (fun _ => leBytes n (if z then (getS64 g d.toNat).toNat else (getS g d.toNat).toNat)) (some (enabled g p)) ∧
        (NoForwarding s.ms → KeepsBytes s.ms u.ms fun c => ∃ x ∈ xs, x.2.1 ≤ c ∧ c < x.2.1 + n))

/-- R117, R118, R121, R327 to R330: ATOM and ATOMC, where their registers and addresses pass their checks, no release has to
wait and no poison is met, are executed for every active lane; each lane's old value becomes outstanding, but for an ATOM.st,
which has no result. No byte changes but those at the lanes' addresses and those of active messages posted before, which a
release performs. For one lane in device memory, no cache, write-combining buffer or pin holding anything: the old value is the
one at the home, and the core then reads the new one: of the operation, for an ATOMC of its third operand where the old value is
the one compared with. R328: what an operation writes, of the old value and the operand: sums wrap, minimum and maximum are
signed. That an atomic releases before it reads is log entry 18's reading. -/
def Obligations.AtomicResults : Prop :=
  (∀ (s : State) (g : Group) (p : Split) (y : Bool) (gd : Guard) (d a n : BitVec 6) (o : AtomOp) (r : AtomOrd) (sc : Scope)
    (z : Bool) (ls : List Nat) (as : List (Nat × Nat)) (xs : List (Nat × Nat × Attr)) (k : Nat) (out : Nat → Prop)
    (result : Group → Prop),
    Issues s g p {} → ls = active g p gd → k = (if z then 8 else 4) →
    as = ls.map (fun l => (l, (pairVal g l a).toNat)) → NoPoison s.ms → (∀ c, relHeld s g ls c = false) →
    (out = fun c => (∃ x ∈ xs, x.2.1 ≤ c ∧ c < x.2.1 + k) ∨ ∃ m ∈ s.ms.cache.amsgs, m.pa ≤ c ∧ c < m.pa + m.size) →
    (∀ h, result h ↔ ∃ (q : LongResult) (old : Nat → Nat), pendBut h.pend = pendBut (g.pend ++ [q]) ∧ q.kind = .value ∧ q.lanes = laneBits ls ∧
      ∀ w, w ∈ q.v ↔ ∃ l ∈ ls, ∃ j < k / 4, w = (l * 256 + eff g d.toNat + j, BitVec.ofNat 32 (old l / 2 ^ (32 * j)))) →
    (VOk g ls ([a.toNat, a.toNat + 1] ++ dataRegs d k) →
      Reaches s g (if o = .ld then .atomicRead else .atomic) (o != .st) (o != .ld) k as xs →
      ∃ u h, exec (.atom y gd d a o r sc z) s = .next (finish u h p y) ∧
        h = { g with pend := h.pend, touchedA := h.touchedA, foreignA := h.foreignA } ∧
        (o = .st ∨ ls = [] → h.pend = g.pend) ∧ (o ≠ .st → ls ≠ [] → result h) ∧
        (NoForwarding s.ms → KeepsBytes s.ms u.ms out)) ∧
    (VOk g ls ([a.toNat, a.toNat + 1] ++ dataRegs d k ++ dataRegs n k) → Reaches s g .atomic true true k as xs →
      ∃ u h, exec (.atomc y gd d a n sc z) s = .next (finish u h p y) ∧
        h = { g with pend := h.pend, touchedA := h.touchedA, foreignA := h.foreignA } ∧
        (ls = [] → h.pend = g.pend) ∧ (ls ≠ [] → result h) ∧ (NoForwarding s.ms → KeepsBytes s.ms u.ms out))) ∧
  (∀ (s : State) (g : Group) (p : Split) (y : Bool) (gd : Guard) (d a n : BitVec 6) (o : AtomOp) (r : AtomOrd) (sc : Scope)
    (z : Bool) (l pa k old x : Nat) (at_ : Attr) (reads : State → List Byte) (res : List (Nat × Word)),
    Issues s g p {} → active g p gd = [l] → k = (if z then 8 else 4) → NoPoison s.ms → NoForwarding s.ms →
    loadsOut g [l] = false → (physOf false pa).isDram = true → at_.cm = 0 → at_.n = false → s.ms.dram.nRanges = [] →
    pa % 128 + k ≤ 128 → s.ms.cache.l1 = [] → s.ms.cache.team = [] → s.ms.cache.wc = [] → s.ms.cache.homePins = [] →
    s.ms.cache.teamPins = [] → s.ms.cache.amsgs = [] → s.ms.cache.peerWrites = [] →
    old = leNat (readHome s.ms pa k) → x = leNat (storeData g l (eff g d.toNat) k) →
    (∀ u, reads u = sliceOf (fetchLine u.clock.ps g.core at_ {} false (lineOf pa) u.ms).2 (pa % 128) k) →
    res = ((List.range (k / 4)).map fun j => (l * 256 + eff g d.toNat + j, BitVec.ofNat 32 (old / 2 ^ (32 * j)))) →
    (VOk g [l] ([a.toNat, a.toNat + 1] ++ dataRegs d k) →
      Reaches s g (if o = .ld then .atomicRead else .atomic) (o != .st) (o != .ld) k [(l, (pairVal g l a).toNat)] [(l, pa, at_)] →
      ∃ u h, exec (.atom y gd d a o r sc z) s = .next (finish u h p y) ∧
        (o ≠ .st → h = addPend (if r = .acq ∨ r = .ar then acquireWindow g else g) [knownResult p [l] res []]) ∧ reads u = leBytes k (rmw o k old x)) ∧
    (VOk g [l] ([a.toNat, a.toNat + 1] ++ dataRegs d k ++ dataRegs n k) →
      Reaches s g .atomic true true k [(l, (pairVal g l a).toNat)] [(l, pa, at_)] →
      ∃ u h, exec (.atomc y gd d a n sc z) s = .next (finish u h p y) ∧
        h = addPend (acquireWindow g) [knownResult p [l] res []] ∧
        reads u = (if old = x then storeData g l (eff g n.toNat) k else leBytes k old))) ∧
  (∀ old x : Word,
    rmw .add 4 old.toNat x.toNat = (old + x).toNat ∧ rmw .min 4 old.toNat x.toNat = (sMin old x).toNat ∧
    rmw .max 4 old.toNat x.toNat = (sMax old x).toNat ∧ rmw .and 4 old.toNat x.toNat = (old &&& x).toNat ∧
    rmw .or 4 old.toNat x.toNat = (old ||| x).toNat ∧ rmw .xor 4 old.toNat x.toNat = (old ^^^ x).toNat ∧
    rmw .exch 4 old.toNat x.toNat = x.toNat ∧ rmw .st 4 old.toNat x.toNat = x.toNat ∧ rmw .ld 4 old.toNat x.toNat = old.toNat)

/-- R117, R119, R323, R324: AMSG posts one message for each active lane, with the value its register pair holds; no register and
no byte of memory changes yet. A posted message waits while an earlier one of its lane goes to its slice; else it is gone, and
has performed its operation at the home, on the value there and its own, with every other byte as it was; where an atom it
acts on is poisoned, no byte changes. R323: what an active message writes, of the old value and its own: sums wrap, minimum
and maximum are signed, and fadd adds FP32 numbers. -/
def Obligations.ActiveMessageResults : Prop :=
  (∀ (s : State) (g : Group) (p : Split) (y : Bool) (gd : Guard) (a : BitVec 5) (o : AmsgOp) (z : AmsgSize)
    (ls : List Nat) (as : List (Nat × Nat)) (xs : List (Nat × Nat × Attr)) (n : Nat),
    Issues s g p {} → ls = active g p gd → n = (match z with | .b8 => 1 | .b16 => 2 | .b32 => 4 | .b64 => 8) →
    as = ls.map (fun l => (l, (pairVal g l (a ++ 0#1)).toNat)) →
    VOk g ls ((List.range (if n = 8 then 4 else 3)).map (· + 2 * a.toNat)) →
    checkLanes s (whoOf s g) .amsg true 3 n n as = .ok xs → watchTrap s g true true n as = none →
    fenceHolds s g ls (rangesOf n as) = false →
    ∃ u, exec (.amsg y gd a o z) s = .next (finish u g p y) ∧
      u.ms.cache.amsgs = s.ms.cache.amsgs ++ xs.map (fun x => Amsg.mk g.id x.1 g.core x.2.1 o n
        (getV g x.1 (eff g (2 * a.toNat + 3)) ++ getV g x.1 (eff g (2 * a.toNat + 2)))) ∧
      (NoForwarding s.ms → KeepsBytes s.ms u.ms fun _ => False)) ∧
  (∀ (s : State) (k : Nat) (m : Amsg), s.ms.cache.amsgs[k]? = some m →
    ((∃ e ∈ s.ms.cache.amsgs.take k, e.group = m.group ∧ e.lane = m.lane ∧ sliceNo e.pa = sliceNo m.pa) →
      exec (.amsgExecute k) s = .next s) ∧
    ((∀ e ∈ s.ms.cache.amsgs.take k, ¬ (e.group = m.group ∧ e.lane = m.lane ∧ sliceNo e.pa = sliceNo m.pa)) →
      ∃ t, exec (.amsgExecute k) s = .next t ∧ t.ms.cache.amsgs = dropNth k s.ms.cache.amsgs ∧
        (NoForwarding s.ms → KeepsBytes s.ms t.ms fun c => m.pa ≤ c ∧ c < m.pa + m.size) ∧
        (s.ms.cache.homePins = [] → (physOf false m.pa).isDram = true → NoForwarding s.ms →
          (NoPoison s.ms → readHome t.ms m.pa m.size =
            leBytes m.size (amsgNew m.op m.size (leNat (readHome s.ms m.pa m.size)) (m.data.toNat % 2 ^ (8 * m.size)))) ∧
          (poisonedAtoms s.ms.dram m.pa m.size ≠ [] → t.ms.mem = s.ms.mem)))) ∧
  (∀ old x : Word,
    amsgNew .add 4 old.toNat x.toNat = (old + x).toNat ∧ amsgNew .min 4 old.toNat x.toNat = (sMin old x).toNat ∧
    amsgNew .max 4 old.toNat x.toNat = (sMax old x).toNat ∧ amsgNew .and 4 old.toNat x.toNat = (old &&& x).toNat ∧
    amsgNew .or 4 old.toNat x.toNat = (old ||| x).toNat ∧ amsgNew .xor 4 old.toNat x.toNat = (old ^^^ x).toNat ∧
    amsgNew .st 4 old.toNat x.toNat = x.toNat ∧ amsgNew .fadd 4 old.toNat x.toNat = (fadd32 false old x).1.toNat)

/-- R2, R108: what is written at a home reads back, and every other byte there reads as before, where no page is under
forwarding. R99, R114, R376: a core that has stored bytes within a line on a cacheable page, no read-count policy being a
store's (R101) and no pin being held, reads them back, whichever cache holds the line by then. -/
def Obligations.StoreThenLoadResults : Prop :=
  (∀ (ms : MemSys) (now pa : Nat) (bs : List Byte), NoForwarding ms →
    readHome (writeHome ms now pa (allMask bs.length) bs) pa bs.length = bs ∧
    ∀ a, (a < pa ∨ pa + bs.length ≤ a) →
      readHome (writeHome ms now pa (allMask bs.length) bs) a 1 = readHome ms a 1) ∧
  (∀ (ms : MemSys) (now core pa : Nat) (at_ : Attr) (pol pol2 : Pol) (load : Bool) (bs : List Byte), NoForwarding ms →
    (physOf false pa).isDram = true → at_.cm = 0 → at_.n = false → ms.dram.nRanges = [] → pol.code ≠ 2 →
    pa % 128 + bs.length ≤ 128 →
    (∀ c, c ∈ ms.cache.l1 ∨ c ∈ ms.cache.team → c.bytes.length = 128) → ms.cache.homePins = [] → ms.cache.teamPins = [] →
    sliceOf (fetchLine now core at_ pol2 load (lineOf pa) (storeBytes now core at_ pol pa bs ms)).2 (pa % 128) bs.length = bs)

/-! ## Barriers, fences and rings -/

/-- R128, R133, R136, R332, R333: BINIT, BEXP, BARR and BWAIT at a barrier whose checks pass; updates on their way there arrive
before all but BARR's. BINIT clears the reserved bits; BARR posts its arrival after a release; BWAIT goes on past another
phase after an acquire, at device scope for a barrier in memory or where its phase counted engine bytes in memory, else at
BARR's scope; it waits at its own phase, and traps on ERR. What counts as engine bytes in memory is log entry 17's reading. -/
def Obligations.ByteBarrierResults : Prop :=
  ∀ (s u v : State) (g j : Group) (p : Split) (y : Bool) (gd : Guard) (n c : BitVec 6) (b : BitVec 5) (gl h : Bool) (va k : Nat)
    (pl : BarPlace), Issues s g p {} → guardQ g gd = true → SOk g [2 * n.toNat, 2 * n.toNat + 1] →
    va = (getS64 g (2 * n.toNat)).toNat → fenceHolds s g (enabled g p) (if gl then [(va, 16)] else []) = false →
    u = (if gl then noteXlate s (whoOf s g) va else s) → v = flushBar u pl (some g.core) → findGroup v g.id = some j →
    (placeBar s g (allOf g p) 3 gl va = .at pl →
      (k = (getS g c.toNat).toNat → SOk g [c.toNat] → 0 < k → k < 65536 →
        exec (.binit y gd n gl c) s = .next (putBar (freshPhase (freshPhase (finish v j p y) pl false) pl true) pl
          { high := 0, err := 0, init := k, phase := false, arrivals := k, pending := 0 } (some j.core))) ∧
      (k = (getS64 g (2 * b.toNat)).toNat → SOk g [2 * b.toNat, 2 * b.toNat + 1] →
        (readBar v pl).pending + k < 2 ^ 48 → ∀ z, z = ({ readBar v pl with pending := (readBar v pl).pending + k } : Bar).settle →
        exec (.bexp y gd n gl b) s = .next (putBar (if z.phase = (readBar v pl).phase then finish v j p y
          else freshPhase (finish v j p y) pl z.phase) pl z (some j.core))) ∧
      (relHeld u g (enabled g p) (barScope u g gl) = false →
        exec (.barr y gd n gl) s = .next (postBar (finish (releaseAt u g.core g.id (barScope u g gl)) g p y) pl .arrive
          (some g.core)))) ∧
    (placeBar s g (allOf g p) 0 gl va = .at pl →
      ((readBar v pl).err = 0 → (readBar v pl).phase ≠ h →
        exec (.bwait y gd n gl h) s = .next (finish (barAcquire v j pl h) (acquireWindow j) p y)) ∧
      ((readBar v pl).err = 0 → (readBar v pl).phase = h →
        exec (.bwait y gd n gl h) s = .next (putGroup v (putSplit j
          { p with pc := startPc p, hints := {}, wait := .byteBarrier pl (BitVec.ofNat 64 va) h, ypark := y }))) ∧
      ((readBar v pl).err ≠ 0 → ∃ t : Trap, exec (.bwait y gd n gl h) s = .next (takeTrap v j p t none) ∧
        t.cause = (if (readBar v pl).err = 3 then 0x0B else if (readBar v pl).err ≤ 2 then 0x08 else 0x0D)) ∧
      barAcquire v j pl h = putMs v (acquire j.core (if gl = true ∨ (pl, h) ∈ v.copies.memPhases then .dev
        else barScope v j false) allLines v.ms))

/-- R133, R134, R136, R137: an update that arrives at a barrier: arrivals and deliveries count down and their errors are noted; a
phase completes exactly where nothing is pending, nobody is missing and no error is noted, and then ARRIVALS is loaded again.
What the update finds is the barrier once it has reached it (pins that leave its agent out are promoted): as it was, where
none is. The new value reads back, and no other typed byte or byte of memory changes. -/
def Obligations.BarrierUpdateResults : Prop :=
  (∀ (s v : State) (k : Nat) (pl : BarPlace) (x : BarUpd) (by_ : Option Nat) (b : Bar),
    s.copies.updates[k]? = some ⟨pl, x, by_⟩ →
    v = reachBar { s with copies := { s.copies with updates := dropNth k s.copies.updates } } pl by_ → b = readBar v pl →
    (((∃ c off, pl = .astore c off) ∨ s.ms.cache.homePins = [] ∧ ∃ pa, pl = .dram pa ∧ (physOf false pa).isDram = true) →
      b = readBar s pl) ∧
    ∃ u c, exec (.barrierUpdate k) s = .next (putBar u pl c by_) ∧
      u = { v with copies := { v.copies with memPhases := u.copies.memPhases } } ∧
      (∀ z, z ∈ u.copies.memPhases ↔ z ∈ s.copies.memPhases ∧ (c.phase = b.phase ∨ z ≠ (pl, c.phase))) ∧
      c.high = b.high ∧ c.init = b.init ∧ (∀ e, x = .error e → e ≠ 0 → c = { b with err := e }) ∧
      (x = .arrive → b.arrivals = 0 → c.err = 2 ∧ c.arrivals = 0 ∧ c.phase = b.phase ∧ c.pending = b.pending) ∧
      (x = .arrive → b.arrivals ≠ 0 → c.err = b.err ∧ c.pending = b.pending ∧
        if b.arrivals = 1 ∧ b.pending = 0 ∧ b.err = 0 then c.phase = (!b.phase) ∧ c.arrivals = b.init
        else c.phase = b.phase ∧ c.arrivals = b.arrivals - 1) ∧
      (∀ n, x = .deliver n → b.pending < n → c.err = 1 ∧ c.pending = 0 ∧ c.phase = b.phase ∧ c.arrivals = b.arrivals) ∧
      (∀ n, x = .deliver n → n ≤ b.pending → c.err = b.err ∧ c.pending = b.pending - n ∧
        if b.pending = n ∧ b.arrivals = 0 ∧ b.err = 0 then c.phase = (!b.phase) ∧ c.arrivals = b.init
        else c.phase = b.phase ∧ c.arrivals = b.arrivals)) ∧
  (∀ (s : State) (pl : BarPlace) (b : Bar) (by_ : Option Nat),
    (∀ h, (h ∈ s.sched.groups ∨ ∃ x ∈ s.pre.saved, h ∈ x.groups) → ∀ q ∈ h.splits, ∀ pl' a ph, q.wait ≠ .byteBarrier pl' a ph) →
    putBar s pl b by_ = writeBar s pl b by_) ∧
  ∀ (s : State) (b : Bar) (by_ : Option Nat), b.high < 2 ^ 44 → b.err < 8 → b.init < 65536 → b.arrivals < 65536 →
    b.pending < 2 ^ 48 →
    (∀ c off, readBar (writeBar s (.astore c off) b by_) (.astore c off) = b ∧
      ∀ k, (∀ i < 16, k ≠ bufKey c off + i) →
        mget 0 k (writeBar s (.astore c off) b by_).cores.astore = mget 0 k s.cores.astore) ∧
    ∀ pa, (physOf false pa).isDram = true → NoForwarding s.ms → readBar (writeBar s (.dram pa) b by_) (.dram pa) = b ∧
      KeepsBytes s.ms (writeBar s (.dram pa) b by_).ms fun a => pa ≤ a ∧ a < pa + 16

/-- R125, R126, R215, R355, R412: FENCE, FENCER and VFENCE become outstanding, with their order, scope, range and the lanes they
fence; no register and no byte changes yet. A FENCER of no bytes orders nothing. A fence that is no VFENCE nor of system scope,
no link being down, ends once the loads of its lanes have returned, after the release and acquire of its order on every line or
on those of its range; a release waits for those loads. Which lines a fence's actions take is log entry 18's reading. -/
def Obligations.FenceResults : Prop :=
  (∀ (s : State) (g : Group) (p : Split) (y : Bool) (post : Bool → Bool → Scope → Option (Nat × Nat) → Option Nat → Bool → State),
    Issues s g p {} →
    (∀ acq rel sc r q isView, post acq rel sc r q isView = finish { s with ms := { s.ms with cache := { s.ms.cache with
        nextFence := s.ms.cache.nextFence + 1,
        fences := s.ms.cache.fences ++ [
          { id := s.ms.cache.nextFence, group := g.id, core := g.core, launch := g.launch, wg := g.wg, split := p.id,
            lanes := laneBits (enabled g p), acq := acq, rel := rel, scope := sc, range := r, q := q, blocks := [],
            isView := isView }] } } }
      (addPend g [{ kind := .fence s.ms.cache.nextFence, pc := startPc p, owner := ownLanes p, lanes := 0,
                    q := q.map fun n => (n, false) }]) p y) →
    (∀ (q : BitVec 3) (sc : Scope) (o : FenceOrd), exec (.fence y q sc o) s =
      .next (post (o != .rel) (o != .acq) sc none (if sc = .sys then some q.toNat else none) false)) ∧
    (∀ (x : BitVec 7) (sc : Scope) (o : FenceOrd) (r : Nat × Nat), SOk g ((List.range 4).map (x.toNat + ·)) →
      r = ((getS64 g x.toNat).toNat, (getS64 g (x.toNat + 2)).toNat) → r.1 + r.2 ≤ 2 ^ 64 →
      exec (.fencer y x sc o) s =
        .next (if r.2 = 0 then finish s g p y else post (o != .rel) (o != .acq) sc (some r) none false)) ∧
    (∀ (n : BitVec 6) (q : BitVec 3) (r : Nat × Nat), SOk g ((List.range 4).map (2 * n.toNat + ·)) →
      r = ((getS64 g (2 * n.toNat)).toNat, (getS64 g (2 * n.toNat + 2)).toNat) → r.1 + r.2 ≤ 2 ^ 64 →
      exec (.vfence y n q) s = .next (post true true .dev (some r) (some q.toNat) true))) ∧
  (∀ (s u v w : State) (k : Nat) (f : FenceRec), s.ms.cache.fences[k]? = some f → f.isView = false → f.scope ≠ .sys →
    (f.rel = true → s.plat.linkUp ≠ 0 ∧ ∀ g, findGroup s f.group = some g →
      loadsOut g ((List.range 128).filter fun l => f.lanes.getLsbD l) = false) →
    u = putMs s (release s.clock.ps f.core f.group .dev (fenceLines s f) s.ms) →
    v = (if f.rel then { u with ms := performPeers u.ms } else putMs s (drainWc s.clock.ps f.core s.ms)) →
    w = (if f.acq then putMs v (acquire f.core f.scope (fenceLines v f) v.ms) else v) →
    exec (.fenceCompletion k) s = .next (endFence w f true) ∧ (f.range = none → ∀ line, fenceLines s f line = true)) ∧
  ∀ (s : State) (k : Nat) (f : FenceRec) (g : Group), s.ms.cache.fences[k]? = some f → f.rel = true → findGroup s f.group = some g →
    loadsOut g ((List.range 128).filter fun l => f.lanes.getLsbD l) = true → exec (.fenceCompletion k) s = .next s

/-- R128, R175, R176, R242, R243, R331, R383: BAR and CAD release memory, then park until all have arrived, and go on together
after an acquire, with the phase counter at 0 after a CAD; WAITPH parks while the counter is below its number and tells by Q
whether it came in time; a waiting split goes on when the counter has reached it. MWAIT parks while a segment of its split has
more requests outstanding than its number; OPRDY and MWAIT only pass on where nothing holds them. -/
def Obligations.GroupWaitResults : Prop :=
  (∀ (s u : State) (g : Group) (p : Split) (y : Bool), Issues s g p {} → (∀ c, relHeld s g (enabled g p) c = false) →
    (u = putGroup (releaseAt s g.core g.id (spanScope (wgOf s g.launch g.wg).cores))
        (putSplit g { advance p y with wait := .bar }) →
      ∃ t, exec (.bar y) s = .next t ∧
        ((∃ h ∈ u.sched.groups, h.launch = g.launch ∧ h.wg = g.wg ∧ ∃ q ∈ h.splits, q.wait ≠ .bar) → t = u) ∧
        ((∀ h ∈ u.sched.groups, h.launch = g.launch → h.wg = g.wg → ∀ q ∈ h.splits, q.wait = .bar) →
          t.sched.groups = (u.sched.groups.map fun h => if h.launch = g.launch ∧ h.wg = g.wg then
            { acquireWindow h with splits := h.splits.map fun q => { q with wait := .ready } } else h) ∧
          t = { u with ms := t.ms, sched := { u.sched with groups := t.sched.groups } })) ∧
    (∀ lv, (launchOf s g.launch).desc.cosched = true →
      u = putGroup (releaseAt s g.core g.id (if lv = .team then .team else .dev))
        (putSplit g { advance p y with wait := .cad lv }) →
      ∃ t, exec (.cad y lv) s = .next t ∧
        ((∃ h ∈ u.sched.groups, cadReach lv g h = true ∧ ∃ q ∈ h.splits, q.wait ≠ .cad lv) → t = u) ∧
        ((∀ h ∈ u.sched.groups, cadReach lv g h = true → ∀ q ∈ h.splits, q.wait = .cad lv) →
          ∃ skew : Group → Nat, t.sched.groups = (u.sched.groups.map fun h => if cadReach lv g h then
            { acquireWindow h with splits := h.splits.map (fun q => { q with wait := .ready }), phase := 0,
                                   phaseHold := skew h } else h) ∧
          t = { u with ms := t.ms, sched := { u.sched with groups := t.sched.groups } }))) ∧
  (∀ (s : State) (g : Group) (p : Split) (y : Bool), Issues s g p {} →
    (∀ (n : BitVec 10) (q : BitVec 3),
      (g.phase < n.toNat →
        exec (.waitph y n q) s = .next (putGroup s (putSplit g { advance p y with wait := .phase n.toNat q }))) ∧
      (n.toNat ≤ g.phase → ∃ h, exec (.waitph y n q) s = .next (finish s h p y) ∧
        WroteQ g h q.toNat (decide (g.phase = n.toNat)))) ∧
    (∀ n : BitVec 6, (32 ≤ n.toNat ∨ ∀ m ∈ segsOf p, segOut s g m ≤ n.toNat) → g.splits = [p] → p.wait = .ready →
      ∃ u h, exec (.mwait y n) s = .next (finish u h p y) ∧ h = { g with posted := h.posted } ∧ (∀ t ∈ h.posted, t ∈ g.posted) ∧
        u = { s with cores := { s.cores with cstore := u.cores.cstore }, free := u.free } ∧
        ((∀ t ∈ g.posted, t.open_ g = false) → u = s)) ∧
    (∀ n : BitVec 6, n.toNat < 32 → (∃ m ∈ segsOf p, n.toNat < segOut s g m) → g.splits = [p] →
      exec (.mwait y n) s = .next (putGroup s (putSplit g { advance p y with wait := .mwait n.toNat }))) ∧
    (g.splits = [p] → p.wait = .ready → (∀ r ∈ g.pend, (∃ f, r.kind = .fence f) ∨ isLate r = true) →
      exec (.oprdy y) s = .next (finish s { g with
        touched := [], touchedA := [], posted := g.posted.map fun t => { t with rewritten := t.open_ g } } p y))) ∧
  (∀ (s : State) (g : Group) (p : Split) (n : Nat) (q : BitVec 3), findGroup s g.id = some g → findSplit g p.id = some p →
    p.wait = .phase n q → n ≤ g.phase →
    ∃ t h, exec (.waitphRelease g.id p.id) s = .next t ∧ t = { s with cores := t.cores, sched := (putGroup s (putSplit h
        { p with wait := .ready })).sched } ∧ WroteQ g h q.toNat true ∧ (coreSt t g.core).first.head? = some (g.id, p.id))

/-- R147, R152, R155, R156, R346, R388, R401, R431: CPOLL takes the next record of its ring where its SEQ has come, moving RIDX
on, and else writes Q alone; SLEEP parks only while WIDX and RIDX agree, and its timeout wakes it; RDPTR reads a write
pointer, and of a typed destination acquires what lies below its ADDR, for the group's next OPRDY (R128, R423). A record that
a producer posted, none going before it, takes the index WIDX of its ring, which goes up by one, and is written at that index,
with its SEQ, once there is room. When a record takes its index, and which goes first, is log entry 42's reading. -/
def Obligations.RingResults : Prop :=
  (∀ (s u : State) (g : Group) (p : Split) (y : Bool) (gd : Guard) (n : BitVec 6) (b q : BitVec 3) (va h a ra ridx : Nat)
    (ms : MemSys) (ws : List Word) (l1 l2 : Nat) (t1 t2 : Attr) (r1 r2 : List (Nat × Nat × Attr)),
    Issues s g p {} → guardQ g gd = true →
    SOk g (2 * n.toNat :: (2 * n.toNat + 1) :: (List.range 8).map (8 * b.toNat + ·)) → va = (getS64 g (2 * n.toNat)).toNat →
    checkObject s (whoOf s g) (allOf g p) .object true 5 64 64 va = .ok ((l1, h, t1) :: r1) →
    4 ≤ leNat (readHome s.ms (h + 8) 1) → leNat (readHome s.ms (h + 8) 1) ≤ 20 → ridx = leNat (readHome s.ms (h + 24) 8) →
    a = (leNat (readHome s.ms h 8) + ridx % 2 ^ leNat (readHome s.ms (h + 8) 1) * 32) % 2 ^ 64 →
    checkObject s (whoOf s g) (allOf g p) .read true 5 32 32 a = .ok ((l2, ra, t2) :: r2) →
    fenceHolds s g (enabled g p) [(va, 64), (a, 32)] = false → u = noteAll s (whoOf s g) [va, a] →
    ms = reachHome s.clock.ps (.core g.core) ra 32 (reachHome s.clock.ps (.core g.core) h 64 u.ms) →
    ws = bytesWords (readHome ms ra 32) →
    ((ws.getD 1 0).toNat = (ridx + 1) % 2 ^ 32 → exec (.cpoll y gd n b q) s = .next (finish
      (putMs u (acquire g.core .dev allLines (engineWrite s.clock.ps (.core g.core) (h + 24) (leBytes 8 (ridx + 1)) ms)))
      (addPend (acquireWindow g) [{ knownResult p (enabled g p) [] (ws.zipIdx.map fun x => (8 * b.toNat + x.2, x.1)) with
                                    q := some (q.toNat, true) }]) p y)) ∧
    ((ws.getD 1 0).toNat ≠ (ridx + 1) % 2 ^ 32 → exec (.cpoll y gd n b q) s = .next (finish (putMs u ms)
      (addPend g [{ knownResult p (enabled g p) [] [] with q := some (q.toNat, false) }]) p y))) ∧
  (∀ (s u : State) (g : Group) (p : Split) (y : Bool) (gd : Guard) (n q : BitVec 6) (va h l : Nat) (t : Attr) (wait : Wait)
    (r : List (Nat × Nat × Attr)), Issues s g p {} → guardQ g gd = true → SOk g [2 * n.toNat, 2 * n.toNat + 1, q.toNat] →
    va = (getS64 g (2 * n.toNat)).toNat →
    checkObject s (whoOf s g) (allOf g p) .read true 5 64 64 va = .ok ((l, h, t) :: r) →
    u = putMs (noteXlate s (whoOf s g) va) (reachHome s.clock.ps (.core g.core) h 64 (noteXlate s (whoOf s g) va).ms) →
    wait = .sleep h (if getS g q.toNat = 0 then none else some (s.clock.ps + (getS g q.toNat).toNat * 1_000_000)) →
    exec (.sleep y gd n q) s = .next (
      if leNat (readHome u.ms (h + 16) 8) = leNat (readHome u.ms (h + 24) 8) then
        putGroup u (putSplit g { advance p y with wait := wait })
      else finish u g p y)) ∧
  (∀ (s : State) (g : Group) (p : Split) (h t : Nat), findGroup s g.id = some g → findSplit g p.id = some p →
    p.wait = .sleep h (some t) → t ≤ s.clock.ps →
    exec (.sleepTimeout g.id p.id) s = .next (putGroup s (putSplit g { p with wait := .ready }))) ∧
  (∀ (s : State) (g : Group) (p : Split) (y : Bool) (gd : Guard) (d : BitVec 6) (c : BitVec 3) (wp : DWord), Issues s g p {} →
    guardQ g gd = true → SOk g [2 * d.toNat, 2 * d.toNat + 1] → wp = (chanOf s (chanKey g.core c.toNat)).wp →
    ∃ h, exec (.rdptr y gd d c) s = .next (finish s h p y) ∧
      WroteS64 (acquireWindow g fun r => fld wp 60 3 == 0 && decide (r.1 + r.2 ≤ (fld wp 0 57).toNat)) h (2 * d.toNat) wp) ∧
  ∀ (s u : State) (k h i a log : Nat) (r : RingRec) (t1 : Attr), s.copies.rings[k]? = some r → r.parked = none → r.stopped = false →
    ringHeld s k r = false → ringAddr s r .object r.header 64 = .ok h t1 → takeIndex s k r h = (u, i) →
    (physOf false (h + 16)).isDram = true → NoForwarding s.ms → log = leNat (readHome u.ms (h + 8) 1) →
    a = (leNat (readHome u.ms h 8) + i % 2 ^ log * 32) % 2 ^ 64 →
    (∀ n, r.index = some n → u = s ∧ i = n) ∧
    (r.index = none → i = leNat (readHome s.ms (h + 16) 8) ∧ readHome u.ms (h + 16) 8 = leBytes 8 (i + 1) ∧
      KeepsBytes s.ms u.ms (fun c => h + 16 ≤ c ∧ c < h + 24) ∧
      u.copies.rings = modifyNth (fun x => { x with index := some i }) k s.copies.rings) ∧
    (2 ^ log ≤ i - leNat (readHome u.ms (h + 24) 8) → exec (.ringRecordWrite k) s = .next u) ∧
    ∀ (at_ : Nat) (t2 : Attr), i - leNat (readHome u.ms (h + 24) 8) < 2 ^ log → ringAddr u r .object a 32 = .ok at_ t2 →
      (physOf false at_).isDram = true → r.words.length = 8 →
      ∃ t, exec (.ringRecordWrite k) s = .next t ∧ t.copies.rings = dropNth k s.copies.rings ∧
        readHome t.ms at_ 32 = wordsBytes (r.words.set 1 (BitVec.ofNat 32 (i + 1))) ∧
        KeepsBytes u.ms t.ms fun c => at_ ≤ c ∧ c < at_ + 32

/-- R138 to R146, R350, R360: a DRAY whose checks pass notes its group's arrival, after a release, holding the barrier's phase
where it posts and is the first; the last arrival starts the copy; that no update of its barrier is under way keeps the
statement short. GATH puts its copy into its channel, and posts its bytes, once the updates on their way to its barrier have
arrived (R333). -/
def Obligations.CopyStartResults : Prop :=
  (∀ (s z v : State) (g : Group) (p : Split) (y post dec : Bool) (d : BitVec 9) (e : BitVec 5) (c : BitVec 2) (w : Workgroup)
    (ws : List Word) (pl : BarPlace) (a : DrayArrival) (job : CopyJob), Issues s g p {} →
    SOk g ((List.range 22).map (d.toNat + ·) ++ [e.toNat, e.toNat + 1]) → fullGang g p = true →
    ws = (List.range 22).map (fun i => getS g (d.toNat + i)) → w = wgOf s g.launch g.wg → w ∈ s.sched.wgs → w.dray = [] →
    drayCheck s g p ws dec (getS g e.toNat).toNat (getS g (e.toNat + 1)).toNat = .ok pl →
    fenceHolds s g (enabled g p) [] = false → loadsOut g (enabled g p) = false → (∀ x ∈ s.copies.updates, x.place ≠ pl) →
    a = ⟨g.index, g.core, ws, (getS g e.toNat).toNat, if dec then 0 else (getS g (e.toNat + 1)).toNat,
      match pl with | .dram pa => pa | .astore _ _ => 0⟩ →
    z = reachBar s pl (some g.core) → v = releaseAt z g.core g.id .team →
    ((∃ h ∈ s.sched.groups, h.launch = w.launch ∧ h.wg = w.wg ∧ h.index ≠ g.index) → (readBar v pl).arrivals < 65535 →
      ∃ u, exec (.dray y d e c post dec) s = .next (finish (putWg u { wgOf u g.launch g.wg with
          dray := [{ channel := c.toNat, post := post, dec := dec, hold := post, arrivals := [a] }] }) ((findGroup u g.id).getD g) p y) ∧
        u = (if post then putBar v pl { readBar v pl with arrivals := (readBar v pl).arrivals + 1 } (some g.core) else v)) ∧
    ((∀ h ∈ s.sched.groups, h.launch = w.launch → h.wg = w.wg → h.index = g.index) → post = false → dec = false →
      w.cores = [g.core] → chanFull s g.core c.toNat = false → a.count ≠ 0 → a.first < drLast ws →
      0 < drRow ws →
      job = { launch := w.launch, wg := w.wg, core := g.core, asid := (launchOf s w.launch).asid, isSealed := w.isSealed,
              gather := false, dec := false, words := ws, slices := [(a.first, min a.count (drLast ws - a.first))],
              bar := some (barAt w a), decPos := dw64 ws 0 } →
      exec (.dray y d e c post dec) s = .next (finish (enqueue (putWg v { w with dray := [] }) (chanKey g.core c.toNat) job) g p y))) ∧
  ∀ (s u v z : State) (g j : Group) (p : Split) (y : Bool) (gd : Guard) (d : BitVec 9) (c post gl : Bool) (ws : List Word)
    (pl : BarPlace) (ch va total : Nat) (job : CopyJob), Issues s g p {} → guardQ g gd = true →
    SOk g ((List.range 10).map (d.toNat + ·)) → ws = (List.range 10).map (fun i => getS g (d.toNat + i)) →
    gathAlign ws (allOf g p) = none → gathPerm s g ws (allOf g p) = none → gl = nbit (dw ws 5) 11 → va = dw64 ws 8 →
    placeBar s g (allOf g p) 5 gl va = .at pl → fenceHolds s g (enabled g p) (if gl then [(va, 16)] else []) = false →
    loadsOut g (enabled g p) = false → ch = (if c then 5 else 4) → chanFull s g.core ch = false → total = dw ws 6 * stSize ws →
    u = (if gl then noteXlate s (whoOf s g) va else s) → z = flushBar u pl (some g.core) → findGroup z g.id = some j →
    (post = true → (readBar z pl).pending + total < 2 ^ 48) → v = releaseAt z j.core j.id .team →
    job = { launch := j.launch, wg := j.wg, core := j.core, asid := (launchOf z j.launch).asid,
            isSealed := (wgOf z j.launch j.wg).isSealed, gather := true, dec := false, words := ws, slices := [], bar := some pl } →
    exec (.gath y gd d c post) s = .next (
      if post then updateBar (enqueue (finish v j p y) (chanKey j.core ch) job) pl (.expect total) (some j.core)
      else enqueue (finish v j p y) (chanKey j.core ch) job)

/-- R142, R144, R146, R148 to R151, R361: a channel that is ready reads the bytes of its next chunk, element or block, as soon
as its source can be read, and delivers them; an index at or above the bound delivers zeros; a chunk to a peer counts once it is
acknowledged. A chunk for the A-store of a resident workgroup is in its window after, and its barrier counts its bytes. -/
def Obligations.CopyDeliveryResults : Prop :=
  (∀ (s : State) (core ch key : Nat) (j : CopyJob) (r : List CopyJob), key = chanKey core ch → (chanOf s key).jobs = j :: r →
    chanReady s key = true →
    (∀ (off n : Nat) (u : State) (bs : List Byte), j.gather = false → j.dec = false → off = (jobSpot j).1 →
      n = min (jobSpot j).2 (128 - (jobDst j + off) % 128) →
      engReads (whoJob j) j.core (jobCls s j) false j.waits ((List.range (n / drSize j.words)).map fun i =>
        (drElem j.words (off / drSize j.words + i), drSize j.words)) s [] = .ok u bs →
      exec (.drayChunkDelivery core ch) s = .next (deliverChunk u key j off bs)) ∧
    (∀ (x : Nat) (u v : State) (ib bs : List Byte), j.gather = true → gatherIndex s j (j.done / stSize j.words) = .ok u ib →
      x = leNat ib →
      (dw j.words 7 ≠ 0 → dw j.words 7 ≤ x → exec (.stippleElementDelivery core ch) s =
        .next (deliverElem key (stSize j.words / 4 + 2) (List.replicate (stSize j.words) 0) u)) ∧
      ((dw j.words 7 = 0 ∨ x < dw j.words 7) → engReads (whoJob j) j.core (jobCls u j) false j.waits
          ((List.range (stSize j.words / 4)).map fun i => ((dw64 j.words 0 + x * stSize j.words + 4 * i) % 2 ^ 64, 4)) u [] = .ok v bs →
        exec (.stippleElementDelivery core ch) s = .next (deliverElem key (stSize j.words / 4 + 2) bs v))) ∧
    (∀ (h : Nat) (u v : State) (hb pb raw : List Byte), j.dec = true →
      engReads (whoJob j) j.core (jobCls s j) true j.waits (lineCuts j.decPos 8) s [] = .ok u hb → h = leNat hb → hdrOk h = true →
      engReads (whoJob j) j.core (jobCls u j) true j.waits (lineCuts (j.decPos + 8) (hdrLen h)) u [] = .ok v pb →
      decodeBlock h pb = some raw →
      exec (.decompressBlock core ch) s = .next (nextBlock (deliverRaw key (raw.length + 1) j.done raw v) key j.decPos h))) ∧
  (∀ (s u : State) (k key n peer : Nat) (j : CopyJob) (r : List CopyJob), s.copies.peerChunks[k]? = some (key, n, peer) →
    u = { s with copies := { s.copies with peerChunks := dropNth k s.copies.peerChunks }, ms := performPeer s.ms peer } →
    (chanOf s key).jobs = j :: r → exec (.peerChunkAck k) s = .next (advanceJob u key j n)) ∧
  ∀ (u t : State) (key off : Nat) (j : CopyJob) (bs : List Byte) (w : Workgroup) (pl : BarPlace), jobSpace j = 0 →
    w = wgOf u j.launch j.wg → w.groupsLeft ≠ 0 → w.cores.Nodup → (∀ c ∈ w.cores, mget 0 c w.aBase + w.aBytes ≤ 2 ^ 24) →
    jobDst j + off + bs.length ≤ aWindow w → j.bar = some pl → t = deliverChunk u key j off bs →
    (∀ i < bs.length, mget 0 (bufKey (aPlace w (jobDst j + off + i)).1 (aPlace w (jobDst j + off + i)).2) t.cores.astore =
      bs.getD i 0) ∧
    (∀ k, (∀ i < bs.length, k ≠ bufKey (aPlace w (jobDst j + off + i)).1 (aPlace w (jobDst j + off + i)).2) →
      mget 0 k t.cores.astore = mget 0 k u.cores.astore) ∧
    t.copies.updates = u.copies.updates ++ [⟨pl, .deliver bs.length, some j.core⟩] ∧ t.ms = u.ms

/-! ## Engines -/

/-- R130, R161 to R173, R379, R381, R424: LDSTN and the two forms of MMA, where their checks pass and the table has room: LDSTN
enters one request and records the slot's class at once; MMA enters one for each segment that posts, in rising order, with what
it captured, and the group notes them, their tiles being open until an MWAIT covers them. No register and no typed byte
changes yet; an MMA of no segment only passes on. -/
def Obligations.YokePostResults : Prop :=
  (∀ (s : State) (g : Group) (p : Split) (y : Bool) (gd : Guard) (sl : BitVec 5) (n : BitVec 9) (ws : List Word) (phys cls : Nat)
    (yk : Yoke), Issues s g p { z := true, had := true } → guardQ g gd = true → SOk g ((List.range 8).map (n.toNat + ·)) →
    yokeFmtCheck (.ldstn y gd sl n) g p (fmtB p.fmt) = none → sl.toNat < (launchOf s g.launch).desc.stencils →
    ws = (List.range 8).map (fun i => getS g (n.toNat + i)) → ldstnShape s g (fmtB p.fmt) p.fmt ws (allOf g p) = none →
    yk = yokeOf s (teamOf g.core) → yokeRoom yk g.launch g.wg g.core 1 = true → phys = physSlot s g sl.toNat →
    cls = (yokeClass (fmtB p.fmt)).elim 0 (fun x => x.1) →
    ∃ u r pl, exec (.ldstn y gd sl n) s = .next (finish u g p y) ∧ u = { s with cores := { s.cores with yokes := u.cores.yokes } } ∧
      yokeOf u (teamOf g.core) = { yk with table := yk.table ++ [r], nextId := yk.nextId + 1, planes := mput phys pl yk.planes } ∧
      pl.cls = cls ∧ r.isLoad = true ∧ r.slot = phys ∧ r.core = g.core ∧ r.group = g.id ∧ r.record = some ws ∧ r.fmt = p.fmt ∧
      r.uns = (hxOf p).z ∧ r.had = hadOf p) ∧
  (∀ (s : State) (g : Group) (p : Split) (y : Bool) (gd : Guard) (a : BitVec 6) (sl : BitVec 5) (c : BitVec 6) (neg nacc store : Bool)
    (i : Instr) (f : Fmt) (post : List Nat) (tile : Nat) (lanes : BitVec 128) (ws : List Word) (yk : Yoke),
    Issues s g p { z := true, sat := true, had := true } →
    i = (if store then .mmaAs y gd a sl c neg nacc else .mma y gd a sl c neg nacc) →
    (mmaSegs g p gd = ([], []) → exec i s = .next (finish s g p y)) ∧
    (mmaSegs g p gd = (post, []) → post ≠ [] → f = fmtA p.fmt → lanes = laneBits (active g p gd) →
      ws = (List.range 8).map (fun k => getS g (a.toNat + k)) → tile = (getS g c.toNat).toNat → yk = yokeOf s (teamOf g.core) →
      (if store then SOk g (c.toNat :: (List.range 8).map (a.toNat + ·))
       else SOk g [c.toNat] ∧ VOk g (active g p gd) ((List.range (aSpan f (fmtScale p.fmt))).map (a.toNat + ·))) →
      formatBad p f = false → yokeHintBad p f = false → tile % 2048 = 0 → sl.toNat < (launchOf s g.launch).desc.stencils →
      (store = true → aShape s g f p.fmt ws post lanes = none) → tileTrap s g tile post = none →
      yokeRoom yk g.launch g.wg g.core post.length = true → classTrap i s g p f sl.toNat = none →
      emptyTrap s g sl.toNat lanes = none →
      ∃ u rs, exec i s = .next (finish u { g with posted := g.posted ++ rs.map fun r =>
          ⟨r.no, r.seg, r.tile, r.aReg, r.record, r.fmt, false⟩ } p y) ∧
        u = { s with cores := { s.cores with yokes := u.cores.yokes } } ∧
        yokeOf u (teamOf g.core) = { yk with table := yk.table ++ rs, nextId := yk.nextId + post.length } ∧
        rs.map (fun r => (r.seg, r.tile, r.id)) = post.zipIdx.map (fun x => (x.1, tile + 2048 * x.1, yk.nextId + x.2)) ∧
        ∀ r ∈ rs, r.isLoad = false ∧ r.slot = physSlot s g sl.toNat ∧ r.core = g.core ∧ r.group = g.id ∧ r.fmt = p.fmt ∧
          r.spa = g.spa ∧ r.neg = neg ∧ r.nacc = nacc ∧ r.uns = (hxOf p).z ∧ r.had = hadOf p ∧
          r.record = (if store then some ws else none) ∧ r.aReg = eff g a.toNat))

/-- R86, R163, R164, R169, R174, R425: a grant takes at most two requests, each with no earlier one on its slot or its tile, and
takes some whenever the team is idle and has any. A granted pass, after every earlier one of its tile, writes the 512 words of
its tile and no other typed byte: each is the old word plus the exact sum of the products of its row and its column, rounded to
FP32 before the addition and after it, the sum of an INT8 request being an integer's; an element of an unscaled row held in
registers is its code's value, 0 from KLEN on, negated where asked. A granted load writes its plane. -/
def Obligations.YokeServiceResults : Prop :=
  (∀ (s : State) (team : Nat) (yk : Yoke), yk = yokeOf s team →
    ∃ u rs, exec (.yokeGrant team) s = .next u ∧ u = { s with cores := { s.cores with yokes := u.cores.yokes } } ∧
      rs.length ≤ 2 ∧ (∀ r ∈ rs, r ∈ yk.table ∧ eligible yk.table r = true) ∧
      (∃ more, (yokeOf u team).table = yk.table.filter (fun x => !rs.any fun r => r.id == x.id) ++ more ∧
        (yk.waiting = [] → more = [])) ∧
      (yokeOf u team).running = yk.running ++ rs ∧ (yokeOf u team).grants = yk.grants + rs.length ∧
      (yk.running = [] → yk.table ≠ [] → rs ≠ [])) ∧
  (∀ (s : State) (team k base : Nat) (r : YokeReq) (olds : List Word), (yokeOf s team).running[k]? = some r → r.isLoad = false →
    (∀ x ∈ (yokeOf s team).running.take k, x.isLoad = true ∨ x.group ≠ r.group ∨ x.seg ≠ r.seg ∨ x.tile ≠ r.tile) →
    (∀ h ∈ s.sched.groups, ∀ q ∈ h.posted, q.open_ h = false) → base = tileKey s r →
    olds = (List.range 512).map (fun i => BitVec.ofNat 32 (leNat (bytesAt s.cores.cstore (base + 4 * i) 4))) →
    ∃ t, exec (.yokePassComplete team k) s = .next t ∧ t.ms = s.ms ∧ t.cores.astore = s.cores.astore ∧
      bytesAt t.cores.cstore base 2048 = wordsBytes ((passTile s r olds).map (·.1)) ∧
      ∀ q, (q < base ∨ base + 2048 ≤ q) → mget 0 q t.cores.cstore = mget 0 q s.cores.cstore) ∧
  (∀ (s : State) (r : YokeReq) (g : Group) (pl : Plane) (olds : List Word) (i n : Nat) (bs : List XVal), aOpen s r = false →
    findGroup s r.group = some g → mget? r.slot (yokeOf s (teamOf r.core)).planes = some pl → i < 8 → n < 64 →
    pl.cols[n]? = some bs → ((passTile s r olds).map (·.1))[64 * i + n]? =
      some (accumulate r (aRow s g r pl.klen i).1 bs (olds.getD (64 * i + n) 0)).1) ∧
  (∀ (r : YokeReq) (xs ys : List XVal) (is js : List Int) (old : Word) (o t : XVal) (val : Int → XVal),
    val = (fun i => .fin ⟨decide (i < 0), i.natAbs, 0⟩) → o = (if r.nacc then .fin ⟨false, 0, 0⟩ else ofF32 old) →
    (fmtA r.fmt ≠ .s8 → t = sumX ((xs.zip ys).map fun x => x.1.mul x.2)) →
    (fmtA r.fmt = .s8 → xs.map XVal.oneZero = is.map val ∧ ys.map XVal.oneZero = js.map val ∧
      t = val ((is.zip js).map fun x => x.1 * x.2).sum) →
    (accumulate r xs ys old).1 = BitVec.ofNat 32 (roundX .f32 (.mode .rne) r.sat
      (o.add (decodeNum .f32 (roundX .f32 (.mode .rne) r.sat t).1))).1) ∧
  (∀ (s : State) (g : Group) (r : YokeReq) (f : Fmt) (klen i k : Nat), f = fmtA r.fmt → r.record = none → fmtScale r.fmt = 0 →
    r.had = 0 → r.uns = false → fmtSpare r.fmt = false → 32 % f.width = 0 → k < kBlock f →
    (aRow s g r klen i).1[k]? = some (XVal.negIf r.neg (if klen ≤ k then .fin ⟨false, 0, 0⟩
      else decodeNum f (nbits (getV g (8 * r.seg + i) (r.aReg + k * f.width / 32)).toNat (k * f.width % 32) f.width)))) ∧
  ∀ (s : State) (team k : Nat) (r : YokeReq) (pl : Plane), (yokeOf s team).running[k]? = some r → r.isLoad = true →
    pl = { cls := (mget? r.slot (yokeOf s team).planes).elim ((yokeClass (fmtB r.fmt)).elim 0 fun x => x.1) (fun q => q.cls),
           klen := shKlen (r.record.getD []), cols := (planeCols s r).map (·.1) } →
    ∃ fl, exec (.stencilPlaneWritten team k) s = .next (endReq (noteFlags (spendFree (putYoke s team
      { yokeOf s team with planes := mput r.slot pl (yokeOf s team).planes }) !r.openCols.isEmpty) r.launch fl) team r)

/-- R17, R183 to R185, R193, R196, R197, R198, R326, R342, R387, R417: WASH enters one request and one outstanding result for each
active lane, sent to the stack of its base; a request whose places can all be read makes its result known. RAYSEND sends one
message for each active lane and counts them in INFLIGHT and, after the updates on their way there, at the barrier; CBACK
sends its block; ASPUB, after a release, drops the other bank's lines from the node caches and tells by Q whether it flipped.
The stack of a base without DRAM of the device, and what the node caches keep, are the model's choice (log entries 20, 23). -/
def Obligations.RenderIssueResults : Prop :=
  (∀ (s : State) (g : Group) (p : Split) (y : Bool) (gd : Guard) (c d : BitVec 6) (n : BitVec 9) (ls : List Nat) (ws : List Word),
    Issues s g p {} → ls = active g p gd → ls ≠ [] →
    ws = (List.range (waLen (getS g (n.toNat + 2)))).map (fun i => getS g (n.toNat + i)) →
    SOk g ((List.range (waLen (getS g (n.toNat + 2)))).map (n.toNat + ·)) →
    VOk g ls ((List.range (waCoords ws)).map (· + c.toNat) ++ (List.range (waDests ws)).map (· + d.toNat)) →
    dw64 ws 0 % 256 = 0 → washBad ws = false → fenceHolds s g ls [(dw64 ws 0, 2 ^ 64 - dw64 ws 0)] = false →
    ∃ u rs, exec (.wash y gd c d n) s = .next (finish u (addPend g (rs.map fun r =>
        { kind := .wash r.id, pc := startPc p, owner := ownLanes p, lanes := laneBits [r.lane],
          v := (List.range (waDests ws)).map fun k => (r.lane * 256 + eff g d.toNat + k, 0) })) p y) ∧
      u = { noteXlate s (whoOf s g) (dw64 ws 0) with render := u.render } ∧ u.render.washes = s.render.washes ++ rs ∧
      rs.map (·.lane) = ls ∧ (rs.map (·.id)).Nodup ∧ ∀ r ∈ rs, r.group = g.id ∧ r.words = ws ∧ r.stopped = false ∧
        r.stack = (washStack s (launchOf s g.launch).asid (dw64 ws 0)).getD 0 ∧
        r.coords = (List.range (waCoords ws)).map (fun k => getV g r.lane (eff g (c.toNat + k)))) ∧
  (∀ (s u : State) (k : Nat) (r : WashReq) (got : List (List Byte)), s.render.washes[k]? = some r → r.stopped = false →
    r.parked = none → washStack s r.asid (dw64 r.words 0) = some r.stack → (∀ x ∈ s.render.washes, x.id = r.id → x = r) →
    washLoad r.stack r.asid r.waits (washReads r) s [] = .ok u got →
    exec (.washRequest k) s = .next (endWash u r (washWords r got))) ∧
  (∀ (s t u v w z : State) (g j : Group) (p : Split) (y : Bool) (gd : Guard) (a : BitVec 6) (n : BitVec 9) (o c f : Bool) (ls : List Nat)
    (ws : List Word) (desc bar l1 l2 bank : Nat) (t1 t2 : Attr) (r1 r2 : List (Nat × Nat × Attr)) (d : List Byte) (l : Launch),
    Issues s g p {} → ls = active g p gd → ls ≠ [] → VOk g ls ((List.range 8).map (· + a.toNat)) →
    SOk g ((List.range 12).map (n.toNat + ·)) → ws = (List.range 12).map (fun i => getS g (n.toNat + i)) → l = launchOf s g.launch →
    rayAlign ws (laneBits ls) = none →
    checkObject s (whoOf s g) (laneBits ls) .object true 5 64 64 (dw64 ws 0) = .ok ((l1, desc, t1) :: r1) →
    checkObject s (whoOf s g) (laneBits ls) .object true 5 16 16 (dw64 ws 4) = .ok ((l2, bar, t2) :: r2) →
    l.desc.batchBase ≤ dw ws 10 % 65536 → dw ws 10 % 65536 < l.desc.batchBase + l.desc.batchCount →
    fenceHolds s g ls [(dw64 ws 0, 64), (dw64 ws 4, 16)] = false → t = noteAll s (whoOf s g) [dw64 ws 0, dw64 ws 4] →
    u = putMs t (reachHome t.clock.ps (.core g.core) desc 64 t.ms) →
    d = readHome u.ms desc 64 → descBad d = false → z = flushBar u (.dram bar) (some g.core) → findGroup z g.id = some j →
    (readBar z (.dram bar)).pending + 32 * ls.length < 2 ^ 48 →
    bank = descGen d % 2 → v = putMs z (engineWrite z.clock.ps (.core j.core) (desc + 28 + 4 * bank)
      (leBytes 4 ((descInflight d bank + ls.length) % 2 ^ 32)) z.ms) → w = freshNodes v →
    exec (.raysend y gd a n o c f) s = .next (updateBar (finish { w with render := { w.render with
      batches := mput (dw ws 10 % 65536) ⟨ws, l.asid, l.desc.region, l.id, (termsOf z j.launch j.wg).elim 64 fun r => r.paddocks⟩
        w.render.batches,
      flying := w.render.flying ++ (rayMsgs j ls a o c f ws d desc bar).map fun m =>
        { work := atTreelet m (descRoot d bank), stack := none, core := j.core } } } j p y) (.dram bar)
      (.expect (32 * ls.length)) (some j.core))) ∧
  (∀ (s : State) (g : Group) (p : Split) (y : Bool) (gd : Guard) (b : BitVec 3) (c : CbackCode) (ws : List Word),
    Issues s g p {} → guardQ g gd = true → SOk g ((List.range 8).map (8 * b.toNat + ·)) →
    ws = (List.range 8).map (fun i => getS g (8 * b.toNat + i)) → s.plat.walk = false →
    exec (.cback y gd b c) s = .next (finish { s with render := { s.render with answers := s.render.answers ++
      [{ core := g.core, split := (g.id, p.id), stack := nbits (dw ws 7) 24 3, asid := (launchOf s g.launch).asid,
         region := (launchOf s g.launch).desc.region, words := ws, code := c }] } } g p y)) ∧
  ∀ (s u v w : State) (g : Group) (p : Split) (y : Bool) (gd : Guard) (n : BitVec 6) (q : BitVec 3) (va pa l asid : Nat) (t : Attr)
    (r : List (Nat × Nat × Attr)) (d : List Byte), Issues s g p {} → guardQ g gd = true → SOk g [2 * n.toNat, 2 * n.toNat + 1] →
    va = (getS64 g (2 * n.toNat)).toNat →
    checkObject s (whoOf s g) (allOf g p) .object true 5 64 64 va = .ok ((l, pa, t) :: r) → relHeld s g (enabled g p) .dev = false →
    fenceHolds s g (enabled g p) [(va, 64)] = false → u = releaseAt (noteXlate s (whoOf s g) va) g.core g.id .dev →
    v = putMs u (reachHome u.clock.ps (.core g.core) pa 64 u.ms) → d = readHome v.ms pa 64 → asid = (launchOf s g.launch).asid →
    w = dropBank v asid (descBase d ((descGen d + 1) % 2)) →
    exec (.aspub y gd n q) s = .next (finish (flipGen w g.core pa asid).1
      (addPend g [{ knownResult p [] [] [] with q := some (q.toNat, (flipGen w g.core pa asid).2) }]) p y) ∧
    (flipGen w g.core pa asid).2 = !nbit (fieldAt d 26 1) 0

/-- R18, R185, R190, R191, R193, R194, R197, R342: a message that its sender has routed arrives where no earlier one of its sender
is under way: it joins the paddock of its treelet, takes a free one, or joins the waiting chain; one with an empty interval
ends at its sender as a miss. A round serves the paddock with the most messages, or one unserved for 8 rounds, its messages
one after another, and a ray with nothing left finishes. An answer that matches no waiting ray is dropped, one that ignores
its candidate lets its ray go on, and one that terminates ends it with TERMINATED, unless its hit record meets a translation
fault, on which the answer parks; a subtraction that nothing goes before counts INFLIGHT down. -/
def Obligations.CourserResults : Prop :=
  (∀ (s u : State) (k : Nat) (f : Flight), s.render.flying[k]? = some f → f.parked = none → flightHeld s k f = false →
    s.render.dying.contains f.work.msg.launch = false → u = { s with render := { s.render with flying := dropNth k s.render.flying } } →
    (∀ (st va : Nat) (b : Batch), f.stack = some st → va = treeletVa f.work.msg.base f.work.tid → b = batchOf u f.work.msg.batch →
      exec (.rayMessageArrival k) s = .next (settlePaddocks (placeRay u st f.work) st) ∧
      (∀ p ∈ paddocksOf u st, p.treelet = va → p.asid = b.asid → p.spill = [] → p.fifo.length < b.depth →
        (∀ q ∈ paddocksOf u st, q.no = p.no ∨ (q.treelet = va ∧ q.asid = b.asid) → q = p) →
        placeRay u st f.work = putPaddock u st { p with fifo := p.fifo ++ [f.work] }) ∧
      ((∀ p ∈ paddocksOf u st, ¬ (p.treelet = va ∧ p.asid = b.asid)) →
        (roomFor u st b = true → (∀ p ∈ paddocksOf u st, p.no ≠ freeNo (paddocksOf u st)) →
          paddocksOf (placeRay u st f.work) st = paddocksOf u st ++ [
            { no := freeNo (paddocksOf u st), treelet := va, tid := f.work.tid, asid := b.asid, region := b.region,
              fifo := [f.work] }]) ∧
        (roomFor u st b = false →
          (chainAt (placeRay u st f.work) st).rays = (chainAt u st).rays ++ [(va, f.work)] ∧
          paddocksOf (placeRay u st f.work) st = paddocksOf u st))) ∧
    (f.stack = none → emptyRay f.work.msg = true → ∀ v, finishRay s (stackOf f.work.msg.desc) f.work false = .ok v () →
      exec (.rayMessageArrival k) s = .next { v with render := { v.render with flying := dropNth k s.render.flying } } ∧
      v.render.subs = s.render.subs ++ ((f.work.exc.map fun e => (e.desc, e.bank)).toList ++
        [(f.work.msg.desc, f.work.msg.bank)]).map (fun x => ⟨x.1, x.2, stackOf f.work.msg.desc, some f.work.msg.bar⟩) ∧
      v.copies.updates = s.copies.updates ++ [⟨.dram f.work.msg.bar, .deliver 32, none⟩])) ∧
  (∀ (s u : State) (st : Nat), u = abortDying s st →
    (selectPaddock (paddocksOf u st) = none → exec (.courserRound st) s = .next (settlePaddocks u st)) ∧
    (∀ (p : Paddock) (v : State), selectPaddock (paddocksOf u st) = some p →
      v = roundRays st p.no p.fifo (putPaddocks u st ((paddocksOf u st).map fun q =>
        if q.no = p.no then { q with fifo := [], unserved := 0 }
        else if q.count = 0 then q else { q with unserved := q.unserved + 1 })) →
      exec (.courserRound st) s = .next (settlePaddocks (match paddockOf v st p.no with
        | some q => putPaddock v st (refillFifo v (q.spill.length + 1) q)
        | none => v) st)) ∧
    (∀ a ∈ paddocksOf s st, a.ready = true → (∀ b ∈ paddocksOf s st, b.ready = true → a ≠ b →
        (if 8 ≤ a.unserved ∨ 8 ≤ b.unserved then b.unserved < a.unserved ∨ (b.unserved = a.unserved ∧ a.tid < b.tid)
         else b.count < a.count ∨ (b.count = a.count ∧ a.tid < b.tid))) →
      selectPaddock (paddocksOf s st) = some a) ∧
    ∀ (no : Nat) (w : RayWork) (r : List RayWork) (x : State), s.render.dying.contains w.msg.launch = false → w.stack = [] →
      w.exc = none → (∀ e ∈ w.msg.pend, pendNear w.msg e.2 = false) → finishRay s st w false = .ok x () →
      roundRays st no (w :: r) s = roundRays st no r x) ∧
  (∀ (s u : State) (k : Nat) (a : Answer), s.render.answers[k]? = some a → a.parked = none → answerHeld s k a = false →
    u = { s with render := { s.render with answers := dropNth k s.render.answers } } →
    (matchAnswer s a = none → exec (.callbackAnswerArrival k) s = .next u) ∧
    (∀ (r : WaitingRay) (v : State), matchAnswer s a = some r →
      v = { u with render := { u.render with answering := u.render.answering.erase r } } →
      (a.code = .ignore → exec (.callbackAnswerArrival k) s = .next (settlePaddocks (placeRay v a.stack r.work) a.stack)) ∧
      (a.code = .terminate → passes r.work.msg (offered r a) r.prim r.inst = false →
        ∀ e, finishRay v a.stack { r.work with msg := { r.work.msg with terminated := true, pend := [] } } false = e →
          (∀ x, e = .ok x () → exec (.callbackAnswerArrival k) s = .next x) ∧
          ∀ x acc va lv, e = .park x acc va lv → exec (.callbackAnswerArrival k) s =
            .next (parkAnswer s k a.stack (batchOf s r.work.msg.batch).asid acc va lv)))) ∧
  ∀ (s : State) (k pa bank st : Nat) (bar : Option Nat), s.render.subs[k]? = some ⟨pa, bank, st, bar⟩ →
    subHeld s k ⟨pa, bank, st, bar⟩ = false → bank < 2 → (∀ i < 64, (physOf false (pa + i)).isDram = true) →
    NoForwarding s.ms → s.ms.cache.homePins = [] →
    ∃ t, exec (.inflightSubtraction k) s = .next t ∧ t.render.subs = dropNth k s.render.subs ∧
      leNat (readHome t.ms (pa + 28 + 4 * bank) 4) = (leNat (readHome s.ms (pa + 28 + 4 * bank) 4) + 2 ^ 32 - 1) % 2 ^ 32 ∧
      KeepsBytes s.ms t.ms fun a => (pa + 28 + 4 * bank ≤ a ∧ a < pa + 32 + 4 * bank) ∨ a = pa + 26

/-! ## Views and Vellum -/

/-- R110, R215, R217 to R220, R222, R343, R344, R368, R369, R409, R416: TPF and TPF.BIND start the fills of the folios that are
not resident, BIND counting every folio at its barrier; INSTALL and CKPT, after a release, enter their queues, an install whose
destination is no page of Vellum ending at once; VQRY tells a view block's state, and VQRY.ST the group's VSTALE, which it
clears. -/
def Obligations.TierIssueResults : Prop :=
  (∀ (s : State) (g : Group) (p : Split) (y : Bool) (gd : Guard) (n : BitVec 6) (fs vas : List Nat), Issues s g p {} →
    guardQ g gd = true → SOk g ((List.range 4).map (2 * n.toNat + ·)) →
    tpfCheck s g (allOf g p) (getS64 g (2 * n.toNat)).toNat (getS64 g (2 * n.toNat + 2)).toNat = .ok fs vas →
    (∃ u, exec (.tpf y gd n) s = .next (finish u g p y) ∧ u = { noteAll s (whoOf s g) vas with tier := u.tier } ∧
      u.tier = { s.tier with fills := u.tier.fills } ∧
      ∀ f, f ∈ u.tier.fills ↔ f ∈ s.tier.fills ∨ (f ∈ fs ∧ f ∉ s.tier.palette)) ∧
    (∀ (b : BitVec 5) (gl : Bool) (va : Nat) (pl : BarPlace) (u v : State) (j : Group), SOk g [2 * b.toNat, 2 * b.toNat + 1] →
      va = (getS64 g (2 * b.toNat)).toNat → u = noteAll s (whoOf s g) vas → placeBar u g (allOf g p) 5 gl va = .at pl → fs ≠ [] →
      fenceHolds u g (enabled g p) (if gl then [(va, 16)] else []) = false →
      v = flushBar (if gl then noteXlate u (whoOf u g) va else u) pl (some g.core) → findGroup v g.id = some j →
      (readBar v pl).pending + 65536 * fs.dedup.length < 2 ^ 48 →
      (∀ f ∈ fs, f ∉ v.tier.palette) → (∀ h ∈ v.sched.groups, ∀ q ∈ h.splits, ∀ pl' a ph, q.wait ≠ .byteBarrier pl' a ph) →
      exec (.tpfBind y gd n b gl) s = .next (fs.dedup.foldl startFill
        { updateBar (finish v j p y) pl (.expect (65536 * fs.dedup.length)) (some j.core) with tier := { v.tier with tpf := v.tier.tpf ++ [⟨j.launch, j.wg, pl, fs.dedup⟩] } }))) ∧
  (∀ (s v : State) (g : Group) (p : Split) (y : Bool) (gd : Guard) (d : BitVec 6) (ws : List Word) (i : Install) (l : Launch),
    Issues s g p {} → guardQ g gd = true → l = launchOf s g.launch → relHeld s g (enabled g p) .dev = false →
    v = releaseAt s g.core g.id .dev →
    (ws = (List.range 8).map (fun k => getS g (2 * d.toNat + k)) → SOk g ((List.range 8).map (2 * d.toNat + ·)) →
      dw64 ws 0 % 65536 = 0 → dw64 ws 2 % 65536 = 0 → dw64 ws 4 % 65536 = 0 → 0 < dw64 ws 4 → dw64 ws 4 ≤ 2 ^ 32 →
      i = ⟨none, [], l.id, l.desc.region, l.asid, (wgOf s g.launch g.wg).isSealed, dw64 ws 0, dw64 ws 2, dw64 ws 4,
        BitVec.ofNat 64 (dw64 ws 6), 0, false, (termsOf s g.launch g.wg).map fun r => r.cring⟩ →
      (∀ x, vellumPage s (whoOf s g) (dw64 ws 2) = some x → ((installsOf s x).filter fun j => j.ckpt.isNone).length < 16 →
        exec (.install y gd d) s = .next (putInstalls (finish v g p y) x (installsOf s x ++ [i]))) ∧
      (vellumPage s (whoOf s g) (dw64 ws 2) = none →
        exec (.install y gd d) s = .next (tierRecord (finish v g p y) i.cring i.asid 0 1 5 0 0 i.tag))) ∧
    (∀ full u, ws = (List.range 10).map (fun k => getS g (2 * d.toNat + k)) → SOk g ((List.range 10).map (2 * d.toNat + ·)) →
      dw64 ws 0 % 65536 = 0 → dw64 ws 2 % 65536 = 0 → dw64 ws 4 % 16 = 0 → dw64 ws 6 % 64 = 0 → 0 < dw64 ws 2 →
      dw64 ws 2 ≤ 2 ^ 40 → ckptObjects s (whoOf s g) (allOf g p) (dw64 ws 0) (dw64 ws 4) (dw64 ws 6) = .ok [] →
      s.tier.ckpts.length < 64 → u = noteAll s (whoOf s g) [dw64 ws 0, dw64 ws 4, dw64 ws 6] →
      ∃ c : Ckpt, exec (.ckpt y gd d full) s = .next (finish { releaseAt u g.core g.id .dev with
          tier := { u.tier with ckpts := u.tier.ckpts ++ [c], nextCkpt := s.tier.nextCkpt + 1 } } g p y) ∧
        c.id = s.tier.nextCkpt ∧ c.src = dw64 ws 0 ∧ c.blocks = dw64 ws 2 / 65536 ∧ c.htab = dw64 ws 4 ∧ c.dst = dw64 ws 6 ∧
        c.tag = BitVec.ofNat 64 (dw64 ws 8) ∧ c.full = full ∧ c.left = List.range (dw64 ws 2 / 65536) ∧ c.asid = l.asid ∧
        c.cring = (termsOf s g.launch g.wg).map fun r => r.cring)) ∧
  (∀ (s : State) (g : Group) (p : Split) (y : Bool) (gd : Guard) (n : BitVec 6) (b q : BitVec 3) (va l pa : Nat) (t : Attr)
    (r : List (Nat × Nat × Attr)) (v : ViewEntry) (z : ViewPart) (blk : Nat) (hs : List (ViewEntry × ViewPart × Nat)),
    Issues s g p {} → guardQ g gd = true → SOk g [2 * n.toNat, 2 * n.toNat + 1, 8 * b.toNat] →
    va = (getS64 g (2 * n.toNat)).toNat → checkObject s (whoOf s g) (allOf g p) .read false 1 1 1 va = .ok ((l, pa, t) :: r) →
    viewHits s pa 1 = (v, z, blk) :: hs → fenceHolds s g (enabled g p) [(va, 1)] = false →
    exec (.vqry y gd n b q) s = .next (finish (noteXlate s (whoOf s g) va) (addPend g
      [{ knownResult p (enabled g p) [] [(8 * b.toNat, BitVec.ofNat 32 (viewState s v blk))] with
         q := some (q.toNat, viewState s v blk == 0) }]) p y)) ∧
  ∀ (s : State) (g : Group) (p : Split) (y : Bool) (gd : Guard) (b q : BitVec 3), Issues s g p {} → guardQ g gd = true →
    SOk g [8 * b.toNat] →
    exec (.vqrySt y gd b q) s = .next (finish s { addPend g [{ knownResult p (enabled g p) []
      [(8 * b.toNat, if g.vstale then 1 else 0)] with q := some (q.toNat, g.vstale) }] with vstale := false } p y)

/-- R110, R210, R211, R218, R220, R222, R223, R226, R344: a fill ends with its folio resident, poisoned where the read failed, and
posts 65,536 bytes to each barrier bound to it, with ERR 5 first where it failed. A Vellum stack programs the next folio of
its queue: where endurance and a free place are left and the program succeeds, the folio holds the bytes of the source page or
of the stream, and an install with more folios stays at the head; without endurance nothing is programmed. A Blotter handles
its next block: an unchanged one leaves no entry, any other one an entry that awaits its acknowledgement, which writes its
hash to HTAB. A unit's erasure and retirement change its stack's places. A region that is torn down is registered no more,
nothing of it is queued, and each install and checkpoint of it ends with a record of STATUS ABORTED; what a tear-down removes
is log entry 25's choice. A settled dirty block is taken; the Copyist writes the next view block's bytes and then its tag, by
die 0's view table, as log entry 11 reads it. -/
def Obligations.TierServiceResults : Prop :=
  (∀ (s : State) (f : Nat) (failed : Bool), f ∈ s.tier.fills →
    ∃ t, exec (.vellumFolioFill f failed) s = .next t ∧ f ∈ t.tier.palette ∧ f ∉ t.tier.fills ∧
      (∀ x ∈ t.tier.palette, x = f ∨ x ∈ s.tier.palette) ∧
      ((s.tier.palette.filter fun x => paletteStack x == paletteStack f).length < paletteShare s →
        ∀ x ∈ s.tier.palette, x ∈ t.tier.palette) ∧
      (∀ b ∈ t.tier.tpf, f ∉ b.folios) ∧ (∀ b ∈ s.tier.tpf, f ∈ b.folios → ⟨b.bar, .deliver 65536, none⟩ ∈ t.copies.updates ∧
        (failed = true → ⟨b.bar, .error 5, none⟩ ∈ t.copies.updates)) ∧
      (∀ i < 2048, (mget {} (f * 2048 + i) t.ms.dram.flags).p = failed) ∧ t.ms.mem = s.ms.mem) ∧
  (∀ (s u : State) (v : Nat) (f2 : Bool) (i : Install) (r : List Install), installsOf s v = i :: r →
    u = deviceRead s (endureBlock s i.region + 40) 8 →
    (∀ (f : Nat) (bs : List Byte), endureLeft u i.region ≠ 0 → 0 < freePlaces u v → bs.length = 65536 →
      (i.ckpt = none → ∀ pa, srcPage s v i (i.src + 65536 * i.done) = .inl pa →
        dstFolio s v i (i.dst + 65536 * i.done) = .inl f →
        bs = (engineRead u.clock.ps pa 65536 (chargeEndure u i.region).ms).2 →
        ∃ t, exec (.installFolio v false f2) s = .next t ∧ bytesAt t.ms.mem (f * 65536) 65536 = bs ∧ f ∉ t.tier.palette ∧
          installsOf t v = if i.len ≤ 65536 * (i.done + 1) then r else { i with done := i.done + 1 } :: r) ∧
      (∀ c, i.ckpt = some c → dstFolio s v i i.dst = .inl f → bs = i.data →
        ∃ t, exec (.installFolio v false f2) s = .next t ∧ bytesAt t.ms.mem (f * 65536) 65536 = bs ∧ f ∉ t.tier.palette)) ∧
    (∀ (f1 : Bool) (pa f : Nat), i.ckpt = none → srcPage s v i (i.src + 65536 * i.done) = .inl pa →
      dstFolio s v i (i.dst + 65536 * i.done) = .inl f → endureLeft u i.region = 0 →
      ∃ t, exec (.installFolio v f1 f2) s = .next t ∧ t.ms = u.ms ∧ installsOf t v = r)) ∧
  (∀ (s u w : State) (st b pa ha : Nat) (c : Ckpt) (bs old : List Byte), nextBlockOf s st = some (c, b) →
    blotLoad s st c ((c.src + 65536 * b) % 2 ^ 64) 65536 = .ok u (pa, bs) →
    w = putCtl u st { ctlOf u st with
      scrubbed := insertKey (forwarded u.ms.dram pa % Config.stackBytes / 65536) (ctlOf u st).scrubbed } →
    ∀ x, blotLoad w st c ((c.htab + 16 * b) % 2 ^ 64) 16 = .ok x (ha, old) →
    (old = blakeHash bs → c.full = false →
      exec (.checkpointBlock st) s = .next (closeCkpt (takeCkptBlock (releaseBanks x st) c b) c.id)) ∧
    (¬ (old = blakeHash bs ∧ c.full = false) → ∀ z, streamEntry x st c b (blakeHash bs) bs = .ok z () →
      exec (.checkpointBlock st) s = .next (closeCkpt (takeCkptBlock (releaseBanks z st) c b) c.id) ∧
      z.tier.acks = x.tier.acks ++ [⟨c.id, b, blakeHash bs, 65600 * (c.entries + 1), none⟩])) ∧
  (∀ (s u : State) (k : Nat) (a : CkptAck) (c : Ckpt) (xs : List (Nat × List Byte)), s.tier.acks[k]? = some a →
    ckptOf s a.ckpt = some c → a.parked = none → ackReady c a = true →
    blotPlaces ((blockStack s c a.block).getD 0) c .write true [((c.htab + 16 * a.block) % 2 ^ 64, a.hash)] s = .ok u xs →
    ∃ pa t, xs = [(pa, a.hash)] ∧ exec (.checkpointEntryAck k) s = .next t ∧ a ∉ t.tier.acks ∧
      ((physOf false pa).isDram = true → NoForwarding u.ms → a.hash.length = 16 → readHome t.ms pa 16 = a.hash)) ∧
  (∀ (s : State) (st freed retired : Nat), ∃ t, exec (.eraseAndRetireUnit st freed retired) s = .next t ∧
    t = { s with tier := { s.tier with placesFreed := t.tier.placesFreed, placesUsed := t.tier.placesUsed } } ∧
    ∀ v, mget 0 v t.tier.placesFreed = mget 0 v s.tier.placesFreed + (if v = st then freed else 0) ∧
      mget 0 v t.tier.placesUsed = mget 0 v s.tier.placesUsed + (if v = st then retired else 0)) ∧
  (∀ (s : State) (addr : Nat), ∃ t, exec (.regionTeardown addr) s = .next t ∧ regionOf t addr = none ∧
    (∀ a, a ≠ addr → regionOf t a = regionOf s a) ∧ (∀ v, ∀ i ∈ installsOf t v, i.region ≠ addr) ∧
    (∀ c ∈ t.tier.ckpts, c.region ≠ addr) ∧
    (∀ x ∈ s.tier.installs, ∀ i ∈ x.2, ∀ ring, i.region = addr → i.ckpt = none → i.cring = some ring →
      ∃ r ∈ t.copies.rings, r.header = ring.toNat ∧ r.asid = some i.asid ∧ r.words = recordWords s 1 7 0 (65536 * i.done) i.tag) ∧
    ∀ c ∈ s.tier.ckpts, ∀ ring, c.region = addr → c.cring = some ring →
      ∃ r ∈ t.copies.rings, r.header = ring.toNat ∧ r.asid = some c.asid ∧
        r.words = recordWords s 2 7 (min c.skipped 65535) ({ c with ended := some 7 } : Ckpt).bytes c.tag) ∧
  (∀ (s : State) (b : Nat), deadStack s (stackOf (b * 4096)) = false → (blockSt s.ms.dram b).dirty = true →
    (blockSt s.ms.dram b).marked + (ctlOf s (stackOf (b * 4096))).settle * 100_000 ≤ s.clock.ps →
    ∃ t, exec (.settleIntervalExpiry b) s = .next t ∧ t = { s with
        ms := t.ms, die0 := t.die0, die1 := t.die1, tier := { s.tier with jobs := t.tier.jobs } } ∧
      (blockSt t.ms.dram b).dirty = false ∧ (NoForwarding s.ms → KeepsBytes s.ms t.ms fun _ => False) ∧
      ∃ js, t.tier.jobs = s.tier.jobs ++ js ∧ ∀ j ∈ js, j.block = b) ∧
  ∀ (s u w : State) (k i b st : Nat) (j : ViewJob) (v : ViewEntry) (d : List Byte × Bool) (xs : List (Nat × List Byte)),
    s.tier.jobs[k]? = some j → j.stopped = false → j.parked = none → j.aborted = false → jobHeld s k j = false → j.poison = [] →
    j.views.head? = some (i, b) → v = readView s.ms s.die0.viewTable i → st = stackOf (j.block * 4096) →
    readMaster s k j = (u, d) → viewCause u v d = none →
    viewPlaces st v.asid ((viewWrites v b d.1 ++ tagWrites v b j.version true).flatMap fun x =>
      pagePieces (x.2.length / 65536 + 2) x.1 x.2) u = .ok w xs → peerPlaces w xs = [] →
    exec (.viewBlockRecompute k) s = .next (nextView (writePlaces w xs) k)

/-! ## Dispatch, registration, faults -/

/-- R228, R229, R235, R237, R239, R372: LAUNCH, after a release, appends its descriptor where the queue has room, and tells by
Q; a doorbell moves TAIL; a round restores, prepares every head, and serves the aged queues and then at most one more, of the
highest priority that can be served; a fit wait of 4,096 cycles drains a span. -/
def Obligations.DispatchResults : Prop :=
  (∀ (s u v w : State) (g : Group) (p : Split) (y : Bool) (gd : Guard) (n : BitVec 6) (q : BitVec 3) (desc hdr dpa hpa l1 l2 : Nat)
    (t1 t2 : Attr) (r1 r2 : List (Nat × Nat × Attr)) (qu : Queue), Issues s g p {} → guardQ g gd = true →
    SOk g ((List.range 4).map (2 * n.toNat + ·)) → desc = (getS64 g (2 * n.toNat)).toNat → hdr = (getS64 g (2 * n.toNat + 2)).toNat →
    desc % 128 = 0 → hdr % 64 = 0 →
    checkObject s (whoOf s g) (allOf g p) .read true 5 128 128 desc = .ok ((l1, dpa, t1) :: r1) →
    checkObject s (whoOf s g) (allOf g p) .object true 5 64 64 hdr = .ok ((l2, hpa, t2) :: r2) →
    launchQueue s g hpa = some qu → relHeld s g (enabled g p) .dev = false →
    fenceHolds s g (enabled g p) [(desc, 128), (hdr, 64)] = false → u = noteAll s (whoOf s g) [desc, hdr] →
    v = releaseAt u g.core g.id .dev → w = deviceRead v qu.header 64 →
    exec (.launch y gd n q) s = .next (finish (appendEntry v g.core qu dpa).1 (addPend g
      [{ knownResult p (enabled g p) [] [] with q := some (q.toNat, (appendEntry v g.core qu dpa).2) }]) p y) ∧
    ((appendEntry v g.core qu dpa).2 = false ↔
      (hdrTail w qu.header + 2 ^ 64 - hdrHead w qu.header) % 2 ^ 64 = 2 ^ hdrLog w qu.header)) ∧
  (∀ (s : State) (n : Nat) (v : DWord), exec (.doorbell n v) s = .next { s with sched := { s.sched with
    queues := s.sched.queues.map fun q => if q.num = n then { q with tail := v.toNat } else q } }) ∧
  (∀ (s a b c d : State) (ready : List Nat) (e f : State × List Nat), a = serveRestores s →
    b = (a.sched.queues.map fun q => q.num).foldl prepareHead a → ready = readyNow b →
    c = ((b.sched.queues.map fun q => q.num).filter fun n => !ready.contains n).foldl startFitWait b → d = settleRound c ready →
    e = serveAged d ready → f = serveOne e.1 (ready.filter fun n => !e.2.contains n) →
    exec .dispatchRound s = .next { f.1 with sched := { f.1.sched with queues := f.1.sched.queues.map fun q =>
      if q.num ∈ ready ∧ q.num ∉ e.2 ++ f.2 then { q with waitCount := min 16 (q.waitCount + 1) } else q } }) ∧
  (∀ (s : State) (rest : List Nat), (serveOne s rest).2.length ≤ 1 ∧ ∀ n ∈ (serveOne s rest).2, n ∈ rest ∧
    ∃ qn ∈ s.sched.queues, qn.num = n ∧ ∀ m ∈ rest, ∀ qm, queueNo s m = some qm → (serveQueue s m).isSome = true →
      queuePrio s qm < 16 → queuePrio s qm ≤ queuePrio s qn) ∧
  ∀ (s : State) (n t lid k : Nat) (q : Queue), queueNo s n = some q → q.fitSince = some t → q.head = some lid →
    t + 4096 ≤ s.clock.cycle → q.drain = [] → spanSize (launchOf s lid).desc = some k →
    ∃ cs, exec (.fitWaitExpiry n) s = .next (putQ s { q with drain := cs }) ∧ (cs = [] ∨ cs.length = k) ∧
      ∀ c ∈ cs, ∀ x ∈ s.sched.queues, x.num ≠ n → c ∉ x.drain

/-- R225, R228, R272, R274, R279, R282, R283, R287, R291, R295, R430: the registers that register and bind: a success holds what
it names and gives reason 0, a refusal for one reason gives that reason and holds nothing; a PARTITION of more than 96 cores is
discarded; other registers take their values, brought into their ranges, and the sealed ones only through the session. -/
def Obligations.RegistrationResults : Prop :=
  (∀ (s u : State) (die : Nat) (v : DWord), deadDie s die = false →
    (u = (if inDram s.plat.walk v.toNat 256 then deviceRead s v.toNat 256 else s) →
      (regionReasons u v.toNat = [] → ∃ t, exec (.regRegion die v) s = .next t ∧
        regionOf t v.toNat = some (resolvedRegion u v.toNat) ∧ (dieRegs t die).regResult % 65536 = 0) ∧
      (∀ r, r < 256 → regionReasons u v.toNat = [r] → ∃ t, exec (.regRegion die v) s = .next t ∧ t.sched = u.sched ∧
        (dieRegs t die).regResult % 65536 = r * 256 + 1)) ∧
    (u = (if inDram s.plat.walk v.toNat 64 then deviceRead s v.toNat 64 else s) →
      (queueReasons u v.toNat (dieRegs u die).queueAsid = [] → ∃ t q, exec (.queueHdr die v) s = .next t ∧
        queueAt t v.toNat = some q ∧ (dieRegs t die).regResult = q.num * 65536) ∧
      (∀ r, r < 256 → queueReasons u v.toNat (dieRegs u die).queueAsid = [r] → ∃ t, exec (.queueHdr die v) s = .next t ∧
        t.sched = u.sched ∧ (dieRegs t die).regResult % 65536 = r * 256 + 1)) ∧
    (∀ z n b, (z = true → s.plat.session = true) → n = (asidSel s die z).toNat →
      b = (⟨nbits v.toNat 16 36 * 65536, z⟩ : Binding) →
      (nbits v.toNat 0 2 = 1 → exec (.asidBind die z v) s = .next (if bindBad s (asidSel s die z) z v then regResult s die 10
        else regResult { s with xlat := { s.xlat with binds := mput n b s.xlat.binds } } die 0)) ∧
      (nbits v.toNat 0 2 = 2 → exec (.asidUnbind die z v) s = .next (if bindBad s (asidSel s die z) z v then regResult s die 10
        else regResult { s with xlat := { s.xlat with binds := mdel n s.xlat.binds } } die 0))) ∧
    exec (.partition die v) s = .next (if 96 < nbits v.toNat 0 16 + nbits v.toNat 16 16 then s
      else putDie s die { dieRegs s die with part0 := nbits v.toNat 0 16, part1 := nbits v.toNat 16 16 }) ∧
    (∀ via, let d := dieRegs s die
      exec (.registerWrite (die * 0x10_0000 + 0x110) via v) s = .next (putDie s die { d with queueAsid := v.toNat }) ∧
      exec (.registerWrite (die * 0x10_0000 + 0x120) via v) s = .next (putDie s die { d with viewTable := v.toNat }) ∧
      exec (.registerWrite (die * 0x10_0000 + 0x128) via v) s = .next (putDie s die { d with faultAsid := v.toNat }) ∧
      exec (.registerWrite (die * 0x10_0000 + 0x138) via v) s = .next (putDie s die { d with invalAsid := v.toNat }) ∧
      exec (.registerWrite (die * 0x10_0000 + 0x170) via v) s = .next (putDie s die { d with faultqOpen := v.toNat }) ∧
      exec (.registerWrite (die * 0x10_0000 + 0x178) via v) s = .next (if (via && s.plat.session) = true then
        putDie s die { d with faultqSealed := v.toNat } else s) ∧
      exec (.registerWrite (die * 0x10_0000 + 0x180) via v) s = .next (putDie s die { d with watchCtx := v.toNat }) ∧
      exec (.registerWrite (die * 0x10_0000 + 0x1D0) via v) s = .next (putDie s die { d with asidSel := v }) ∧
      exec (.registerWrite (die * 0x10_0000 + 0x1E0) via v) s = .next (if (via && s.plat.session) = true then
        putDie s die { d with asidSelS := v } else s))) ∧
  ∀ (s : State) (st : Nat) (via : Bool) (v : DWord), deadStack s st = false →
    exec (.registerWrite (0x40_0000 + st * 0x1_0000 + 0x200) via v) s = .next (putCtl s st { ctlOf s st with
      test := nbit v.toNat 31,
      thresh := max (if nbit v.toNat 31 then 32 else 256) (min 16384 (nbits v.toNat 0 16)) }) ∧
    exec (.registerWrite (0x40_0000 + st * 0x1_0000 + 0x220) via v) s = .next (putCtl s st { ctlOf s st with
      scrubEn := nbit v.toNat 31, period := max 1 (min 168 (nbits v.toNat 0 8)) }) ∧
    exec (.registerWrite (0x40_0000 + st * 0x1_0000 + 0x238) via v) s =
      .next (putCtl s st { ctlOf s st with engRing := v.toNat })

/-- R204, R255, R259, R279: INVAL starts an invalidation, and the node caches keep nothing of its pages; it completes once no
access that used the range is left, what a peer can acknowledge being performed, and then no entry of the range is held; a
resolution with retry lets everything that waits for its page go on; one with fail gives a waiting split the permission trap
with reason 3, stops a waiting engine job with cause 1 and a waiting channel with a permission fault, finishes a waiting ray
message, loses a waiting record and makes a waiting condition fail its launch; ENG_JOB resumes the stopped job of a Courser, a
Wash, a Copyist or a Blotter that it names, or ends it: rays finish as by an abort, a lane gets the canonical NaN, a view block
is poisoned, a checkpoint block skipped. Which accesses hold an invalidation is the model's choice (log entry 10). -/
def Obligations.FaultServiceResults : Prop :=
  (∀ (s : State) (die : Nat) (v : DWord), deadDie s die = false → ∃ t, exec (.inval die v) s = .next t ∧
    t = { s with render := { s.render with nodes := t.render.nodes }, xlat := { s.xlat with
      invals := s.xlat.invals ++ [(die, (dieRegs s die).invalAsid, nbits v.toNat 16 41, nbits v.toNat 2 14 + 1)] } } ∧
    ∀ l, l ∈ t.render.nodes ↔ l ∈ s.render.nodes ∧ ¬ (l.asid = (dieRegs s die).invalAsid ∧
      nbits v.toNat 16 41 ≤ l.va % 2 ^ 57 / 65536 ∧ l.va % 2 ^ 57 / 65536 < nbits v.toNat 16 41 + (nbits v.toNat 2 14 + 1))) ∧
  (∀ (s u : State) (die asid first n : Nat) (r : List (Nat × Nat × Nat × Nat)), s.xlat.invals = (die, asid, first, n) :: r →
    u = (if s.plat.linkUp = 0 then s else { s with ms := performPeers s.ms }) → invalBusy u asid first n = false →
    ∃ t, exec (.invalidationComplete die) s = .next t ∧ t.xlat.invals = r ∧ t.ms.mem = u.ms.mem ∧ t.sched = s.sched ∧
      ∀ e, e ∈ t.xlat.tlb ↔ e ∈ s.xlat.tlb ∧ invalHits asid first n e = false) ∧
  (∀ (s : State) (die asid page : Nat) (v : DWord), deadDie s die = false → asid = (dieRegs s die).faultAsid % 2 ^ 32 →
    page = nbits v.toNat 16 41 →
    (nbits v.toNat 0 2 = 1 → s.render.paddocks = [] → s.render.waiting = [] →
      (∀ j ∈ s.tier.blocked, (PageKey.mk die asid page).holds j.parked = false) →
      ∃ t, exec (.faultResolveRetry die v) s = .next t ∧ t.ms = s.ms ∧
        t.xlat = { s.xlat with records := s.xlat.records.filter fun r => r != ⟨die, asid, page⟩ } ∧
        waiters t ⟨die, asid, page⟩ = []) ∧
    (nbits v.toNat 0 2 = 2 → ∀ (k : PageKey) (u : State), k = ⟨die, asid, page⟩ →
      u = { s with xlat := { s.xlat with records := s.xlat.records.filter fun r => r != ⟨die, asid, page⟩ } } →
      (∀ (g : Group) (p : Split) (tr : Trap) (after : DWord), waiters s k = [.split g.id p.id] → findGroup s g.id = some g →
        findSplit g p.id = some p → p.wait = .replay die asid page tr after → outstanding g p = [] → p.resume = none →
        (wgOf s g.launch g.wg).trapBase ≠ 0 → (∀ r, termsOf s g.launch g.wg = some r → r.kill = false) →
        exec (.faultResolveFail die v) s = .next (takeTrap u g (unparked p after) tr none)) ∧
      (∀ (st : Nat) (q : Paddock) (va : Nat) (m : RayMsg), waiters s k = [.paddock st q] → q.parked = some (die, asid, va) →
        ((q.fifo ++ q.spill).head?).map (fun w => w.msg) = some m → exec (.faultResolveFail die v) s =
          .next (stopJob (putPaddock u st { q with parked := none }) st q.no 1 va m)) ∧
      (∀ (r : WashReq) (va : Nat), waiters s k = [.wash r] → r.parked = some (die, asid, va) → exec (.faultResolveFail die v) s =
        .next (stopWash (onWash u r.id fun x => { x with parked := none }) r va 1)) ∧
      (∀ (key : Nat) (c : Channel) (j : CopyJob) (js : List CopyJob) (va : Nat), waiters s k = [.chan key c] → c.jobs = j :: js →
        c.parked = some (die, asid, va) → exec (.faultResolveFail die v) s =
          .next (stopChan u key j 6 c.parkCode 3 j.done va)) ∧
      (∀ (i va b : Nat) (j : ViewJob), waiters s k = [.view i j] → j.parked = some (die, asid, va) → j.now.map (·.2) = some b →
        exec (.faultResolveFail die v) s = .next (stopView (onJob u i fun j => { j with parked := none }) i
          (stackOf (j.block * 4096)) asid va 1 b)) ∧
      (∀ (j : BlockJob) (va : Nat), waiters s k = [.block j] → j.parked = some (die, asid, va) → exec (.faultResolveFail die v) s =
        .next (skipBlock (blotRecord u j.stack j.ckpt j.block 1 va) j)) ∧
      (∀ (f : Flight) (va : Nat), waiters s k = [.flight f] → f.parked = some (die, asid, va) → exec (.faultResolveFail die v) s =
        .next (failRoute { u with render := { u.render with flying := u.render.flying.filter fun x => !k.holds x.parked } }
          (stackOf f.work.msg.desc) va f.work)) ∧
      (∀ (r : RingRec), waiters s k = [.ring r] → r.job = none → exec (.faultResolveFail die v) s =
        .next (ringLost { u with copies := { u.copies with rings := u.copies.rings.filter fun x => !k.holds x.parked } } r)) ∧
      (∀ (q : Queue) (i : Nat), waiters s k = [.cond q] → s.sched.queues = [q] → q.condWait = [(i, page)] →
        exec (.faultResolveFail die v) s =
          .next { u with sched := { u.sched with queues := [{ q with condDead := i :: q.condDead, condWait := [] }] } }))) ∧
  ∀ (s : State) (st op eng job : Nat) (v : DWord), deadStack s st = false → op = nbits v.toNat 62 2 → eng = nbits v.toNat 16 3 →
    job = nbits v.toNat 0 16 →
    (op = 1 → eng = 1 → ∀ p u, paddockOf s st job = some p → job ≠ chainJob →
      u = putPaddock { s with copies := { s.copies with rings := s.copies.rings.map fun r =>
        if (r.unit = st ∧ r.job = some p.no) then { r with stopped := false } else r } } st { p with stopped := false } →
      (p.stopped = false → exec (.engJobResume st v) s = .next s) ∧
      (p.stopped = true → (p.parked ≠ none ∨ p.spill = []) → exec (.engJobResume st v) s = .next (settlePaddocks u st)) ∧
      (p.stopped = true → p.parked = none → p.spill ≠ [] → ∀ w, storeChain st p.spill u = .ok w () →
        exec (.engJobResume st v) s = .next (settlePaddocks w st))) ∧
    (op = 2 → eng = 1 → ∀ p, paddockOf s st job = some p → job ≠ chainJob →
      (∀ r ∈ s.copies.rings, ¬ (r.unit = st ∧ r.job = some p.no)) →
      (p.stopped = false → exec (.engJobAbort st v) s = .next s) ∧
      (p.stopped = true → exec (.engJobAbort st v) s = .next (settlePaddocks ((p.fifo ++ p.spill).foldl (fun u w => abortRay u st w)
        (putPaddock s st { p with fifo := [], spill := [], stopped := false, parked := none })) st))) ∧
    (eng = 1 → job = chainJob → (chainAt s st).stopped = true →
      (op = 1 → (chainAt s st).parked = none → ∀ w, (chainAt s st).rays ≠ [] →
        storeChain st ((chainAt s st).rays.map (·.2)) (putChain s st { chainAt s st with stopped := false }) = .ok w () →
        exec (.engJobResume st v) s = .next (settlePaddocks w st)) ∧
      (op = 2 → exec (.engJobAbort st v) s = .next (settlePaddocks ((chainAt s st).rays.foldl (fun u x => abortRay u st x.2)
        (putChain s st {})) st))) ∧
    (eng = 2 → ∀ r, stoppedWash s st job = some r →
      (op = 1 → exec (.engJobResume st v) s = .next { s with render := { s.render with
        washes := s.render.washes.map fun x => if x.id = r.id then { x with stopped := false } else x } }) ∧
      (op = 2 → exec (.engJobAbort st v) s = .next (endWash s r (List.replicate (waDests r.words) 0x7FC0_0000#32)))) ∧
    (eng = 3 → ∀ k j, stoppedView s st job = some k → s.tier.jobs[k]? = some j →
      (op = 1 → exec (.engJobResume st v) s = .next { s with tier := { s.tier with
        jobs := s.tier.jobs.set k { j with stopped := false } } }) ∧
      (op = 2 → ∀ i b w u t, j.now = some (i, b) → w = readView s.ms s.die0.viewTable i →
        u = { s with tier := { s.tier with jobs := s.tier.jobs.set k { j with stopped := false, parked := none, aborted := true } } } →
        poisonView u st w b (j.tagVersion u w b) 4 = .ok t () → exec (.engJobAbort st v) s = .next (nextView t k))) ∧
    (eng = 4 → ∀ j c, stoppedBlock s st job = some j → s.tier.ckpts = [c] → c.id = j.ckpt →
      (op = 1 → exec (.engJobResume st v) s = .next { s with tier := { s.tier with
        blocked := s.tier.blocked.filter (fun x => x != j), ckpts := [{ c with left := j.block :: c.left }] } }) ∧
      (op = 2 → exec (.engJobAbort st v) s = .next (closeCkpt { s with tier := { s.tier with
        blocked := s.tier.blocked.filter (fun x => x != j), ckpts := [{ c with skipped := c.skipped + 1 }] } } j.ckpt)))

/-- R42, R48, R102, R106, R122, R131, R300, R375: what comes about of a split and of the caches: an aged split is taken first;
an outstanding result whose value is known is written; a deferred publication takes the value of the item before; a late trap is
taken; a pin is promoted; a line whose reads are used up goes; a prefetcher's line is fetched. -/
def Obligations.SplitEventResults : Prop :=
  (∀ (s : State) (core : Nat) (x : Ready1),
    (coreCands s core).find? (fun x => decide ((coreSt s core).ageLimit ≤ x.age)) = some x →
    ∃ t, exec (.ageLimitReached core) s = .next t ∧ t = { s with cores := { s.cores with cs := t.cores.cs } } ∧
      (pickOn t core).head? = some (x.grp, x.sp) ∧ ∀ c, c ≠ core → coreSt t c = coreSt s c) ∧
  (∀ (s : State) (g : Group) (p : Split) (k : Nat) (r : LongResult), findGroup s g.id = some g → findSplit g p.id = some p →
    (outstanding g p)[k]? = some r → r.kind = .value → r.clobbered = [] → r.s = [] → r.q = none →
    exec (.longResultWritten g.id p.id k) s = .next (drainAll (putGroup s (wakeOprdy { g with
      pend := g.pend.erase r, v := r.v.foldl (fun m d => mset 0 d.1 d.2 m) g.v,
      touched := r.v.foldl (fun ks d => insertKey d.1 ks) g.touched })) g.id)) ∧
  (∀ (s u : State) (k : Nat) (d : Deferred) (x : Word × List (Nat × Nat)), s.sched.deferred[k]? = some d →
    (if d.item = 0 then x = ((launchOf s d.launch).desc.defaults.getD d.slot 0, [])
      else slotOf s d.launch (d.item - 1) d.slot = some x) →
    (s.plat.linkUp ≠ 0 ∨ peersDue s.ms d.core d.group [] (launchOf s d.launch).desc.chainScope = false) →
    u = releaseAt s d.core d.group (launchOf s d.launch).desc.chainScope →
    exec (.deferredPublication k) s = .next (publishLate
      { u with sched := { u.sched with deferred := dropNth k s.sched.deferred } } d x)) ∧
  (∀ (s : State) (g : Group) (p : Split) (r : LongResult) (bs : List LateBad) (t : Trap) (after : DWord) (later : List Moved),
    findGroup s g.id = some g → findSplit g p.id = some p → p.wait = .ready ∨ p.wait = .held → outstanding g p = [r] →
    r.kind = .late bs → lateTrapOf (ownLanes p) bs = some t → p.redo = none →
    (r.pc = startPc p ∧ p.progress ≠ 0 → after = r.next ∧ later = p.later) →
    (¬ (r.pc = startPc p ∧ p.progress ≠ 0) → after = startPc p ∧
      later = (if p.progress = 0 ∧ p.captured = [] ∧ p.later = [] then [] else ⟨p.progress, p.captured, none⟩ :: p.later)) →
    exec (.lateTrap g.id p.id) s = .next (enterTrap s (replacePend g r (lateRest (ownLanes p) r)) { p with wait := .ready } t r.pc
      after (some (r.lanes &&& ownLanes p)) true later)) ∧
  (∀ (s : State) (a : Nat), (∃ p ∈ s.ms.cache.homePins, p.atom = a) →
    ∃ t, exec (.pinPromotion a) s = .next t ∧ (∀ p ∈ t.ms.cache.homePins, p.atom ≠ a) ∧
      (∀ p ∈ s.ms.cache.homePins, p.atom = a → p ∈ t.ms.cache.reserved ∧ ∀ q ∈ t.ms.cache.teamPins, q.same p = false) ∧
      (NoForwarding s.ms → KeepsBytes s.ms t.ms fun _ => False)) ∧
  (∀ (s : State) (team line : Nat), ∃ t, exec (.readCountExpiry team line) s = .next t ∧ t.ms.mem = s.ms.mem ∧
    ∀ c, c ∈ t.ms.cache.team ↔ c ∈ s.ms.cache.team ∧ ¬ (c.owner = team ∧ c.line = line ∧ c.count = some 0)) ∧
  ∀ (s : State) (core line : Nat) (team : Bool) (c : CacheLine) (a : Attr), trained s core line team = some c →
    heldLeaf s core (line * 128) = some a → a.cm = 0 → a.n = false → (physOf s.plat.walk (line * 128)).isDram = true →
    s.ms.dram.nRanges.any (inRange (line * 128)) = false →
    ∃ ms, exec (.hardwarePrefetch core line team) s = .next (putMs s ms) ∧
      (NoForwarding s.ms → KeepsBytes s.ms ms fun _ => False)

/-! ## Pre-emption, DRAM, migration, host, peers, start -/

/-- R260 to R267, R280, R281: a pre-emption request stops the workgroup it names, with its deadline; one that cannot be read or is
refused gives its result at once; the deadline aborts the copies and lookups of its workgroup, which the save records, and the
loads that wait for a folio; a workgroup whose drain has ended is saved and leaves the machine; a restore waits for its
placement; retraining waits for a save before its deadline, and makes a later one late; PREEMPT_STATUS gives the oldest
result. -/
def Obligations.PreemptionResults : Prop :=
  (∀ (s u : State) (die : Nat) (v : DWord) (r : Request) (res : Nat → DWord), deadDie s die = false →
    u = deviceRead s v.toNat 64 → r = readRequest u v.toNat →
    res = (fun k => BitVec.ofNat 64 (r.tag.toNat * 2 ^ 32 + k * 2 ^ 24)) →
    (requestHere s v.toNat = false → ∃ t tag, exec (.preempt die v) s = .next t ∧ t.sched = s.sched ∧
      t.pre.results = s.pre.results ++ [(die, BitVec.ofNat 64 (tag * 2 ^ 32 + 4 * 2 ^ 24))]) ∧
    (requestHere s v.toNat = true →
      (r.bad = true ∨ areasOut u r = true → exec (.preempt die v) s =
        .next { u with pre := { u.pre with results := u.pre.results ++ [(die, res 4)] } }) ∧
      (r.bad = false → areasOut u r = false →
        (∀ k, preemptReasons u r = [k] → ∃ t, exec (.preempt die v) s = .next t ∧ t.sched = u.sched ∧
          t.pre.results = u.pre.results ++ [(die, res k)]) ∧
        (∀ x w us, preemptReasons u r = [] → namedAreas u r = [x] → w = wgOf u r.launch x.1 →
          us = (launchTerms u (launchOf u r.launch)).elim 0 (fun g =>
            if (launchOf u r.launch).desc.pclass = 0 then g.deadline0 else g.deadline1) →
          ∃ t, exec (.preempt die v) s = .next t ∧ t.ms = u.ms ∧
            t.pre.reqs = u.pre.reqs ++ [⟨r.tag, die, r.launch, [x], 0, u.clock.ps + us * 1_000_000, false, [], false⟩] ∧
            (∀ y ∈ t.cores.yokes, ∀ e ∈ y.2.table ++ y.2.waiting, ¬ (e.launch = w.launch ∧ e.wg = w.wg)) ∧
            ∀ g ∈ u.sched.groups, (if g.launch = w.launch ∧ g.wg = w.wg then stopGroup g else g) ∈ t.sched.groups))) ∧
    (requestHere s v.toNat = true → r.bad = false → r.count ≠ 0 →
      (∀ a ∈ r.entries.map (·.2), inDram s.plat.walk a ((savedIn u a).elim 0x40_0000 fun x => areaBytes x.wg) = true) →
      (restoreReasons u (r.entries.map (·.2)) = [] → exec (.restore die v) s =
        .next { u with pre := { u.pre with restores := u.pre.restores ++ [(die, r.tag, r.entries.map (·.2), 0)] } }) ∧
      (restoreReasons u (r.entries.map (·.2)) = [8] → exec (.restore die v) s =
        .next { u with pre := { u.pre with results := u.pre.results ++ [(die, res 8)] } }))) ∧
  (∀ (s : State) (k : Nat) (r : PreReq), s.pre.reqs[k]? = some r → r.deadline ≤ s.clock.ps → r.passed = false →
    (∀ st, (ctlOf s st).retrainDue = false) → ∀ reqs, reqs = modifyNth (fun x : PreReq => { x with passed := true }) k s.pre.reqs →
    ((∀ x ∈ r.left, ∀ w ∈ s.sched.wgs, ¬ (w.launch = r.launch ∧ w.wg = x.1)) →
      exec (.preemptionDeadline k) s = .next { s with pre := { s.pre with reqs := reqs } }) ∧
    (∀ x w, r.left = [x] → w = wgOf s r.launch x.1 → w ∈ s.sched.wgs → w.launch = r.launch → w.wg = x.1 →
      (∀ a ∈ s.pre.aborted, ¬ (a.launch = w.launch ∧ a.wg = w.wg)) →
      ∃ t, exec (.preemptionDeadline k) s = .next t ∧ t.pre.reqs = reqs ∧ t.ms = s.ms ∧ t.sched.wgs = s.sched.wgs ∧
        (∀ c ∈ t.copies.chans, ∀ j ∈ c.2.jobs ++ c.2.late, ¬ (j.launch = w.launch ∧ j.wg = w.wg)) ∧
        t.render.washes = s.render.washes.filter (fun q => !(q.launch == w.launch && q.wg == w.wg)) ∧
        (∃ a ∈ t.pre.aborted, a.launch = w.launch ∧ a.wg = w.wg ∧ a.copies = (copiesOf s w).1 ∧
          a.washes = s.render.washes.filter fun q => q.launch == w.launch && q.wg == w.wg) ∧
        ∀ g ∈ t.sched.groups, g.launch = w.launch → g.wg = w.wg → ∀ q ∈ g.pend, ∀ fs ws bad, q.kind = .mem fs ws bad →
          q.aborted = false → ∀ f ∈ fs, f ∈ s.tier.palette)) ∧
  (∀ (s : State) (r : PreReq) (x : Nat × Nat) (w : Workgroup), s.pre.reqs = [r] → r.left = [x] → r.late = [] → r.lateSaves = false →
    w = wgOf s r.launch x.1 → w ∈ s.sched.wgs → w.launch = r.launch → w.wg = x.1 → saveBlocked s r.passed w = false →
    ∃ t, exec (.preemptSaveWrite 0) s = .next t ∧ t.pre.reqs = [] ∧
      t.pre.results = s.pre.results ++ [(r.die, BitVec.ofNat 64 (r.tag.toNat * 2 ^ 32 + 2 ^ 24 + (r.done + 1) % 65536))] ∧
      (savedIn t x.2).map (·.groups) = some (s.sched.groups.filter fun g => g.launch == w.launch && g.wg == w.wg) ∧
      t.sched.groups = (s.sched.groups.filter fun g => !(g.launch == w.launch && g.wg == w.wg)) ∧ w ∉ t.sched.wgs) ∧
  (∀ (s : State) (die : Nat), deadDie s die = false →
    (∀ r, s.pre.results.find? (fun x => x.1 == die) = some r → exec (.preemptStatusRead die) s =
      .next (deliver { s with pre := { s.pre with results := s.pre.results.erase r } } [r.2])) ∧
    (s.pre.results.find? (fun x => x.1 == die) = none → exec (.preemptStatusRead die) s = .next (deliver s [0]))) ∧
  ∀ (s : State) (st : Nat), deadStack s st = false →
    ((∃ r ∈ s.pre.reqs, r.passed = false ∧ ∃ x ∈ r.left, st ∈ areaStacks s r.launch x) →
      exec (.dramRetrain st) s = .next (putCtl s st { ctlOf s st with retrainDue := true })) ∧
    ((∀ r ∈ s.pre.reqs, ∀ x ∈ r.left, st ∈ areaStacks s r.launch x → r.passed = true) →
      ∃ t, exec (.dramRetrain st) s = .next t ∧ t.ms = s.ms ∧ t.sched = s.sched ∧ t.pre.reqs.length = s.pre.reqs.length ∧
        ∀ (k : Nat) (r : PreReq), s.pre.reqs[k]? = some r → (∃ x ∈ r.left, st ∈ areaStacks s r.launch x) →
          ∃ q : PreReq, t.pre.reqs[k]? = some q ∧ st ∈ q.late ∧ q = { r with late := q.late })

/-- R270 to R275: a precharge counts its row's activation within the refresh window, up to 65,535, and starts back-off at the
threshold; refresh management clears the count; a refresh is postponed, four at most, while its bank is in back-off or a
lock-step read holds it; past them the bank leaves the read, which DRAM_EVENTS counts, and the end of the read issues what was
postponed, but for a bank in back-off; a patrol pass starts when it is due and reads row after row, and the rows of all bytes
are among those it reads; reading ECC_STATUS or DRAM_EVENTS clears its counts. Whether a read under way holds a bank is open,
and that a bank in back-off leaves it is the model's choice (log entry 29). -/
def Obligations.DramResults : Prop :=
  (∀ off, rowNumber off < Config.rowsPerStack) ∧
  ∀ (s : State) (st : Nat) (c : Stack), deadStack s st = false → c = ctlOf s st →
    (∀ bank row n act x, bank < 64 → x = mget (0, 0) (bank * 2 ^ 32 + row) c.act →
      n = min ((if x.1 = s.clock.ps / 32_000_000_000 % 4 then x.2 else 0) + 1) 65535 →
      act = mset (0, 0) (bank * 2 ^ 32 + row) (s.clock.ps / 32_000_000_000 % 4, n) c.act →
      exec (.rowPrecharge st bank row) s = .next (if c.thresh ≤ n ∧ ∀ b ∈ c.inBackoff, b.1 ≠ bank
        then putCtl s st { c with act := act, inBackoff := c.inBackoff ++ [(bank, row)] }
        else putCtl s st { c with act := act })) ∧
    (∀ bank row act left, c.inBackoff.find? (fun b => b.1 == bank) = some (bank, row) →
      act = mset (0, 0) (bank * 2 ^ 32 + row) (s.clock.ps / 32_000_000_000 % 4, 0) c.act → left = mset 0 bank 0 c.postponed →
      exec (.backoffComplete st bank) s = .next (putCtl s st { c with
        act := act, postponed := left, backoffs := min (c.backoffs + 1) (2 ^ 32 - 1), inBackoff := c.inBackoff.filter fun b => b.1 != bank })) ∧
    (∀ bank more none', bank < 64 → more = mset 0 bank (mget 0 bank c.postponed + 1) c.postponed →
      none' = mset 0 bank 0 c.postponed →
      ((∃ b ∈ c.inBackoff, b.1 = bank) →
        (mget 0 bank c.postponed < 4 → exec (.refreshDue st bank) s = .next (putCtl s st { c with postponed := more })) ∧
        (4 ≤ mget 0 bank c.postponed → lockStepRead s st = true →
          exec (.refreshDue st bank) s = .next (putCtl s st { c with drops := min (c.drops + 1) (2 ^ 32 - 1) })) ∧
        (4 ≤ mget 0 bank c.postponed → lockStepRead s st = false → exec (.refreshDue st bank) s = .next s)) ∧
      ((∀ b ∈ c.inBackoff, b.1 ≠ bank) → lockStepRead s st = false →
        exec (.refreshDue st bank) s = .next (putCtl s st { c with postponed := none' })) ∧
      ((∀ b ∈ c.inBackoff, b.1 ≠ bank) → lockStepRead s st = true → ∃ t, exec (.refreshDue st bank) s = .next t ∧
        t = { s with free := t.free, ctls := t.ctls } ∧
        (ctlOf t st = { c with postponed := none' } ∨
          (mget 0 bank c.postponed < 4 ∧ ctlOf t st = { c with postponed := more }) ∨
          (4 ≤ mget 0 bank c.postponed ∧
            ctlOf t st = { c with postponed := none', drops := min (c.drops + 1) (2 ^ 32 - 1) })))) ∧
    (∀ u, u = releaseBanks s st → u = { s with ctls := u.ctls } ∧ ctlOf u st = { c with postponed := (ctlOf u st).postponed } ∧
      ∀ bank, mget 0 bank (ctlOf u st).postponed =
        if (∃ b ∈ c.inBackoff, b.1 = bank) then mget 0 bank c.postponed else 0) ∧
    (c.scrubEn = true → c.passAt + c.period * 3_600_000_000_000_000 ≤ s.clock.ps → c.passOn = false →
      exec (.scrubPassStart st) s = .next (putCtl s st { c with
        passAt := c.passAt + c.period * 3_600_000_000_000_000, scrubbed := [], patrol := 0, passOn := true, passDue := false })) ∧
    (c.scrubEn = true → c.passOn = true →
      ∃ t, exec (.scrubRowRead st) s = .next t ∧ t.ms.mem = s.ms.mem ∧ t.sched = s.sched ∧
        t.ms.cache = { s.ms.cache with home := t.ms.cache.home } ∧ (∀ h ∈ t.ms.cache.home, h ∈ s.ms.cache.home) ∧
        (c.patrol + 1 < Config.rowsPerStack → ctlOf t st = { c with patrol := c.patrol + 1 }) ∧
        (Config.rowsPerStack ≤ c.patrol + 1 → ctlOf t st = (if c.passDue = true
          then { c with patrol := 0, scrubbed := [], passDue := false } else { c with patrol := 0, passOn := false })) ∧
        (s.ms.dram.errs = [] → s.ms.dram.ueSeen = [] → t.ms = s.ms)) ∧
    (∀ e ecc, e = mget {} st s.ms.dram.ecc → ecc = mset {} st { e with ce := 0, ue := 0 } s.ms.dram.ecc →
      ∃ t, exec (.eccStatusRead st) s = .next t ∧
        t.plat.reported = [BitVec.ofNat 64 (e.ce * 2 ^ 48 + e.ue * 2 ^ 40 + e.last)] ∧ t.ms.mem = s.ms.mem ∧ t.ms.cache = s.ms.cache ∧
        t.ms.dram = { s.ms.dram with ecc := ecc } ∧ t.sched = s.sched) ∧
    exec (.dramEventsRead st) s = .next (putCtl (deliver s [BitVec.ofNat 64 (c.backoffs * 2 ^ 32 + c.drops)]) st
      { c with backoffs := 0, drops := 0 })

/-- R276 to R278, R284: a migration copies its page at the start, and once a pass is left with few enough atoms it moves the page
and forwards; a ninth pass that is not fails it; OP 2 stores SIZE and ends forwarding. A bias flip to the host takes the pages
at once; one to the device takes them back once it completes. -/
def Obligations.MigrationAndBiasResults : Prop :=
  (∀ (s : State) (st : Nat) (v : DWord) (m : Mig) (c : Stack) (n : Nat), deadStack s st = false → c = ctlOf s st → m = migOf s st →
    n = migBytes (nbits v.toNat 0 2) → nbits v.toNat 2 2 = 1 → Memory.wf s.ms.mem = true →
    (migRefused s st (nbits v.toNat 0 2) = true → exec (.migrationStart st v) s =
      .next (putMig (putCtl s st { c with migSize := nbits v.toNat 0 2 }) st { m with refused := true })) ∧
    (migRefused s st (nbits v.toNat 0 2) = false → ∃ t, exec (.migrationStart st v) s = .next t ∧
      migOf t st = { status := 1, src := c.migSrc, dst := c.migDst, len := n } ∧
      (∀ a, c.migDst ≤ a → a < c.migDst + n → mget unlistedByte a t.ms.mem = mget unlistedByte (c.migSrc + (a - c.migDst)) s.ms.mem) ∧
      ∀ a, (a < c.migDst ∨ c.migDst + n ≤ a) → mget unlistedByte a t.ms.mem = mget unlistedByte a s.ms.mem)) ∧
  (∀ (s : State) (st : Nat) (m : Mig), m = migOf s st → m.status = 1 → Memory.wf s.ms.mem = true →
    (m.marks.length ≤ 1024 → (∀ p ∈ s.ms.cache.homePins ++ s.ms.cache.teamPins, inRange (p.atom * 32) (m.src, m.len) = false) →
      ∃ t, exec (.migrationPass st) s = .next t ∧ migOf t st = { m with status := 3, refused := false, pass := m.pass + 1, marks := [] } ∧
        (∀ a, m.dst ≤ a → a < m.dst + m.len → mget unlistedByte a t.ms.mem = mget unlistedByte (m.src + (a - m.dst)) s.ms.mem) ∧
        ∀ a, (a < m.dst ∨ m.dst + m.len ≤ a) → mget unlistedByte a t.ms.mem = mget unlistedByte a s.ms.mem) ∧
    (1024 < m.marks.length → 8 ≤ m.pass → ∃ t, exec (.migrationPass st) s = .next t ∧ t.ms.mem = s.ms.mem ∧
      migOf t st = { m with status := 5, refused := false, pass := m.pass + 1, marks := [] }) ∧
    (1024 < m.marks.length → m.pass < 8 → ∃ t, exec (.migrationPass st) s = .next t ∧
      migOf t st = { m with pass := m.pass + 1, marks := [] } ∧
      ∀ x, (∀ a ∈ m.marks, inRange x (a * 32 - m.src + m.dst, 32) = false) →
        mget unlistedByte x t.ms.mem = mget unlistedByte x s.ms.mem)) ∧
  (∀ (s : State) (st : Nat) (v : DWord) (u : State), deadStack s st = false → nbits v.toNat 2 2 = 2 →
    st < Config.numStacks → u = putCtl s st { ctlOf s st with migSize := nbits v.toNat 0 2 } →
    ((migOf s st).status ≠ 3 → ∀ via, exec (.registerWrite (0x40_0000 + st * 0x1_0000 + 0x250) via v) s = .next u) ∧
    ((migOf s st).status = 3 → ∀ via, ∃ t, exec (.registerWrite (0x40_0000 + st * 0x1_0000 + 0x250) via v) s = .next t ∧
      t = { u with ms := t.ms } ∧ (migOf t st).status = 4 ∧
      (nbits v.toNat 0 2 = (ctlOf s st).migSize → exec (.migrationEndForwarding st) s = .next t))) ∧
  (∀ (s : State) (st : Nat) (v : DWord) (c : Stack) (lo n : Nat), deadStack s st = false → c = ctlOf s st → lo = c.biasBase / 65536 →
    n = nbits v.toNat 2 16 + 1 →
    ((c.biasStatus = 1 ∨ inDram s.plat.walk (lo * 65536) (n * 65536) = false) → ∀ k, k = (if c.biasStatus = 1 then 1 else 3) →
      (nbits v.toNat 0 2 = 1 → exec (.biasToHost st v) s = .next (putCtl s st { c with
        biasOp := 1, biasPages := nbits v.toNat 2 16, biasStatus := k,
        flip := if c.biasStatus = 1 then c.flip else (lo, n) })) ∧
      (nbits v.toNat 0 2 = 2 → exec (.biasToDevice st v) s = .next (putCtl s st { c with
        biasOp := 2, biasPages := nbits v.toNat 2 16, biasStatus := k,
        flip := if c.biasStatus = 1 then c.flip else (lo, n) }))) ∧
    (c.biasStatus ≠ 1 → inDram s.plat.walk (lo * 65536) (n * 65536) = true →
      (nbits v.toNat 0 2 = 1 → ∃ t, exec (.biasToHost st v) s = .next t ∧ t.ms.mem = s.ms.mem ∧ t.sched = s.sched ∧
        ctlOf t st = { c with biasOp := 1, biasPages := nbits v.toNat 2 16, biasStatus := 2, flip := (lo, n) } ∧
        ∀ p, p ∈ t.ms.dram.hostBias ↔ p ∈ s.ms.dram.hostBias ∨ (lo ≤ p ∧ p < lo + n)) ∧
      (nbits v.toNat 0 2 = 2 → exec (.biasToDevice st v) s =
        .next (putCtl s st { c with biasOp := 2, biasPages := nbits v.toNat 2 16, biasStatus := 1, flip := (lo, n) })))) ∧
  ∀ (s : State) (st : Nat) (c : Stack), c = ctlOf s st → c.biasStatus = 1 →
    ∃ t, exec (.biasFlipComplete st) s = .next t ∧ t.ms.mem = s.ms.mem ∧ ctlOf t st = { c with biasStatus := 2 } ∧
      ∀ p, p ∈ t.ms.dram.hostBias ↔ p ∈ s.ms.dram.hostBias ∧ ¬ (c.flip.1 ≤ p ∧ p < c.flip.1 + c.flip.2)

/-- R20, R284 to R288, R292, R294: the host, once the device has started, and peers read, write and update the bytes they name and
no others, outside the sealed ranges; elsewhere nothing. A snoop changes nothing. A port that goes down carries nothing and is
noted in its die's Colophon, and comes up again when trained; once no port is up and the limit has passed for all, a FENCE.sys
gives up the peer writes of its lanes that its release has posted and ends with Q = 0. -/
def Obligations.HostAndPeerResults : Prop :=
  (∀ (s : State) (addr n : Nat) (data : List Byte), n = data.length →
    (s.plat.started = false ∨ s.plat.walk = true ∨ outsideOk s addr n = false →
      ∀ w, exec (.hostCxlMemAccess w addr data) s = .next (deliver s [])) ∧
    (s.plat.started = true → s.plat.walk = false → outsideOk s addr n = true → NoForwarding s.ms →
      (∃ t, exec (.hostCxlMemAccess true addr data) s = .next t ∧ readHome t.ms addr n = data ∧ t.sched = s.sched ∧
        KeepsBytes s.ms t.ms fun a => addr ≤ a ∧ a < addr + n) ∧
      (∃ t, exec (.hostCxlMemAccess false addr data) s = .next t ∧ t.sched = s.sched ∧
        t.plat.reported = (readHome t.ms addr n).map (fun b => b.setWidth 64) ∧ KeepsBytes s.ms t.ms fun _ => False)) ∧
    exec (.hostSnoop addr) s = .next s ∧
    ∀ peer, peer < 256 → s.plat.linkUp ≠ 0 →
      (outsideOk s addr n = false → ∀ k, exec (.peerRequest peer k addr data) s = .next (deliver s [])) ∧
      (outsideOk s addr n = true → NoForwarding s.ms →
        (∃ t, exec (.peerRequest peer .load addr data) s = .next t ∧ t.sched = s.sched ∧
          t.plat.reported = (readHome t.ms addr n).map (fun b => b.setWidth 64) ∧ KeepsBytes s.ms t.ms fun _ => False) ∧
        (∃ t, exec (.peerRequest peer .store addr data) s = .next t ∧ t.sched = s.sched ∧ readHome t.ms addr n = data ∧
          KeepsBytes s.ms t.ms fun a => addr ≤ a ∧ a < addr + n) ∧
        ∀ op, ∃ t old, exec (.peerRequest peer (.atomic op) addr data) s = .next t ∧ t.sched = s.sched ∧
          t.plat.reported = old.map (fun b => b.setWidth 64) ∧ old.length = n ∧
          (s.ms.cache.homePins = [] → old = readHome s.ms addr n) ∧
          readHome t.ms addr n = (if op = .ld then old else leBytes n (rmw op n (leNat old) (leNat data))) ∧
          KeepsBytes s.ms t.ms fun a => addr ≤ a ∧ a < addr + n)) ∧
  ∀ (s : State) (port : Nat), port < 18 →
    (s.plat.linkUp.getLsbD port = true → s.copies.peerChunks = [] → ∃ t, exec (.linkDown port) s = .next t ∧
      t.plat.linkUp = s.plat.linkUp &&& ~~~ BitVec.twoPow 18 port ∧
      (t.plat.linkRetraining = s.plat.linkRetraining ∨ t.plat.linkRetraining = s.plat.linkRetraining ||| BitVec.twoPow 18 port) ∧
      t.ms = s.ms ∧ t.sched = s.sched ∧ t.copies = s.copies ∧
      dieRegs t (port / 9) = dieRegs (colophon s (port / 9) 5 port 0 0) (port / 9) ∧
      dieRegs t (1 - port / 9) = dieRegs s (1 - port / 9)) ∧
    (s.plat.walk = false → exec (.linkUp port) s = .next { s with plat := { s.plat with
      linkUp := s.plat.linkUp ||| BitVec.twoPow 18 port,
      linkRetraining := s.plat.linkRetraining &&& ~~~ BitVec.twoPow 18 port } }) ∧
    (s.plat.linkRetraining.getLsbD port = true →
      mget 0 port s.plat.retrainSince + s.plat.retrainLimit * 1_000_000 ≤ s.clock.ps →
      ∀ u, u = { s with plat := { s.plat with linkRetraining := s.plat.linkRetraining &&& ~~~ BitVec.twoPow 18 port } } →
      ((s.plat.linkUp ≠ 0 ∨ u.plat.linkRetraining ≠ 0 ∨ (s.ms.cache.fences = [] ∧ s.copies.peerChunks = [])) →
        exec (.linkRetrainLimitExpiry port) s = .next u) ∧
      (∀ f, s.plat.linkUp = 0 → u.plat.linkRetraining = 0 → s.copies.peerChunks = [] → s.ms.cache.fences = [f] → f.rel = true →
        f.acq = false → f.scope = .sys → f.isView = false → fenceWaits u f = false →
        (∃ w ∈ (fenceRelease u f).ms.cache.peerWrites, w.lost = none ∧ f.owns w = true) →
        exec (.linkRetrainLimitExpiry port) s = .next (endFence (giveUpPeers (fenceRelease u f) f 2) f false)))

/-- R20, R288 to R296: a start of six stages makes the device ready; one that fails counts, one whose image does not verify
failing at its first stage, and after the third the next start enters walk mode, or leaves the device in reset, with nothing
placed or queued, where the recovery image does not verify; FULL_RETRY clears the count; a warm reset keeps memory and the
Colophon and drops all that ran; the session, the attestation, the Colophon, the telemetry and the sealed ranges; each power
window sets the clock, once its millisecond is over. -/
def Obligations.StartAndSecurityResults : Prop :=
  (∀ (s : State) (passed reason unit : Nat) (p : Platform), s.plat.started = false → p = s.plat →
    (verifyImage p.fuses p.mainSlot = none →
      (6 ≤ passed → p.attempts ≠ 3 → ∃ t, exec (.deviceStart passed reason unit) s = .next t ∧ t.ms = s.ms ∧ t.sched = s.sched ∧
        t.plat = { p with walk := false, inReset := false, firmware := p.mainSlot.id, attempts := 0, stage := 6, reason := 0,
                          unit := 0, started := true, paletteGib := p.paletteCtl, linkUp := BitVec.allOnes 18,
                          linkRetraining := 0 }) ∧
      (passed < 6 → p.attempts ≠ 3 → ∃ t, exec (.deviceStart passed reason unit) s = .next t ∧ t.ms = s.ms ∧ t.sched = s.sched ∧
        t.plat = { p with walk := false, inReset := false, firmware := if passed = 0 then p.firmware else p.mainSlot.id,
                          attempts := min 3 (p.attempts + 1), stage := passed, reason := reason % 256, unit := unit % 256,
                          started := false }) ∧
      (6 ≤ passed → ∃ t, exec (.fullRetry passed reason unit) s = .next t ∧ t.ms = s.ms ∧ t.plat.attempts = 0 ∧
        t.plat.walk = false ∧ t.plat.started = true ∧ t.plat.stage = 6) ∧
      (passed < 6 → ∃ t, exec (.fullRetry passed reason unit) s = .next t ∧ t.ms = s.ms ∧ t.plat.attempts = 1 ∧
        t.plat.walk = false ∧ t.plat.started = false)) ∧
    (∀ r, verifyImage p.fuses p.mainSlot = some r → p.attempts ≠ 3 →
      ∃ t, exec (.deviceStart passed reason unit) s = .next t ∧ t.ms = s.ms ∧ t.sched = s.sched ∧
        t.plat = { p with walk := false, inReset := false, attempts := min 3 (p.attempts + 1), stage := 0, reason := r,
                          unit := unit % 256, started := false }) ∧
    (p.attempts = 3 → verifyImage p.fuses p.recoverySlot = none → 3 ≤ passed →
      ∃ t, exec (.deviceStart passed reason unit) s = .next t ∧ t.ms = s.ms ∧ t.sched = s.sched ∧
        t.plat = { p with walk := true, inReset := false, firmware := p.recoverySlot.id, stage := 3, started := true, linkUp := 0,
                          linkRetraining := 0, paletteGib := p.paletteCtl }) ∧
    (∀ r, p.attempts = 3 → verifyImage p.fuses p.recoverySlot = some r →
      ∃ t, exec (.deviceStart passed reason unit) s = .next t ∧ t.plat.inReset = true ∧ t.plat.started = false ∧
        t.sched = State.reset.sched ∧ ∀ die, deadDie t die = true)) ∧
  (∀ (p : Platform), nbit (bootStatus p).toNat 31 = p.walk ∧ nbits (bootStatus p).toNat 28 3 = p.attempts % 8 ∧
    nbits (bootStatus p).toNat 24 4 = p.stage % 16 ∧ nbits (bootStatus p).toNat 16 8 = p.reason % 256 ∧
    nbits (bootStatus p).toNat 8 8 = p.unit % 256 ∧ nbits (bootStatus p).toNat 0 8 = 0) ∧
  (∀ (s : State), ∃ t, exec .warmReset s = .next t ∧ t.ms.mem = s.ms.mem ∧ t.sched = State.reset.sched ∧
    t.cores = State.reset.cores ∧ t.xlat = State.reset.xlat ∧ t.plat.started = false ∧ t.plat.inReset = s.plat.inReset ∧
    t.plat.attempts = s.plat.attempts ∧ t.plat.paletteCtl = s.plat.paletteCtl ∧
    ∀ die, (dieRegs t die).colophon.length = min 2048 ((dieRegs s die).colophon.length + 1)) ∧
  (∀ (s : State), exec .spdmSessionOpen s = .next { s with plat := { s.plat with session := true } } ∧
    exec .spdmSessionClose s = .next { s with plat := { s.plat with session := false } } ∧
    (s.plat.inReset = true → exec .spdmAttestation s = .next (deliver s [])) ∧
    (s.plat.inReset = false → exec .spdmAttestation s = .next (deliver s ([Config.measurement 0, Config.measurement 1, Config.measurement 2,
      BitVec.ofNat 64 s.plat.paletteCtl, bootStatus s.plat] ++
      s.plat.sealedRanges.flatMap fun r => [BitVec.ofNat 64 r.1, BitVec.ofNat 64 r.2]))) ∧
    (∀ die, die < 2 → exec (.colophonReadout die) s = .next (deliver s ((dieRegs s die).colophon.flatMap pairWords))) ∧
    exec .powerTelemetry s = .next (deliver s [BitVec.ofNat 64 s.plat.watts, BitVec.ofNat 64 s.clock.mhz]) ∧
    (∀ rs, rs.length ≤ 16 → (∀ r ∈ rs, 0 < r.2 ∧ inDram s.plat.walk r.1 r.2 = true) →
      exec (.sealedPhysicalRangesSet rs) s = .next { s with plat := { s.plat with sealedRanges := rs } }) ∧
    ∀ w, (s.clock.ps < s.plat.windowAt + 1_000_000_000 → exec (.powerWindow w) s = .next s) ∧
      (s.plat.windowAt + 1_000_000_000 ≤ s.clock.ps → ∃ t, exec (.powerWindow w) s = .next t ∧ t.plat.watts = w ∧
        t.ms = s.ms ∧ t.sched = s.sched ∧
      t.clock.mhz = (if s.plat.powerLimit < w then max 1200 (s.clock.mhz - 100)
        else if 100 * w ≤ 95 * s.plat.powerLimit then min 2500 (s.clock.mhz + 100) else s.clock.mhz)))
end

