-- ==== Sys2Proof/Laws/Barriers.lean ====
section
/-! SUPPORT. Laws/Barriers.lean: what the shared operations over byte barriers do: updates that arrive first, and what a barrier
instruction comes to where no check fails. -/

namespace Sys2Proof.Machine

/-- With no update on its way to a place, nothing arrives there; the access reaches it. -/
theorem flushBar_none (s : State) (pl : BarPlace) (by_ : Option Nat) (h : ∀ x ∈ s.copies.updates, x.place ≠ pl) :
    flushBar s pl by_ = reachBar s pl by_ := by
  have h1 : s.copies.updates.filter (fun u => u.place == pl) = [] := by simpa using h
  have h2 : s.copies.updates.filter (fun u => u.place != pl) = s.copies.updates := by simpa using h
  unfold flushBar
  rw [h1, h2]
  rfl

/-- Reaching a barrier in an A-store changes nothing. -/
@[simp] theorem reachBar_astore (s : State) (c off : Nat) (by_ : Option Nat) : reachBar s (.astore c off) by_ = s := rfl

/-- A group at a barrier goes on as it stands once the updates on their way there have arrived. -/
theorem atBar_some {s : State} {g j : Group} {pl : BarPlace} (f : State → Group → State)
    (h : findGroup (flushBar s pl (some g.core)) g.id = some j) : atBar s g pl f = f (flushBar s pl (some g.core)) j := by
  simp only [atBar, h]

/-- The same with no update on its way to a barrier in an A-store. -/
theorem atBar_quiet {s : State} {g : Group} {c off : Nat} (f : State → Group → State)
    (hu : ∀ x ∈ s.copies.updates, x.place ≠ .astore c off) (hg : findGroup s g.id = some g) :
    atBar s g (.astore c off) f = f s g := by
  have h := flushBar_none s (.astore c off) (some g.core) hu
  rw [reachBar_astore] at h
  rw [atBar_some (j := g) f (by rw [h, hg]), h]

/-- Everything a barrier instruction does where no check fails. -/
theorem barOp_next {i : Instr} {y : Bool} {gd : Guard} {n : BitVec 6} {gl : Bool} {code : Nat} {regs : List Nat} {s : State}
    {f : Group → Split → Nat → State → BarPlace → State} {g : Group} {p : Split} {pl : BarPlace}
    (hc : curSplit s = some (g, p)) (hb : badHint {} p.hints = none) (hq : guardQ g gd = true)
    (hr : sCheck g p (2 * n.toNat :: (2 * n.toNat + 1) :: regs) = none)
    (hp : placeBar s g (allOf g p) code gl (getS64 g (2 * n.toNat)).toNat = .at pl)
    (hf : fenceHolds s g (enabled g p) (if gl then [((getS64 g (2 * n.toNat)).toNat, 16)] else []) = false) :
    barOp i y gd n gl code regs s f = .next (f g p (getS64 g (2 * n.toNat)).toNat
      (if gl then noteXlate s (whoOf s g) (getS64 g (2 * n.toNat)).toNat else s) pl) := by
  simp [barOp, issueQ, issueAt, hc, hb, hq, hr, orTrap, withPlace, hp, hf]

end Sys2Proof.Machine
end

