-- ==== Sys2Proof/Laws/Maps.lean ====
section
/-! SUPPORT. Laws/Maps.lean: the laws of the sparse maps: what a read gives after a write, and that every write keeps the
canonical form. -/

namespace Sys2Proof.Machine

variable {α : Type}

/-! ## Reads after writes -/

theorem mget_mdel_self (d : α) (k : Nat) (m : NMap α) : mget d k (mdel k m) = d := by
  induction m with
  | nil => rfl
  | cons x r ih =>
    obtain ⟨k', v⟩ := x
    by_cases h : k = k'
    · simp [mdel, h]; rw [← h]; exact ih
    · simp [mdel, h, mget, ih]

theorem mget_mdel_ne (d : α) {k j : Nat} (m : NMap α) (h : j ≠ k) : mget d j (mdel k m) = mget d j m := by
  induction m with
  | nil => rfl
  | cons x r ih =>
    obtain ⟨k', v⟩ := x
    by_cases hk : k = k'
    · have : j ≠ k' := by omega
      simp [mdel, hk, mget, this]; rw [← hk]; exact ih
    · by_cases hj : j = k'
      · simp [mdel, hk, mget, hj]
      · simp [mdel, hk, mget, hj, ih]

theorem mget_mput_self (d : α) (k : Nat) (v : α) (m : NMap α) : mget d k (mput k v m) = v := by
  induction m with
  | nil => simp [mput, mget]
  | cons x r ih =>
    obtain ⟨k', v'⟩ := x
    by_cases h1 : k < k'
    · simp [mput, h1, mget]
    · by_cases h2 : k = k'
      · simp [mput, h2, mget]
      · simp [mput, h1, h2, mget, ih]

theorem mget_mput_ne (d : α) {k j : Nat} (v : α) (m : NMap α) (h : j ≠ k) :
    mget d j (mput k v m) = mget d j m := by
  induction m with
  | nil => simp [mput, mget, h]
  | cons x r ih =>
    obtain ⟨k', v'⟩ := x
    by_cases h1 : k < k'
    · simp [mput, h1, mget, h]
    · by_cases h2 : k = k'
      · have : j ≠ k' := by omega
        simp [mput, h2, mget, this]
      · by_cases hj : j = k'
        · simp [mput, h1, h2, mget, hj]
        · simp [mput, h1, h2, mget, hj, ih]

theorem mget_mset_self [DecidableEq α] (d : α) (k : Nat) (v : α) (m : NMap α) : mget d k (mset d k v m) = v := by
  unfold mset
  split
  · subst v; exact mget_mdel_self d k m
  · exact mget_mput_self d k v m

theorem mget_mset_ne [DecidableEq α] (d : α) {k j : Nat} (v : α) (m : NMap α) (h : j ≠ k) :
    mget d j (mset d k v m) = mget d j m := by
  unfold mset
  split
  · exact mget_mdel_ne d m h
  · exact mget_mput_ne d v m h

/-- A read after a write. -/
theorem mget_mset [DecidableEq α] (d : α) (k j : Nat) (v : α) (m : NMap α) :
    mget d j (mset d k v m) = if j = k then v else mget d j m := by
  split
  · subst j; exact mget_mset_self d k v m
  · exact mget_mset_ne d v m ‹_›

/-! ## The canonical form -/

theorem mabove_mdel {k j : Nat} {m : NMap α} (h : mabove j m = true) : mabove j (mdel k m) = true := by
  induction m with
  | nil => rfl
  | cons x r ih =>
    obtain ⟨k', v⟩ := x
    simp only [mabove, Bool.and_eq_true, decide_eq_true_eq] at h
    by_cases hk : k = k'
    · simp [mdel, hk]; rw [← hk]; exact ih h.2
    · simp [mdel, hk, mabove, h.1, ih h.2]

theorem mabove_mput {k j : Nat} {v : α} {m : NMap α} (h : mabove j m = true) (hj : j < k) : mabove j (mput k v m) = true := by
  induction m with
  | nil => simp [mput, mabove, hj]
  | cons x r ih =>
    obtain ⟨k', v'⟩ := x
    simp only [mabove, Bool.and_eq_true, decide_eq_true_eq] at h
    by_cases h1 : k < k'
    · simp [mput, h1, mabove, hj, h.1, h.2]
    · by_cases h2 : k = k'
      · simp [mput, h2, mabove, h.1, h.2]
      · simp [mput, h1, h2, mabove, h.1, ih h.2]

theorem mabove_mono {k j : Nat} {m : NMap α} (h : mabove k m = true) (hj : j ≤ k) : mabove j m = true := by
  induction m with
  | nil => rfl
  | cons x r ih =>
    obtain ⟨k', v⟩ := x
    simp only [mabove, Bool.and_eq_true, decide_eq_true_eq] at h ⊢
    exact ⟨by omega, ih h.2⟩

theorem mwf_mdel [DecidableEq α] {d : α} {k : Nat} {m : NMap α} (h : mwf d m = true) : mwf d (mdel k m) = true := by
  induction m with
  | nil => rfl
  | cons x r ih =>
    obtain ⟨k', v⟩ := x
    simp only [mwf, Bool.and_eq_true, decide_eq_true_eq] at h
    by_cases hk : k = k'
    · simp [mdel, hk]; rw [← hk]; exact ih h.2
    · simp [mdel, hk, mwf, h.1.1, mabove_mdel h.1.2, ih h.2]

theorem mwf_mput [DecidableEq α] {d : α} {k : Nat} {v : α} {m : NMap α} (h : mwf d m = true) (hv : v ≠ d) :
    mwf d (mput k v m) = true := by
  induction m with
  | nil => simp [mput, mwf, mabove, hv]
  | cons x r ih =>
    obtain ⟨k', v'⟩ := x
    simp only [mwf, Bool.and_eq_true, decide_eq_true_eq] at h
    by_cases h1 : k < k'
    · simp [mput, h1, mwf, mabove, hv, h.1.1, h.1.2, h.2, mabove_mono h.1.2 (Nat.le_of_lt h1)]
    · by_cases h2 : k = k'
      · simp [mput, h2, mwf, hv, h.1.2, h.2]
      · have : k' < k := by omega
        simp [mput, h1, h2, mwf, h.1.1, mabove_mput h.1.2 this, ih h.2]

/-- Writing a value keeps the canonical form. -/
theorem mwf_mset [DecidableEq α] {d : α} {k : Nat} {v : α} {m : NMap α} (h : mwf d m = true) : mwf d (mset d k v m) = true := by
  unfold mset
  split
  · exact mwf_mdel h
  · exact mwf_mput h ‹_›

theorem mabove_filter {f : Nat × α → Bool} {j : Nat} {m : NMap α} (h : mabove j m = true) : mabove j (m.filter f) = true := by
  induction m with
  | nil => rfl
  | cons x r ih =>
    obtain ⟨k', v⟩ := x
    simp only [mabove, Bool.and_eq_true, decide_eq_true_eq] at h
    by_cases hf : f (k', v) = true
    · simp [hf, mabove, h.1, ih h.2]
    · simp [hf, ih h.2]

/-- Taking cells off keeps the canonical form. -/
theorem mwf_filter [DecidableEq α] {d : α} {f : Nat × α → Bool} {m : NMap α} (h : mwf d m = true) : mwf d (m.filter f) = true := by
  induction m with
  | nil => rfl
  | cons x r ih =>
    obtain ⟨k', v⟩ := x
    simp only [mwf, Bool.and_eq_true, decide_eq_true_eq] at h
    by_cases hf : f (k', v) = true
    · simp [hf, mwf, h.1.1, mabove_filter h.1.2, ih h.2]
    · simp [hf, ih h.2]

/-- Two canonical maps that read alike are equal. -/
theorem mget_of_mabove (d : α) {j : Nat} {m : NMap α} (h : mabove j m = true) : mget d j m = d := by
  induction m with
  | nil => rfl
  | cons x r ih =>
    obtain ⟨k', v⟩ := x
    simp only [mabove, Bool.and_eq_true, decide_eq_true_eq] at h
    have : j ≠ k' := by omega
    simp [mget, this, ih h.2]

/-! ## Bytes -/

theorem mwf_setBytes {bs : List Byte} {m : NMap Byte} {a : Nat} (h : mwf unlistedByte m = true) :
    mwf unlistedByte (setBytes m a bs) = true := by
  induction bs generalizing m a with
  | nil => exact h
  | cons b r ih => exact ih (mwf_mset h)

theorem mwf_setMasked {bs : List Byte} {m : NMap Byte} {a mask : Nat} (h : mwf unlistedByte m = true) :
    mwf unlistedByte (setMasked m a mask bs) = true := by
  induction bs generalizing m a mask with
  | nil => exact h
  | cons b r ih =>
    unfold setMasked
    split
    · exact ih (mwf_mset h)
    · exact ih h

/-- Bytes outside a write read as before. -/
theorem mget_setBytes_out {bs : List Byte} {m : NMap Byte} {a j : Nat} (h : j < a ∨ a + bs.length ≤ j) :
    mget unlistedByte j (setBytes m a bs) = mget unlistedByte j m := by
  induction bs generalizing m a with
  | nil => rfl
  | cons b r ih =>
    simp only [List.length_cons] at h
    have h1 : j < a + 1 ∨ a + 1 + r.length ≤ j := by omega
    have h2 : j ≠ a := by omega
    rw [setBytes, ih h1, mget_mset_ne _ _ _ h2]

/-- What was written reads back. -/
theorem bytesAt_setBytes (bs : List Byte) (m : NMap Byte) (a : Nat) : bytesAt (setBytes m a bs) a bs.length = bs := by
  induction bs generalizing m a with
  | nil => rfl
  | cons b r ih =>
    simp only [List.length_cons, bytesAt, setBytes]
    rw [ih, mget_setBytes_out (Or.inl (by omega)), mget_mset_self]

theorem length_bytesAt (m : NMap Byte) (a n : Nat) : (bytesAt m a n).length = n := by
  induction n generalizing a with
  | zero => rfl
  | succ n ih => simp [bytesAt, ih]

theorem length_leBytes (n x : Nat) : (leBytes n x).length = n := by
  induction n generalizing x with
  | zero => rfl
  | succ n ih => simp [leBytes, ih]

/-- The low bytes of a number give the number back. -/
theorem leNat_leBytes (n x : Nat) (h : x < 256 ^ n) : leNat (leBytes n x) = x := by
  induction n generalizing x with
  | zero => simp [leBytes, leNat]; omega
  | succ n ih =>
    have h1 : x / 256 < 256 ^ n := by
      rw [Nat.div_lt_iff_lt_mul (by decide)]; rwa [Nat.pow_succ] at h
    simp only [leBytes, leNat, ih _ h1, BitVec.toNat_ofNat]
    omega

end Sys2Proof.Machine
end

