-- ==== Sys2Proof/Laws/Memory.lean ====
section
/-! SUPPORT. Laws/Memory.lean: memory's canonical form: reset memory has it, and every operation that changes memory keeps it. -/

namespace Sys2Proof.Machine

/-- Memory right after reset lists nothing. -/
theorem wf_reset : Memory.wf State.reset.ms.mem = true := rfl

/-- A write at the home. -/
theorem wf_writeHome {ms : MemSys} (now pa mask : Nat) (bs : List Byte) (h : Memory.wf ms.mem = true) :
    Memory.wf (writeHome ms now pa mask bs).mem = true := mwf_setMasked h

/-- Writes folded over a list keep the form. -/
theorem wf_foldl {α : Type} (f : NMap Byte → α → NMap Byte) (hf : ∀ m a, Memory.wf m = true → Memory.wf (f m a) = true)
    (l : List α) (m : NMap Byte) (h : Memory.wf m = true) : Memory.wf (l.foldl f m) = true := by
  induction l generalizing m with
  | nil => exact h
  | cons a r ih => exact ih _ (hf m a h)

/-- The posted writes to a peer performed. -/
theorem wf_performPeer {ms : MemSys} (n : Nat) (h : Memory.wf ms.mem = true) : Memory.wf (performPeer ms n).mem = true :=
  wf_foldl _ (fun _ _ h => mwf_setBytes h) _ _ h

/-- Posted writes to a peer lost. -/
theorem wf_losePeer {s : State} (f : FenceRec) (code n : Nat) (h : Memory.wf s.ms.mem = true) :
    Memory.wf (losePeer s f code n).ms.mem = true :=
  wf_foldl _ (fun _ _ h => by split <;> [exact mwf_setBytes h; exact h]) _ _ h

/-- A write at the place an address names. -/
theorem wf_writeOut {ms : MemSys} (now pa mask : Nat) (bs : List Byte) (own : List (Nat × Nat)) (h : Memory.wf ms.mem = true) :
    Memory.wf (writeOut ms now pa mask bs own).mem = true := by
  unfold writeOut
  split
  · exact h
  · exact wf_writeHome now pa mask bs h

/-- Two maps in the form joined, every number of the first being below every number of the second. -/
theorem mwf_append {α : Type} [DecidableEq α] {d : α} {m n : NMap α} (hm : mwf d m = true) (hn : mwf d n = true)
    (h : ∀ x ∈ m, mabove x.1 n = true) : mwf d (m ++ n) = true := by
  induction m with
  | nil => exact hn
  | cons x r ih =>
    obtain ⟨k, v⟩ := x
    simp only [mwf, Bool.and_eq_true] at hm
    simp only [List.cons_append, mwf, Bool.and_eq_true]
    refine ⟨⟨hm.1.1, ?_⟩, ih hm.2 fun x hx => h x (List.mem_cons_of_mem _ hx)⟩
    have ha := hm.1.2
    have hb := h (k, v) (List.mem_cons_self)
    clear ih hm h
    induction r with
    | nil => exact hb
    | cons y r ih =>
      simp only [mabove, Bool.and_eq_true, List.cons_append] at ha ⊢
      exact ⟨ha.1, ih ha.2⟩

/-- Every number of a map is above a bound. -/
theorem mabove_of {α : Type} {k : Nat} {m : NMap α} (h : ∀ x ∈ m, k < x.1) : mabove k m = true := by
  induction m with
  | nil => rfl
  | cons x r ih =>
    simp only [mabove, Bool.and_eq_true, decide_eq_true_eq]
    exact ⟨h x (by simp), ih fun y hy => h y (by simp [hy])⟩

/-- The same the other way. -/
theorem lt_of_mabove {α : Type} {k : Nat} {m : NMap α} (h : mabove k m = true) : ∀ x ∈ m, k < x.1 := by
  induction m with
  | nil => intro x hx; cases hx
  | cons y r ih =>
    simp only [mabove, Bool.and_eq_true, decide_eq_true_eq] at h
    intro x hx
    rcases List.mem_cons.1 hx with rfl | hx
    · exact h.1
    · exact ih h.2 x hx

/-- A map whose numbers move by a rising function keeps the form. -/
theorem mwf_shift {α : Type} [DecidableEq α] {d : α} {m : NMap α} (f : Nat → Nat) (hm : mwf d m = true)
    (hf : ∀ x ∈ m, ∀ y ∈ m, x.1 < y.1 → f x.1 < f y.1) : mwf d (m.map fun x => (f x.1, x.2)) = true := by
  induction m with
  | nil => rfl
  | cons x r ih =>
    simp only [mwf, Bool.and_eq_true, List.map_cons] at hm ⊢
    refine ⟨⟨hm.1.1, ?_⟩, ih hm.2 fun x hx y hy => hf x (by simp [hx]) y (by simp [hy])⟩
    refine mabove_of fun y hy => ?_
    obtain ⟨z, hz, rfl⟩ := List.mem_map.1 hy
    exact hf _ (by simp) z (by simp [hz]) (lt_of_mabove hm.1.2 z hz)

/-- A range copied to another. -/
theorem wf_copyRange {m : NMap Byte} (src dst len : Nat) (h : Memory.wf m = true) :
    Memory.wf (copyRange m src dst len) = true := by
  unfold copyRange Memory.wf
  have hi : ∀ x ∈ (m.filter fun x => inRange x.1 (src, len)), src ≤ x.1 ∧ x.1 < src + len := fun x hx => by
    have := (List.mem_filter.1 hx).2
    simpa [inRange] using this
  have h1 := mwf_filter (d := unlistedByte) (f := fun x => decide (x.1 < dst)) h
  have h2 := mwf_shift (fun a => a - src + dst) (mwf_filter (d := unlistedByte) (f := fun x => inRange x.1 (src, len)) h)
    fun x hx y hy hxy => by
      have := hi x hx
      have := hi y hy
      show x.1 - src + dst < y.1 - src + dst
      omega
  have h3 := mwf_filter (d := unlistedByte) (f := fun x => decide (dst + len ≤ x.1)) h
  have hl : ∀ x ∈ m.filter (fun x => decide (x.1 < dst)), x.1 < dst := fun x hx => by simpa using (List.mem_filter.1 hx).2
  have hh : ∀ x ∈ m.filter (fun x => decide (dst + len ≤ x.1)), dst + len ≤ x.1 := fun x hx => by
    simpa using (List.mem_filter.1 hx).2
  have hmv : ∀ x ∈ ((m.filter fun x => inRange x.1 (src, len)).map fun x => (x.1 - src + dst, x.2)),
      dst ≤ x.1 ∧ x.1 < dst + len := fun x hx => by
    obtain ⟨z, hz, rfl⟩ := List.mem_map.1 hx
    have := hi z hz
    show dst ≤ z.1 - src + dst ∧ z.1 - src + dst < dst + len
    omega
  refine mwf_append (mwf_append h1 h2 fun x hx => mabove_of fun y hy => ?_) h3 fun x hx => mabove_of fun y hy => ?_
  · have := hl x hx; have := hmv y hy; omega
  · rcases List.mem_append.1 hx with hx | hx
    · have := hl x hx; have := hh y hy; omega
    · have := hmv x hx; have := hh y hy; omega

/-- A range of atoms copied to another. -/
theorem wf_copyAtoms {ms : MemSys} (src dst len : Nat) (h : Memory.wf ms.mem = true) :
    Memory.wf (copyAtoms ms src dst len).mem = true := wf_copyRange src dst len h

/-- A word placed for the next fetch. -/
theorem wf_putWord {s : State} (core pa w : Nat) (h : Memory.wf s.ms.mem = true) :
    Memory.wf (putWord s core pa w).ms.mem = true := mwf_setBytes h

/-- The state after the power has gone. -/
theorem wf_coldState {s : State} (h : Memory.wf s.ms.mem = true) : Memory.wf (coldState s).ms.mem = true := mwf_filter h

end Sys2Proof.Machine
end

