-- ==== Sys2Proof/Laws/State.lean ====
section
/-! SUPPORT. Laws/State.lean: what the updates of the state leave as it was, one lemma for a field and an update. -/

namespace Sys2Proof.Machine

/-! ## Groups, launches and workgroups of the schedule -/

@[simp] theorem putGroup_cur (s : State) (g : Group) :
    (putGroup s g).cur = s.cur := rfl
@[simp] theorem putGroup_agenda (s : State) (g : Group) :
    (putGroup s g).agenda = s.agenda := rfl
@[simp] theorem putGroup_picks (s : State) (g : Group) :
    (putGroup s g).picks = s.picks := rfl
@[simp] theorem putGroup_free (s : State) (g : Group) :
    (putGroup s g).free = s.free := rfl
@[simp] theorem putGroup_clock (s : State) (g : Group) :
    (putGroup s g).clock = s.clock := rfl
@[simp] theorem putGroup_ms (s : State) (g : Group) :
    (putGroup s g).ms = s.ms := rfl
@[simp] theorem putGroup_xlat (s : State) (g : Group) :
    (putGroup s g).xlat = s.xlat := rfl
@[simp] theorem putGroup_cores (s : State) (g : Group) :
    (putGroup s g).cores = s.cores := rfl
@[simp] theorem putGroup_copies (s : State) (g : Group) :
    (putGroup s g).copies = s.copies := rfl
@[simp] theorem putGroup_render (s : State) (g : Group) :
    (putGroup s g).render = s.render := rfl
@[simp] theorem putGroup_tier (s : State) (g : Group) :
    (putGroup s g).tier = s.tier := rfl
@[simp] theorem putGroup_pre (s : State) (g : Group) :
    (putGroup s g).pre = s.pre := rfl
@[simp] theorem putGroup_ctls (s : State) (g : Group) :
    (putGroup s g).ctls = s.ctls := rfl
@[simp] theorem putGroup_die0 (s : State) (g : Group) :
    (putGroup s g).die0 = s.die0 := rfl
@[simp] theorem putGroup_die1 (s : State) (g : Group) :
    (putGroup s g).die1 = s.die1 := rfl
@[simp] theorem putGroup_plat (s : State) (g : Group) :
    (putGroup s g).plat = s.plat := rfl

@[simp] theorem putGroup_sched_regions (s : State) (g : Group) :
    (putGroup s g).sched.regions = s.sched.regions := rfl
@[simp] theorem putGroup_sched_queues (s : State) (g : Group) :
    (putGroup s g).sched.queues = s.sched.queues := rfl
@[simp] theorem putGroup_sched_rr (s : State) (g : Group) :
    (putGroup s g).sched.rr = s.sched.rr := rfl
@[simp] theorem putGroup_sched_launches (s : State) (g : Group) :
    (putGroup s g).sched.launches = s.sched.launches := rfl
@[simp] theorem putGroup_sched_wgs (s : State) (g : Group) :
    (putGroup s g).sched.wgs = s.sched.wgs := rfl
@[simp] theorem putGroup_sched_nextLaunch (s : State) (g : Group) :
    (putGroup s g).sched.nextLaunch = s.sched.nextLaunch := rfl
@[simp] theorem putGroup_sched_nextGroup (s : State) (g : Group) :
    (putGroup s g).sched.nextGroup = s.sched.nextGroup := rfl
@[simp] theorem putGroup_sched_deferred (s : State) (g : Group) :
    (putGroup s g).sched.deferred = s.sched.deferred := rfl
@[simp] theorem putGroup_sched_relay (s : State) (g : Group) :
    (putGroup s g).sched.relay = s.sched.relay := rfl
@[simp] theorem putGroup_sched_worlds (s : State) (g : Group) :
    (putGroup s g).sched.worlds = s.sched.worlds := rfl

@[simp] theorem putLaunch_cur (s : State) (l : Launch) :
    (putLaunch s l).cur = s.cur := rfl
@[simp] theorem putLaunch_agenda (s : State) (l : Launch) :
    (putLaunch s l).agenda = s.agenda := rfl
@[simp] theorem putLaunch_picks (s : State) (l : Launch) :
    (putLaunch s l).picks = s.picks := rfl
@[simp] theorem putLaunch_free (s : State) (l : Launch) :
    (putLaunch s l).free = s.free := rfl
@[simp] theorem putLaunch_clock (s : State) (l : Launch) :
    (putLaunch s l).clock = s.clock := rfl
@[simp] theorem putLaunch_ms (s : State) (l : Launch) :
    (putLaunch s l).ms = s.ms := rfl
@[simp] theorem putLaunch_xlat (s : State) (l : Launch) :
    (putLaunch s l).xlat = s.xlat := rfl
@[simp] theorem putLaunch_cores (s : State) (l : Launch) :
    (putLaunch s l).cores = s.cores := rfl
@[simp] theorem putLaunch_copies (s : State) (l : Launch) :
    (putLaunch s l).copies = s.copies := rfl
@[simp] theorem putLaunch_render (s : State) (l : Launch) :
    (putLaunch s l).render = s.render := rfl
@[simp] theorem putLaunch_tier (s : State) (l : Launch) :
    (putLaunch s l).tier = s.tier := rfl
@[simp] theorem putLaunch_pre (s : State) (l : Launch) :
    (putLaunch s l).pre = s.pre := rfl
@[simp] theorem putLaunch_ctls (s : State) (l : Launch) :
    (putLaunch s l).ctls = s.ctls := rfl
@[simp] theorem putLaunch_die0 (s : State) (l : Launch) :
    (putLaunch s l).die0 = s.die0 := rfl
@[simp] theorem putLaunch_die1 (s : State) (l : Launch) :
    (putLaunch s l).die1 = s.die1 := rfl
@[simp] theorem putLaunch_plat (s : State) (l : Launch) :
    (putLaunch s l).plat = s.plat := rfl

@[simp] theorem putLaunch_sched_regions (s : State) (l : Launch) :
    (putLaunch s l).sched.regions = s.sched.regions := rfl
@[simp] theorem putLaunch_sched_queues (s : State) (l : Launch) :
    (putLaunch s l).sched.queues = s.sched.queues := rfl
@[simp] theorem putLaunch_sched_rr (s : State) (l : Launch) :
    (putLaunch s l).sched.rr = s.sched.rr := rfl
@[simp] theorem putLaunch_sched_wgs (s : State) (l : Launch) :
    (putLaunch s l).sched.wgs = s.sched.wgs := rfl
@[simp] theorem putLaunch_sched_groups (s : State) (l : Launch) :
    (putLaunch s l).sched.groups = s.sched.groups := rfl
@[simp] theorem putLaunch_sched_nextLaunch (s : State) (l : Launch) :
    (putLaunch s l).sched.nextLaunch = s.sched.nextLaunch := rfl
@[simp] theorem putLaunch_sched_nextGroup (s : State) (l : Launch) :
    (putLaunch s l).sched.nextGroup = s.sched.nextGroup := rfl
@[simp] theorem putLaunch_sched_deferred (s : State) (l : Launch) :
    (putLaunch s l).sched.deferred = s.sched.deferred := rfl
@[simp] theorem putLaunch_sched_relay (s : State) (l : Launch) :
    (putLaunch s l).sched.relay = s.sched.relay := rfl
@[simp] theorem putLaunch_sched_worlds (s : State) (l : Launch) :
    (putLaunch s l).sched.worlds = s.sched.worlds := rfl

@[simp] theorem putWg_cur (s : State) (w : Workgroup) :
    (putWg s w).cur = s.cur := rfl
@[simp] theorem putWg_agenda (s : State) (w : Workgroup) :
    (putWg s w).agenda = s.agenda := rfl
@[simp] theorem putWg_picks (s : State) (w : Workgroup) :
    (putWg s w).picks = s.picks := rfl
@[simp] theorem putWg_free (s : State) (w : Workgroup) :
    (putWg s w).free = s.free := rfl
@[simp] theorem putWg_clock (s : State) (w : Workgroup) :
    (putWg s w).clock = s.clock := rfl
@[simp] theorem putWg_ms (s : State) (w : Workgroup) :
    (putWg s w).ms = s.ms := rfl
@[simp] theorem putWg_xlat (s : State) (w : Workgroup) :
    (putWg s w).xlat = s.xlat := rfl
@[simp] theorem putWg_cores (s : State) (w : Workgroup) :
    (putWg s w).cores = s.cores := rfl
@[simp] theorem putWg_copies (s : State) (w : Workgroup) :
    (putWg s w).copies = s.copies := rfl
@[simp] theorem putWg_render (s : State) (w : Workgroup) :
    (putWg s w).render = s.render := rfl
@[simp] theorem putWg_tier (s : State) (w : Workgroup) :
    (putWg s w).tier = s.tier := rfl
@[simp] theorem putWg_pre (s : State) (w : Workgroup) :
    (putWg s w).pre = s.pre := rfl
@[simp] theorem putWg_ctls (s : State) (w : Workgroup) :
    (putWg s w).ctls = s.ctls := rfl
@[simp] theorem putWg_die0 (s : State) (w : Workgroup) :
    (putWg s w).die0 = s.die0 := rfl
@[simp] theorem putWg_die1 (s : State) (w : Workgroup) :
    (putWg s w).die1 = s.die1 := rfl
@[simp] theorem putWg_plat (s : State) (w : Workgroup) :
    (putWg s w).plat = s.plat := rfl

@[simp] theorem putWg_sched_regions (s : State) (w : Workgroup) :
    (putWg s w).sched.regions = s.sched.regions := rfl
@[simp] theorem putWg_sched_queues (s : State) (w : Workgroup) :
    (putWg s w).sched.queues = s.sched.queues := rfl
@[simp] theorem putWg_sched_rr (s : State) (w : Workgroup) :
    (putWg s w).sched.rr = s.sched.rr := rfl
@[simp] theorem putWg_sched_launches (s : State) (w : Workgroup) :
    (putWg s w).sched.launches = s.sched.launches := rfl
@[simp] theorem putWg_sched_groups (s : State) (w : Workgroup) :
    (putWg s w).sched.groups = s.sched.groups := rfl
@[simp] theorem putWg_sched_nextLaunch (s : State) (w : Workgroup) :
    (putWg s w).sched.nextLaunch = s.sched.nextLaunch := rfl
@[simp] theorem putWg_sched_nextGroup (s : State) (w : Workgroup) :
    (putWg s w).sched.nextGroup = s.sched.nextGroup := rfl
@[simp] theorem putWg_sched_deferred (s : State) (w : Workgroup) :
    (putWg s w).sched.deferred = s.sched.deferred := rfl
@[simp] theorem putWg_sched_relay (s : State) (w : Workgroup) :
    (putWg s w).sched.relay = s.sched.relay := rfl
@[simp] theorem putWg_sched_worlds (s : State) (w : Workgroup) :
    (putWg s w).sched.worlds = s.sched.worlds := rfl

/-! ## Flags of a launch -/

@[simp] theorem addFlags_cur (s : State) (l : Nat) (f : FpFlags) :
    (addFlags s l f).cur = s.cur := rfl
@[simp] theorem addFlags_agenda (s : State) (l : Nat) (f : FpFlags) :
    (addFlags s l f).agenda = s.agenda := rfl
@[simp] theorem addFlags_picks (s : State) (l : Nat) (f : FpFlags) :
    (addFlags s l f).picks = s.picks := rfl
@[simp] theorem addFlags_free (s : State) (l : Nat) (f : FpFlags) :
    (addFlags s l f).free = s.free := rfl
@[simp] theorem addFlags_clock (s : State) (l : Nat) (f : FpFlags) :
    (addFlags s l f).clock = s.clock := rfl
@[simp] theorem addFlags_ms (s : State) (l : Nat) (f : FpFlags) :
    (addFlags s l f).ms = s.ms := rfl
@[simp] theorem addFlags_xlat (s : State) (l : Nat) (f : FpFlags) :
    (addFlags s l f).xlat = s.xlat := rfl
@[simp] theorem addFlags_cores (s : State) (l : Nat) (f : FpFlags) :
    (addFlags s l f).cores = s.cores := rfl
@[simp] theorem addFlags_copies (s : State) (l : Nat) (f : FpFlags) :
    (addFlags s l f).copies = s.copies := rfl
@[simp] theorem addFlags_render (s : State) (l : Nat) (f : FpFlags) :
    (addFlags s l f).render = s.render := rfl
@[simp] theorem addFlags_tier (s : State) (l : Nat) (f : FpFlags) :
    (addFlags s l f).tier = s.tier := rfl
@[simp] theorem addFlags_pre (s : State) (l : Nat) (f : FpFlags) :
    (addFlags s l f).pre = s.pre := rfl
@[simp] theorem addFlags_ctls (s : State) (l : Nat) (f : FpFlags) :
    (addFlags s l f).ctls = s.ctls := rfl
@[simp] theorem addFlags_die0 (s : State) (l : Nat) (f : FpFlags) :
    (addFlags s l f).die0 = s.die0 := rfl
@[simp] theorem addFlags_die1 (s : State) (l : Nat) (f : FpFlags) :
    (addFlags s l f).die1 = s.die1 := rfl
@[simp] theorem addFlags_plat (s : State) (l : Nat) (f : FpFlags) :
    (addFlags s l f).plat = s.plat := rfl

@[simp] theorem addFlags_sched_groups (s : State) (l : Nat) (f : FpFlags) :
    (addFlags s l f).sched.groups = s.sched.groups := rfl

/-! ## Reports -/

@[simp] theorem deliver_cur (s : State) (vs : List DWord) :
    (deliver s vs).cur = s.cur := rfl
@[simp] theorem deliver_agenda (s : State) (vs : List DWord) :
    (deliver s vs).agenda = s.agenda := rfl
@[simp] theorem deliver_picks (s : State) (vs : List DWord) :
    (deliver s vs).picks = s.picks := rfl
@[simp] theorem deliver_free (s : State) (vs : List DWord) :
    (deliver s vs).free = s.free := rfl
@[simp] theorem deliver_clock (s : State) (vs : List DWord) :
    (deliver s vs).clock = s.clock := rfl
@[simp] theorem deliver_ms (s : State) (vs : List DWord) :
    (deliver s vs).ms = s.ms := rfl
@[simp] theorem deliver_xlat (s : State) (vs : List DWord) :
    (deliver s vs).xlat = s.xlat := rfl
@[simp] theorem deliver_sched (s : State) (vs : List DWord) :
    (deliver s vs).sched = s.sched := rfl
@[simp] theorem deliver_cores (s : State) (vs : List DWord) :
    (deliver s vs).cores = s.cores := rfl
@[simp] theorem deliver_copies (s : State) (vs : List DWord) :
    (deliver s vs).copies = s.copies := rfl
@[simp] theorem deliver_render (s : State) (vs : List DWord) :
    (deliver s vs).render = s.render := rfl
@[simp] theorem deliver_tier (s : State) (vs : List DWord) :
    (deliver s vs).tier = s.tier := rfl
@[simp] theorem deliver_pre (s : State) (vs : List DWord) :
    (deliver s vs).pre = s.pre := rfl
@[simp] theorem deliver_ctls (s : State) (vs : List DWord) :
    (deliver s vs).ctls = s.ctls := rfl
@[simp] theorem deliver_die0 (s : State) (vs : List DWord) :
    (deliver s vs).die0 = s.die0 := rfl
@[simp] theorem deliver_die1 (s : State) (vs : List DWord) :
    (deliver s vs).die1 = s.die1 := rfl

/-! ## Posted records -/

@[simp] theorem postRing_cur (s : State) (h : Nat) (a : Option Nat) (d : Nat) (ws : List Word) (src un : Nat) :
    (postRing s h a d ws src un).cur = s.cur := rfl
@[simp] theorem postRing_agenda (s : State) (h : Nat) (a : Option Nat) (d : Nat) (ws : List Word) (src un : Nat) :
    (postRing s h a d ws src un).agenda = s.agenda := rfl
@[simp] theorem postRing_picks (s : State) (h : Nat) (a : Option Nat) (d : Nat) (ws : List Word) (src un : Nat) :
    (postRing s h a d ws src un).picks = s.picks := rfl
@[simp] theorem postRing_free (s : State) (h : Nat) (a : Option Nat) (d : Nat) (ws : List Word) (src un : Nat) :
    (postRing s h a d ws src un).free = s.free := rfl
@[simp] theorem postRing_clock (s : State) (h : Nat) (a : Option Nat) (d : Nat) (ws : List Word) (src un : Nat) :
    (postRing s h a d ws src un).clock = s.clock := rfl
@[simp] theorem postRing_ms (s : State) (h : Nat) (a : Option Nat) (d : Nat) (ws : List Word) (src un : Nat) :
    (postRing s h a d ws src un).ms = s.ms := rfl
@[simp] theorem postRing_xlat (s : State) (h : Nat) (a : Option Nat) (d : Nat) (ws : List Word) (src un : Nat) :
    (postRing s h a d ws src un).xlat = s.xlat := rfl
@[simp] theorem postRing_sched (s : State) (h : Nat) (a : Option Nat) (d : Nat) (ws : List Word) (src un : Nat) :
    (postRing s h a d ws src un).sched = s.sched := rfl
@[simp] theorem postRing_cores (s : State) (h : Nat) (a : Option Nat) (d : Nat) (ws : List Word) (src un : Nat) :
    (postRing s h a d ws src un).cores = s.cores := rfl
@[simp] theorem postRing_render (s : State) (h : Nat) (a : Option Nat) (d : Nat) (ws : List Word) (src un : Nat) :
    (postRing s h a d ws src un).render = s.render := rfl
@[simp] theorem postRing_tier (s : State) (h : Nat) (a : Option Nat) (d : Nat) (ws : List Word) (src un : Nat) :
    (postRing s h a d ws src un).tier = s.tier := rfl
@[simp] theorem postRing_pre (s : State) (h : Nat) (a : Option Nat) (d : Nat) (ws : List Word) (src un : Nat) :
    (postRing s h a d ws src un).pre = s.pre := rfl
@[simp] theorem postRing_ctls (s : State) (h : Nat) (a : Option Nat) (d : Nat) (ws : List Word) (src un : Nat) :
    (postRing s h a d ws src un).ctls = s.ctls := rfl
@[simp] theorem postRing_die0 (s : State) (h : Nat) (a : Option Nat) (d : Nat) (ws : List Word) (src un : Nat) :
    (postRing s h a d ws src un).die0 = s.die0 := rfl
@[simp] theorem postRing_die1 (s : State) (h : Nat) (a : Option Nat) (d : Nat) (ws : List Word) (src un : Nat) :
    (postRing s h a d ws src un).die1 = s.die1 := rfl
@[simp] theorem postRing_plat (s : State) (h : Nat) (a : Option Nat) (d : Nat) (ws : List Word) (src un : Nat) :
    (postRing s h a d ws src un).plat = s.plat := rfl

/-! ## Registers of a group -/

@[simp] theorem setV_id (g : Group) (l e : Nat) (x : Word) :
    (setV g l e x).id = g.id := rfl
@[simp] theorem setV_launch (g : Group) (l e : Nat) (x : Word) :
    (setV g l e x).launch = g.launch := rfl
@[simp] theorem setV_wg (g : Group) (l e : Nat) (x : Word) :
    (setV g l e x).wg = g.wg := rfl
@[simp] theorem setV_index (g : Group) (l e : Nat) (x : Word) :
    (setV g l e x).index = g.index := rfl
@[simp] theorem setV_core (g : Group) (l e : Nat) (x : Word) :
    (setV g l e x).core = g.core := rfl
@[simp] theorem setV_pos (g : Group) (l e : Nat) (x : Word) :
    (setV g l e x).pos = g.pos := rfl
@[simp] theorem setV_width (g : Group) (l e : Nat) (x : Word) :
    (setV g l e x).width = g.width := rfl
@[simp] theorem setV_vregs (g : Group) (l e : Nat) (x : Word) :
    (setV g l e x).vregs = g.vregs := rfl
@[simp] theorem setV_sregs (g : Group) (l e : Nat) (x : Word) :
    (setV g l e x).sregs = g.sregs := rfl
@[simp] theorem setV_octet (g : Group) (l e : Nat) (x : Word) :
    (setV g l e x).octet = g.octet := rfl
@[simp] theorem setV_regOffset (g : Group) (l e : Nat) (x : Word) :
    (setV g l e x).regOffset = g.regOffset := rfl
@[simp] theorem setV_itemBase (g : Group) (l e : Nat) (x : Word) :
    (setV g l e x).itemBase = g.itemBase := rfl
@[simp] theorem setV_s (g : Group) (l e : Nat) (x : Word) :
    (setV g l e x).s = g.s := rfl
@[simp] theorem setV_p (g : Group) (l e : Nat) (x : Word) :
    (setV g l e x).p = g.p := rfl
@[simp] theorem setV_q (g : Group) (l e : Nat) (x : Word) :
    (setV g l e x).q = g.q := rfl
@[simp] theorem setV_x (g : Group) (l e : Nat) (x : Word) :
    (setV g l e x).x = g.x := rfl
@[simp] theorem setV_wb (g : Group) (l e : Nat) (x : Word) :
    (setV g l e x).wb = g.wb := rfl
@[simp] theorem setV_spa (g : Group) (l e : Nat) (x : Word) :
    (setV g l e x).spa = g.spa := rfl
@[simp] theorem setV_gens (g : Group) (l e : Nat) (x : Word) :
    (setV g l e x).gens = g.gens := rfl
@[simp] theorem setV_phase (g : Group) (l e : Nat) (x : Word) :
    (setV g l e x).phase = g.phase := rfl
@[simp] theorem setV_phaseHold (g : Group) (l e : Nat) (x : Word) :
    (setV g l e x).phaseHold = g.phaseHold := rfl
@[simp] theorem setV_vstale (g : Group) (l e : Nat) (x : Word) :
    (setV g l e x).vstale = g.vstale := rfl
@[simp] theorem setV_published (g : Group) (l e : Nat) (x : Word) :
    (setV g l e x).published = g.published := rfl
@[simp] theorem setV_slices (g : Group) (l e : Nat) (x : Word) :
    (setV g l e x).slices = g.slices := rfl
@[simp] theorem setV_splits (g : Group) (l e : Nat) (x : Word) :
    (setV g l e x).splits = g.splits := rfl
@[simp] theorem setV_forks (g : Group) (l e : Nat) (x : Word) :
    (setV g l e x).forks = g.forks := rfl
@[simp] theorem setV_nextFork (g : Group) (l e : Nat) (x : Word) :
    (setV g l e x).nextFork = g.nextFork := rfl
@[simp] theorem setV_nextSplit (g : Group) (l e : Nat) (x : Word) :
    (setV g l e x).nextSplit = g.nextSplit := rfl
@[simp] theorem setV_touchedA (g : Group) (l e : Nat) (x : Word) :
    (setV g l e x).touchedA = g.touchedA := rfl
@[simp] theorem setV_foreignA (g : Group) (l e : Nat) (x : Word) :
    (setV g l e x).foreignA = g.foreignA := rfl
@[simp] theorem setV_posted (g : Group) (l e : Nat) (x : Word) :
    (setV g l e x).posted = g.posted := rfl

@[simp] theorem setS_id (g : Group) (n : Nat) (x : Word) :
    (setS g n x).id = g.id := rfl
@[simp] theorem setS_launch (g : Group) (n : Nat) (x : Word) :
    (setS g n x).launch = g.launch := rfl
@[simp] theorem setS_wg (g : Group) (n : Nat) (x : Word) :
    (setS g n x).wg = g.wg := rfl
@[simp] theorem setS_index (g : Group) (n : Nat) (x : Word) :
    (setS g n x).index = g.index := rfl
@[simp] theorem setS_core (g : Group) (n : Nat) (x : Word) :
    (setS g n x).core = g.core := rfl
@[simp] theorem setS_pos (g : Group) (n : Nat) (x : Word) :
    (setS g n x).pos = g.pos := rfl
@[simp] theorem setS_width (g : Group) (n : Nat) (x : Word) :
    (setS g n x).width = g.width := rfl
@[simp] theorem setS_vregs (g : Group) (n : Nat) (x : Word) :
    (setS g n x).vregs = g.vregs := rfl
@[simp] theorem setS_sregs (g : Group) (n : Nat) (x : Word) :
    (setS g n x).sregs = g.sregs := rfl
@[simp] theorem setS_octet (g : Group) (n : Nat) (x : Word) :
    (setS g n x).octet = g.octet := rfl
@[simp] theorem setS_regOffset (g : Group) (n : Nat) (x : Word) :
    (setS g n x).regOffset = g.regOffset := rfl
@[simp] theorem setS_itemBase (g : Group) (n : Nat) (x : Word) :
    (setS g n x).itemBase = g.itemBase := rfl
@[simp] theorem setS_v (g : Group) (n : Nat) (x : Word) :
    (setS g n x).v = g.v := rfl
@[simp] theorem setS_p (g : Group) (n : Nat) (x : Word) :
    (setS g n x).p = g.p := rfl
@[simp] theorem setS_q (g : Group) (n : Nat) (x : Word) :
    (setS g n x).q = g.q := rfl
@[simp] theorem setS_x (g : Group) (n : Nat) (x : Word) :
    (setS g n x).x = g.x := rfl
@[simp] theorem setS_wb (g : Group) (n : Nat) (x : Word) :
    (setS g n x).wb = g.wb := rfl
@[simp] theorem setS_spa (g : Group) (n : Nat) (x : Word) :
    (setS g n x).spa = g.spa := rfl
@[simp] theorem setS_gens (g : Group) (n : Nat) (x : Word) :
    (setS g n x).gens = g.gens := rfl
@[simp] theorem setS_phase (g : Group) (n : Nat) (x : Word) :
    (setS g n x).phase = g.phase := rfl
@[simp] theorem setS_phaseHold (g : Group) (n : Nat) (x : Word) :
    (setS g n x).phaseHold = g.phaseHold := rfl
@[simp] theorem setS_vstale (g : Group) (n : Nat) (x : Word) :
    (setS g n x).vstale = g.vstale := rfl
@[simp] theorem setS_published (g : Group) (n : Nat) (x : Word) :
    (setS g n x).published = g.published := rfl
@[simp] theorem setS_slices (g : Group) (n : Nat) (x : Word) :
    (setS g n x).slices = g.slices := rfl
@[simp] theorem setS_splits (g : Group) (n : Nat) (x : Word) :
    (setS g n x).splits = g.splits := rfl
@[simp] theorem setS_forks (g : Group) (n : Nat) (x : Word) :
    (setS g n x).forks = g.forks := rfl
@[simp] theorem setS_nextFork (g : Group) (n : Nat) (x : Word) :
    (setS g n x).nextFork = g.nextFork := rfl
@[simp] theorem setS_nextSplit (g : Group) (n : Nat) (x : Word) :
    (setS g n x).nextSplit = g.nextSplit := rfl
@[simp] theorem setS_touched (g : Group) (n : Nat) (x : Word) :
    (setS g n x).touched = g.touched := rfl
@[simp] theorem setS_touchedA (g : Group) (n : Nat) (x : Word) :
    (setS g n x).touchedA = g.touchedA := rfl
@[simp] theorem setS_foreignA (g : Group) (n : Nat) (x : Word) :
    (setS g n x).foreignA = g.foreignA := rfl
@[simp] theorem setS_posted (g : Group) (n : Nat) (x : Word) :
    (setS g n x).posted = g.posted := rfl

@[simp] theorem setS64_id (g : Group) (n : Nat) (x : DWord) :
    (setS64 g n x).id = g.id := rfl
@[simp] theorem setS64_launch (g : Group) (n : Nat) (x : DWord) :
    (setS64 g n x).launch = g.launch := rfl
@[simp] theorem setS64_wg (g : Group) (n : Nat) (x : DWord) :
    (setS64 g n x).wg = g.wg := rfl
@[simp] theorem setS64_index (g : Group) (n : Nat) (x : DWord) :
    (setS64 g n x).index = g.index := rfl
@[simp] theorem setS64_core (g : Group) (n : Nat) (x : DWord) :
    (setS64 g n x).core = g.core := rfl
@[simp] theorem setS64_pos (g : Group) (n : Nat) (x : DWord) :
    (setS64 g n x).pos = g.pos := rfl
@[simp] theorem setS64_width (g : Group) (n : Nat) (x : DWord) :
    (setS64 g n x).width = g.width := rfl
@[simp] theorem setS64_vregs (g : Group) (n : Nat) (x : DWord) :
    (setS64 g n x).vregs = g.vregs := rfl
@[simp] theorem setS64_sregs (g : Group) (n : Nat) (x : DWord) :
    (setS64 g n x).sregs = g.sregs := rfl
@[simp] theorem setS64_octet (g : Group) (n : Nat) (x : DWord) :
    (setS64 g n x).octet = g.octet := rfl
@[simp] theorem setS64_regOffset (g : Group) (n : Nat) (x : DWord) :
    (setS64 g n x).regOffset = g.regOffset := rfl
@[simp] theorem setS64_itemBase (g : Group) (n : Nat) (x : DWord) :
    (setS64 g n x).itemBase = g.itemBase := rfl
@[simp] theorem setS64_v (g : Group) (n : Nat) (x : DWord) :
    (setS64 g n x).v = g.v := rfl
@[simp] theorem setS64_p (g : Group) (n : Nat) (x : DWord) :
    (setS64 g n x).p = g.p := rfl
@[simp] theorem setS64_q (g : Group) (n : Nat) (x : DWord) :
    (setS64 g n x).q = g.q := rfl
@[simp] theorem setS64_x (g : Group) (n : Nat) (x : DWord) :
    (setS64 g n x).x = g.x := rfl
@[simp] theorem setS64_wb (g : Group) (n : Nat) (x : DWord) :
    (setS64 g n x).wb = g.wb := rfl
@[simp] theorem setS64_spa (g : Group) (n : Nat) (x : DWord) :
    (setS64 g n x).spa = g.spa := rfl
@[simp] theorem setS64_gens (g : Group) (n : Nat) (x : DWord) :
    (setS64 g n x).gens = g.gens := rfl
@[simp] theorem setS64_phase (g : Group) (n : Nat) (x : DWord) :
    (setS64 g n x).phase = g.phase := rfl
@[simp] theorem setS64_phaseHold (g : Group) (n : Nat) (x : DWord) :
    (setS64 g n x).phaseHold = g.phaseHold := rfl
@[simp] theorem setS64_vstale (g : Group) (n : Nat) (x : DWord) :
    (setS64 g n x).vstale = g.vstale := rfl
@[simp] theorem setS64_published (g : Group) (n : Nat) (x : DWord) :
    (setS64 g n x).published = g.published := rfl
@[simp] theorem setS64_slices (g : Group) (n : Nat) (x : DWord) :
    (setS64 g n x).slices = g.slices := rfl
@[simp] theorem setS64_splits (g : Group) (n : Nat) (x : DWord) :
    (setS64 g n x).splits = g.splits := rfl
@[simp] theorem setS64_forks (g : Group) (n : Nat) (x : DWord) :
    (setS64 g n x).forks = g.forks := rfl
@[simp] theorem setS64_nextFork (g : Group) (n : Nat) (x : DWord) :
    (setS64 g n x).nextFork = g.nextFork := rfl
@[simp] theorem setS64_nextSplit (g : Group) (n : Nat) (x : DWord) :
    (setS64 g n x).nextSplit = g.nextSplit := rfl
@[simp] theorem setS64_touched (g : Group) (n : Nat) (x : DWord) :
    (setS64 g n x).touched = g.touched := rfl
@[simp] theorem setS64_touchedA (g : Group) (n : Nat) (x : DWord) :
    (setS64 g n x).touchedA = g.touchedA := rfl
@[simp] theorem setS64_foreignA (g : Group) (n : Nat) (x : DWord) :
    (setS64 g n x).foreignA = g.foreignA := rfl
@[simp] theorem setS64_posted (g : Group) (n : Nat) (x : DWord) :
    (setS64 g n x).posted = g.posted := rfl

@[simp] theorem setX_id (g : Group) (l n : Nat) (x : Byte) :
    (setX g l n x).id = g.id := rfl
@[simp] theorem setX_launch (g : Group) (l n : Nat) (x : Byte) :
    (setX g l n x).launch = g.launch := rfl
@[simp] theorem setX_wg (g : Group) (l n : Nat) (x : Byte) :
    (setX g l n x).wg = g.wg := rfl
@[simp] theorem setX_index (g : Group) (l n : Nat) (x : Byte) :
    (setX g l n x).index = g.index := rfl
@[simp] theorem setX_core (g : Group) (l n : Nat) (x : Byte) :
    (setX g l n x).core = g.core := rfl
@[simp] theorem setX_pos (g : Group) (l n : Nat) (x : Byte) :
    (setX g l n x).pos = g.pos := rfl
@[simp] theorem setX_width (g : Group) (l n : Nat) (x : Byte) :
    (setX g l n x).width = g.width := rfl
@[simp] theorem setX_vregs (g : Group) (l n : Nat) (x : Byte) :
    (setX g l n x).vregs = g.vregs := rfl
@[simp] theorem setX_sregs (g : Group) (l n : Nat) (x : Byte) :
    (setX g l n x).sregs = g.sregs := rfl
@[simp] theorem setX_octet (g : Group) (l n : Nat) (x : Byte) :
    (setX g l n x).octet = g.octet := rfl
@[simp] theorem setX_regOffset (g : Group) (l n : Nat) (x : Byte) :
    (setX g l n x).regOffset = g.regOffset := rfl
@[simp] theorem setX_itemBase (g : Group) (l n : Nat) (x : Byte) :
    (setX g l n x).itemBase = g.itemBase := rfl
@[simp] theorem setX_v (g : Group) (l n : Nat) (x : Byte) :
    (setX g l n x).v = g.v := rfl
@[simp] theorem setX_s (g : Group) (l n : Nat) (x : Byte) :
    (setX g l n x).s = g.s := rfl
@[simp] theorem setX_p (g : Group) (l n : Nat) (x : Byte) :
    (setX g l n x).p = g.p := rfl
@[simp] theorem setX_q (g : Group) (l n : Nat) (x : Byte) :
    (setX g l n x).q = g.q := rfl
@[simp] theorem setX_wb (g : Group) (l n : Nat) (x : Byte) :
    (setX g l n x).wb = g.wb := rfl
@[simp] theorem setX_spa (g : Group) (l n : Nat) (x : Byte) :
    (setX g l n x).spa = g.spa := rfl
@[simp] theorem setX_gens (g : Group) (l n : Nat) (x : Byte) :
    (setX g l n x).gens = g.gens := rfl
@[simp] theorem setX_phase (g : Group) (l n : Nat) (x : Byte) :
    (setX g l n x).phase = g.phase := rfl
@[simp] theorem setX_phaseHold (g : Group) (l n : Nat) (x : Byte) :
    (setX g l n x).phaseHold = g.phaseHold := rfl
@[simp] theorem setX_vstale (g : Group) (l n : Nat) (x : Byte) :
    (setX g l n x).vstale = g.vstale := rfl
@[simp] theorem setX_published (g : Group) (l n : Nat) (x : Byte) :
    (setX g l n x).published = g.published := rfl
@[simp] theorem setX_slices (g : Group) (l n : Nat) (x : Byte) :
    (setX g l n x).slices = g.slices := rfl
@[simp] theorem setX_splits (g : Group) (l n : Nat) (x : Byte) :
    (setX g l n x).splits = g.splits := rfl
@[simp] theorem setX_forks (g : Group) (l n : Nat) (x : Byte) :
    (setX g l n x).forks = g.forks := rfl
@[simp] theorem setX_nextFork (g : Group) (l n : Nat) (x : Byte) :
    (setX g l n x).nextFork = g.nextFork := rfl
@[simp] theorem setX_nextSplit (g : Group) (l n : Nat) (x : Byte) :
    (setX g l n x).nextSplit = g.nextSplit := rfl
@[simp] theorem setX_pend (g : Group) (l n : Nat) (x : Byte) :
    (setX g l n x).pend = g.pend := rfl
@[simp] theorem setX_touched (g : Group) (l n : Nat) (x : Byte) :
    (setX g l n x).touched = g.touched := rfl
@[simp] theorem setX_touchedA (g : Group) (l n : Nat) (x : Byte) :
    (setX g l n x).touchedA = g.touchedA := rfl
@[simp] theorem setX_foreignA (g : Group) (l n : Nat) (x : Byte) :
    (setX g l n x).foreignA = g.foreignA := rfl
@[simp] theorem setX_posted (g : Group) (l n : Nat) (x : Byte) :
    (setX g l n x).posted = g.posted := rfl

@[simp] theorem setP_id (g : Group) (l n : Nat) (b : Bool) :
    (setP g l n b).id = g.id := by
  unfold setP; split <;> rfl
@[simp] theorem setP_launch (g : Group) (l n : Nat) (b : Bool) :
    (setP g l n b).launch = g.launch := by
  unfold setP; split <;> rfl
@[simp] theorem setP_wg (g : Group) (l n : Nat) (b : Bool) :
    (setP g l n b).wg = g.wg := by
  unfold setP; split <;> rfl
@[simp] theorem setP_index (g : Group) (l n : Nat) (b : Bool) :
    (setP g l n b).index = g.index := by
  unfold setP; split <;> rfl
@[simp] theorem setP_core (g : Group) (l n : Nat) (b : Bool) :
    (setP g l n b).core = g.core := by
  unfold setP; split <;> rfl
@[simp] theorem setP_pos (g : Group) (l n : Nat) (b : Bool) :
    (setP g l n b).pos = g.pos := by
  unfold setP; split <;> rfl
@[simp] theorem setP_width (g : Group) (l n : Nat) (b : Bool) :
    (setP g l n b).width = g.width := by
  unfold setP; split <;> rfl
@[simp] theorem setP_vregs (g : Group) (l n : Nat) (b : Bool) :
    (setP g l n b).vregs = g.vregs := by
  unfold setP; split <;> rfl
@[simp] theorem setP_sregs (g : Group) (l n : Nat) (b : Bool) :
    (setP g l n b).sregs = g.sregs := by
  unfold setP; split <;> rfl
@[simp] theorem setP_octet (g : Group) (l n : Nat) (b : Bool) :
    (setP g l n b).octet = g.octet := by
  unfold setP; split <;> rfl
@[simp] theorem setP_regOffset (g : Group) (l n : Nat) (b : Bool) :
    (setP g l n b).regOffset = g.regOffset := by
  unfold setP; split <;> rfl
@[simp] theorem setP_itemBase (g : Group) (l n : Nat) (b : Bool) :
    (setP g l n b).itemBase = g.itemBase := by
  unfold setP; split <;> rfl
@[simp] theorem setP_v (g : Group) (l n : Nat) (b : Bool) :
    (setP g l n b).v = g.v := by
  unfold setP; split <;> rfl
@[simp] theorem setP_s (g : Group) (l n : Nat) (b : Bool) :
    (setP g l n b).s = g.s := by
  unfold setP; split <;> rfl
@[simp] theorem setP_q (g : Group) (l n : Nat) (b : Bool) :
    (setP g l n b).q = g.q := by
  unfold setP; split <;> rfl
@[simp] theorem setP_x (g : Group) (l n : Nat) (b : Bool) :
    (setP g l n b).x = g.x := by
  unfold setP; split <;> rfl
@[simp] theorem setP_wb (g : Group) (l n : Nat) (b : Bool) :
    (setP g l n b).wb = g.wb := by
  unfold setP; split <;> rfl
@[simp] theorem setP_spa (g : Group) (l n : Nat) (b : Bool) :
    (setP g l n b).spa = g.spa := by
  unfold setP; split <;> rfl
@[simp] theorem setP_gens (g : Group) (l n : Nat) (b : Bool) :
    (setP g l n b).gens = g.gens := by
  unfold setP; split <;> rfl
@[simp] theorem setP_phase (g : Group) (l n : Nat) (b : Bool) :
    (setP g l n b).phase = g.phase := by
  unfold setP; split <;> rfl
@[simp] theorem setP_phaseHold (g : Group) (l n : Nat) (b : Bool) :
    (setP g l n b).phaseHold = g.phaseHold := by
  unfold setP; split <;> rfl
@[simp] theorem setP_vstale (g : Group) (l n : Nat) (b : Bool) :
    (setP g l n b).vstale = g.vstale := by
  unfold setP; split <;> rfl
@[simp] theorem setP_published (g : Group) (l n : Nat) (b : Bool) :
    (setP g l n b).published = g.published := by
  unfold setP; split <;> rfl
@[simp] theorem setP_slices (g : Group) (l n : Nat) (b : Bool) :
    (setP g l n b).slices = g.slices := by
  unfold setP; split <;> rfl
@[simp] theorem setP_splits (g : Group) (l n : Nat) (b : Bool) :
    (setP g l n b).splits = g.splits := by
  unfold setP; split <;> rfl
@[simp] theorem setP_forks (g : Group) (l n : Nat) (b : Bool) :
    (setP g l n b).forks = g.forks := by
  unfold setP; split <;> rfl
@[simp] theorem setP_nextFork (g : Group) (l n : Nat) (b : Bool) :
    (setP g l n b).nextFork = g.nextFork := by
  unfold setP; split <;> rfl
@[simp] theorem setP_nextSplit (g : Group) (l n : Nat) (b : Bool) :
    (setP g l n b).nextSplit = g.nextSplit := by
  unfold setP; split <;> rfl
@[simp] theorem setP_pend (g : Group) (l n : Nat) (b : Bool) :
    (setP g l n b).pend = g.pend := by
  unfold setP; split <;> rfl
@[simp] theorem setP_touched (g : Group) (l n : Nat) (b : Bool) :
    (setP g l n b).touched = g.touched := by
  unfold setP; split <;> rfl
@[simp] theorem setP_touchedA (g : Group) (l n : Nat) (b : Bool) :
    (setP g l n b).touchedA = g.touchedA := by
  unfold setP; split <;> rfl
@[simp] theorem setP_foreignA (g : Group) (l n : Nat) (b : Bool) :
    (setP g l n b).foreignA = g.foreignA := by
  unfold setP; split <;> rfl
@[simp] theorem setP_posted (g : Group) (l n : Nat) (b : Bool) :
    (setP g l n b).posted = g.posted := by
  unfold setP; split <;> rfl

@[simp] theorem setQ_id (g : Group) (n : Nat) (b : Bool) :
    (setQ g n b).id = g.id := by
  unfold setQ; split <;> rfl
@[simp] theorem setQ_launch (g : Group) (n : Nat) (b : Bool) :
    (setQ g n b).launch = g.launch := by
  unfold setQ; split <;> rfl
@[simp] theorem setQ_wg (g : Group) (n : Nat) (b : Bool) :
    (setQ g n b).wg = g.wg := by
  unfold setQ; split <;> rfl
@[simp] theorem setQ_index (g : Group) (n : Nat) (b : Bool) :
    (setQ g n b).index = g.index := by
  unfold setQ; split <;> rfl
@[simp] theorem setQ_core (g : Group) (n : Nat) (b : Bool) :
    (setQ g n b).core = g.core := by
  unfold setQ; split <;> rfl
@[simp] theorem setQ_pos (g : Group) (n : Nat) (b : Bool) :
    (setQ g n b).pos = g.pos := by
  unfold setQ; split <;> rfl
@[simp] theorem setQ_width (g : Group) (n : Nat) (b : Bool) :
    (setQ g n b).width = g.width := by
  unfold setQ; split <;> rfl
@[simp] theorem setQ_vregs (g : Group) (n : Nat) (b : Bool) :
    (setQ g n b).vregs = g.vregs := by
  unfold setQ; split <;> rfl
@[simp] theorem setQ_sregs (g : Group) (n : Nat) (b : Bool) :
    (setQ g n b).sregs = g.sregs := by
  unfold setQ; split <;> rfl
@[simp] theorem setQ_octet (g : Group) (n : Nat) (b : Bool) :
    (setQ g n b).octet = g.octet := by
  unfold setQ; split <;> rfl
@[simp] theorem setQ_regOffset (g : Group) (n : Nat) (b : Bool) :
    (setQ g n b).regOffset = g.regOffset := by
  unfold setQ; split <;> rfl
@[simp] theorem setQ_itemBase (g : Group) (n : Nat) (b : Bool) :
    (setQ g n b).itemBase = g.itemBase := by
  unfold setQ; split <;> rfl
@[simp] theorem setQ_v (g : Group) (n : Nat) (b : Bool) :
    (setQ g n b).v = g.v := by
  unfold setQ; split <;> rfl
@[simp] theorem setQ_s (g : Group) (n : Nat) (b : Bool) :
    (setQ g n b).s = g.s := by
  unfold setQ; split <;> rfl
@[simp] theorem setQ_p (g : Group) (n : Nat) (b : Bool) :
    (setQ g n b).p = g.p := by
  unfold setQ; split <;> rfl
@[simp] theorem setQ_x (g : Group) (n : Nat) (b : Bool) :
    (setQ g n b).x = g.x := by
  unfold setQ; split <;> rfl
@[simp] theorem setQ_wb (g : Group) (n : Nat) (b : Bool) :
    (setQ g n b).wb = g.wb := by
  unfold setQ; split <;> rfl
@[simp] theorem setQ_spa (g : Group) (n : Nat) (b : Bool) :
    (setQ g n b).spa = g.spa := by
  unfold setQ; split <;> rfl
@[simp] theorem setQ_gens (g : Group) (n : Nat) (b : Bool) :
    (setQ g n b).gens = g.gens := by
  unfold setQ; split <;> rfl
@[simp] theorem setQ_phase (g : Group) (n : Nat) (b : Bool) :
    (setQ g n b).phase = g.phase := by
  unfold setQ; split <;> rfl
@[simp] theorem setQ_phaseHold (g : Group) (n : Nat) (b : Bool) :
    (setQ g n b).phaseHold = g.phaseHold := by
  unfold setQ; split <;> rfl
@[simp] theorem setQ_vstale (g : Group) (n : Nat) (b : Bool) :
    (setQ g n b).vstale = g.vstale := by
  unfold setQ; split <;> rfl
@[simp] theorem setQ_published (g : Group) (n : Nat) (b : Bool) :
    (setQ g n b).published = g.published := by
  unfold setQ; split <;> rfl
@[simp] theorem setQ_slices (g : Group) (n : Nat) (b : Bool) :
    (setQ g n b).slices = g.slices := by
  unfold setQ; split <;> rfl
@[simp] theorem setQ_splits (g : Group) (n : Nat) (b : Bool) :
    (setQ g n b).splits = g.splits := by
  unfold setQ; split <;> rfl
@[simp] theorem setQ_forks (g : Group) (n : Nat) (b : Bool) :
    (setQ g n b).forks = g.forks := by
  unfold setQ; split <;> rfl
@[simp] theorem setQ_nextFork (g : Group) (n : Nat) (b : Bool) :
    (setQ g n b).nextFork = g.nextFork := by
  unfold setQ; split <;> rfl
@[simp] theorem setQ_nextSplit (g : Group) (n : Nat) (b : Bool) :
    (setQ g n b).nextSplit = g.nextSplit := by
  unfold setQ; split <;> rfl
@[simp] theorem setQ_touched (g : Group) (n : Nat) (b : Bool) :
    (setQ g n b).touched = g.touched := by
  unfold setQ; split <;> rfl
@[simp] theorem setQ_touchedA (g : Group) (n : Nat) (b : Bool) :
    (setQ g n b).touchedA = g.touchedA := by
  unfold setQ; split <;> rfl
@[simp] theorem setQ_foreignA (g : Group) (n : Nat) (b : Bool) :
    (setQ g n b).foreignA = g.foreignA := by
  unfold setQ; split <;> rfl
@[simp] theorem setQ_posted (g : Group) (n : Nat) (b : Bool) :
    (setQ g n b).posted = g.posted := by
  unfold setQ; split <;> rfl

/-! ## Splits and slices of a group -/

@[simp] theorem putSplit_id (g : Group) (p : Split) :
    (putSplit g p).id = g.id := rfl
@[simp] theorem putSplit_launch (g : Group) (p : Split) :
    (putSplit g p).launch = g.launch := rfl
@[simp] theorem putSplit_wg (g : Group) (p : Split) :
    (putSplit g p).wg = g.wg := rfl
@[simp] theorem putSplit_index (g : Group) (p : Split) :
    (putSplit g p).index = g.index := rfl
@[simp] theorem putSplit_core (g : Group) (p : Split) :
    (putSplit g p).core = g.core := rfl
@[simp] theorem putSplit_pos (g : Group) (p : Split) :
    (putSplit g p).pos = g.pos := rfl
@[simp] theorem putSplit_width (g : Group) (p : Split) :
    (putSplit g p).width = g.width := rfl
@[simp] theorem putSplit_vregs (g : Group) (p : Split) :
    (putSplit g p).vregs = g.vregs := rfl
@[simp] theorem putSplit_sregs (g : Group) (p : Split) :
    (putSplit g p).sregs = g.sregs := rfl
@[simp] theorem putSplit_octet (g : Group) (p : Split) :
    (putSplit g p).octet = g.octet := rfl
@[simp] theorem putSplit_regOffset (g : Group) (p : Split) :
    (putSplit g p).regOffset = g.regOffset := rfl
@[simp] theorem putSplit_itemBase (g : Group) (p : Split) :
    (putSplit g p).itemBase = g.itemBase := rfl
@[simp] theorem putSplit_v (g : Group) (p : Split) :
    (putSplit g p).v = g.v := rfl
@[simp] theorem putSplit_s (g : Group) (p : Split) :
    (putSplit g p).s = g.s := rfl
@[simp] theorem putSplit_p (g : Group) (p : Split) :
    (putSplit g p).p = g.p := rfl
@[simp] theorem putSplit_q (g : Group) (p : Split) :
    (putSplit g p).q = g.q := rfl
@[simp] theorem putSplit_x (g : Group) (p : Split) :
    (putSplit g p).x = g.x := rfl
@[simp] theorem putSplit_wb (g : Group) (p : Split) :
    (putSplit g p).wb = g.wb := rfl
@[simp] theorem putSplit_spa (g : Group) (p : Split) :
    (putSplit g p).spa = g.spa := rfl
@[simp] theorem putSplit_gens (g : Group) (p : Split) :
    (putSplit g p).gens = g.gens := rfl
@[simp] theorem putSplit_phase (g : Group) (p : Split) :
    (putSplit g p).phase = g.phase := rfl
@[simp] theorem putSplit_phaseHold (g : Group) (p : Split) :
    (putSplit g p).phaseHold = g.phaseHold := rfl
@[simp] theorem putSplit_vstale (g : Group) (p : Split) :
    (putSplit g p).vstale = g.vstale := rfl
@[simp] theorem putSplit_published (g : Group) (p : Split) :
    (putSplit g p).published = g.published := rfl
@[simp] theorem putSplit_slices (g : Group) (p : Split) :
    (putSplit g p).slices = g.slices := rfl
@[simp] theorem putSplit_forks (g : Group) (p : Split) :
    (putSplit g p).forks = g.forks := rfl
@[simp] theorem putSplit_nextFork (g : Group) (p : Split) :
    (putSplit g p).nextFork = g.nextFork := rfl
@[simp] theorem putSplit_nextSplit (g : Group) (p : Split) :
    (putSplit g p).nextSplit = g.nextSplit := rfl
@[simp] theorem putSplit_pend (g : Group) (p : Split) :
    (putSplit g p).pend = g.pend := rfl
@[simp] theorem putSplit_touched (g : Group) (p : Split) :
    (putSplit g p).touched = g.touched := rfl
@[simp] theorem putSplit_touchedA (g : Group) (p : Split) :
    (putSplit g p).touchedA = g.touchedA := rfl
@[simp] theorem putSplit_foreignA (g : Group) (p : Split) :
    (putSplit g p).foreignA = g.foreignA := rfl
@[simp] theorem putSplit_posted (g : Group) (p : Split) :
    (putSplit g p).posted = g.posted := rfl

@[simp] theorem putSlice_id (g : Group) (j : Nat) (sl : Slice) :
    (putSlice g j sl).id = g.id := rfl
@[simp] theorem putSlice_launch (g : Group) (j : Nat) (sl : Slice) :
    (putSlice g j sl).launch = g.launch := rfl
@[simp] theorem putSlice_wg (g : Group) (j : Nat) (sl : Slice) :
    (putSlice g j sl).wg = g.wg := rfl
@[simp] theorem putSlice_index (g : Group) (j : Nat) (sl : Slice) :
    (putSlice g j sl).index = g.index := rfl
@[simp] theorem putSlice_core (g : Group) (j : Nat) (sl : Slice) :
    (putSlice g j sl).core = g.core := rfl
@[simp] theorem putSlice_pos (g : Group) (j : Nat) (sl : Slice) :
    (putSlice g j sl).pos = g.pos := rfl
@[simp] theorem putSlice_width (g : Group) (j : Nat) (sl : Slice) :
    (putSlice g j sl).width = g.width := rfl
@[simp] theorem putSlice_vregs (g : Group) (j : Nat) (sl : Slice) :
    (putSlice g j sl).vregs = g.vregs := rfl
@[simp] theorem putSlice_sregs (g : Group) (j : Nat) (sl : Slice) :
    (putSlice g j sl).sregs = g.sregs := rfl
@[simp] theorem putSlice_octet (g : Group) (j : Nat) (sl : Slice) :
    (putSlice g j sl).octet = g.octet := rfl
@[simp] theorem putSlice_regOffset (g : Group) (j : Nat) (sl : Slice) :
    (putSlice g j sl).regOffset = g.regOffset := rfl
@[simp] theorem putSlice_itemBase (g : Group) (j : Nat) (sl : Slice) :
    (putSlice g j sl).itemBase = g.itemBase := rfl
@[simp] theorem putSlice_v (g : Group) (j : Nat) (sl : Slice) :
    (putSlice g j sl).v = g.v := rfl
@[simp] theorem putSlice_s (g : Group) (j : Nat) (sl : Slice) :
    (putSlice g j sl).s = g.s := rfl
@[simp] theorem putSlice_p (g : Group) (j : Nat) (sl : Slice) :
    (putSlice g j sl).p = g.p := rfl
@[simp] theorem putSlice_q (g : Group) (j : Nat) (sl : Slice) :
    (putSlice g j sl).q = g.q := rfl
@[simp] theorem putSlice_x (g : Group) (j : Nat) (sl : Slice) :
    (putSlice g j sl).x = g.x := rfl
@[simp] theorem putSlice_wb (g : Group) (j : Nat) (sl : Slice) :
    (putSlice g j sl).wb = g.wb := rfl
@[simp] theorem putSlice_spa (g : Group) (j : Nat) (sl : Slice) :
    (putSlice g j sl).spa = g.spa := rfl
@[simp] theorem putSlice_gens (g : Group) (j : Nat) (sl : Slice) :
    (putSlice g j sl).gens = g.gens := rfl
@[simp] theorem putSlice_phase (g : Group) (j : Nat) (sl : Slice) :
    (putSlice g j sl).phase = g.phase := rfl
@[simp] theorem putSlice_phaseHold (g : Group) (j : Nat) (sl : Slice) :
    (putSlice g j sl).phaseHold = g.phaseHold := rfl
@[simp] theorem putSlice_vstale (g : Group) (j : Nat) (sl : Slice) :
    (putSlice g j sl).vstale = g.vstale := rfl
@[simp] theorem putSlice_published (g : Group) (j : Nat) (sl : Slice) :
    (putSlice g j sl).published = g.published := rfl
@[simp] theorem putSlice_splits (g : Group) (j : Nat) (sl : Slice) :
    (putSlice g j sl).splits = g.splits := rfl
@[simp] theorem putSlice_forks (g : Group) (j : Nat) (sl : Slice) :
    (putSlice g j sl).forks = g.forks := rfl
@[simp] theorem putSlice_nextFork (g : Group) (j : Nat) (sl : Slice) :
    (putSlice g j sl).nextFork = g.nextFork := rfl
@[simp] theorem putSlice_nextSplit (g : Group) (j : Nat) (sl : Slice) :
    (putSlice g j sl).nextSplit = g.nextSplit := rfl
@[simp] theorem putSlice_pend (g : Group) (j : Nat) (sl : Slice) :
    (putSlice g j sl).pend = g.pend := rfl
@[simp] theorem putSlice_touched (g : Group) (j : Nat) (sl : Slice) :
    (putSlice g j sl).touched = g.touched := rfl
@[simp] theorem putSlice_touchedA (g : Group) (j : Nat) (sl : Slice) :
    (putSlice g j sl).touchedA = g.touchedA := rfl
@[simp] theorem putSlice_foreignA (g : Group) (j : Nat) (sl : Slice) :
    (putSlice g j sl).foreignA = g.foreignA := rfl
@[simp] theorem putSlice_posted (g : Group) (j : Nat) (sl : Slice) :
    (putSlice g j sl).posted = g.posted := rfl

@[simp] theorem advance_id (p : Split) (y : Bool) :
    (advance p y).id = p.id := rfl
@[simp] theorem advance_slices (p : Split) (y : Bool) :
    (advance p y).slices = p.slices := rfl
@[simp] theorem advance_fmt (p : Split) (y : Bool) :
    (advance p y).fmt = p.fmt := rfl
@[simp] theorem advance_join (p : Split) (y : Bool) :
    (advance p y).join = p.join := rfl
@[simp] theorem advance_fork (p : Split) (y : Bool) :
    (advance p y).fork = p.fork := rfl
@[simp] theorem advance_wait (p : Split) (y : Bool) :
    (advance p y).wait = p.wait := rfl
@[simp] theorem advance_flt (p : Split) (y : Bool) :
    (advance p y).flt = p.flt := rfl
@[simp] theorem advance_resume (p : Split) (y : Bool) :
    (advance p y).resume = p.resume := rfl

@[simp] theorem backTo_id (p : Split) (w : Wait) :
    (backTo p w).id = p.id := rfl
@[simp] theorem backTo_slices (p : Split) (w : Wait) :
    (backTo p w).slices = p.slices := rfl
@[simp] theorem backTo_fmt (p : Split) (w : Wait) :
    (backTo p w).fmt = p.fmt := rfl
@[simp] theorem backTo_join (p : Split) (w : Wait) :
    (backTo p w).join = p.join := rfl
@[simp] theorem backTo_fork (p : Split) (w : Wait) :
    (backTo p w).fork = p.fork := rfl
@[simp] theorem backTo_age (p : Split) (w : Wait) :
    (backTo p w).age = p.age := rfl
@[simp] theorem backTo_ypark (p : Split) (w : Wait) :
    (backTo p w).ypark = p.ypark := rfl
@[simp] theorem backTo_flt (p : Split) (w : Wait) :
    (backTo p w).flt = p.flt := rfl
@[simp] theorem backTo_resume (p : Split) (w : Wait) :
    (backTo p w).resume = p.resume := rfl
@[simp] theorem backTo_progress (p : Split) (w : Wait) :
    (backTo p w).progress = p.progress := rfl
@[simp] theorem backTo_captured (p : Split) (w : Wait) :
    (backTo p w).captured = p.captured := rfl
@[simp] theorem backTo_redo (p : Split) (w : Wait) :
    (backTo p w).redo = p.redo := rfl
@[simp] theorem backTo_later (p : Split) (w : Wait) :
    (backTo p w).later = p.later := rfl

@[simp] theorem wake_id (p : Split) :
    (wake p).id = p.id := rfl
@[simp] theorem wake_slices (p : Split) :
    (wake p).slices = p.slices := rfl
@[simp] theorem wake_pc (p : Split) :
    (wake p).pc = p.pc := rfl
@[simp] theorem wake_fmt (p : Split) :
    (wake p).fmt = p.fmt := rfl
@[simp] theorem wake_join (p : Split) :
    (wake p).join = p.join := rfl
@[simp] theorem wake_fork (p : Split) :
    (wake p).fork = p.fork := rfl
@[simp] theorem wake_age (p : Split) :
    (wake p).age = p.age := rfl
@[simp] theorem wake_ypark (p : Split) :
    (wake p).ypark = p.ypark := rfl
@[simp] theorem wake_hints (p : Split) :
    (wake p).hints = p.hints := rfl
@[simp] theorem wake_flt (p : Split) :
    (wake p).flt = p.flt := rfl
@[simp] theorem wake_resume (p : Split) :
    (wake p).resume = p.resume := rfl
@[simp] theorem wake_progress (p : Split) :
    (wake p).progress = p.progress := rfl
@[simp] theorem wake_captured (p : Split) :
    (wake p).captured = p.captured := rfl
@[simp] theorem wake_redo (p : Split) :
    (wake p).redo = p.redo := rfl
@[simp] theorem wake_later (p : Split) :
    (wake p).later = p.later := rfl

/-! ## Outstanding results -/

@[simp] theorem addPend_id (g : Group) (rs : List LongResult) :
    (addPend g rs).id = g.id := rfl
@[simp] theorem addPend_launch (g : Group) (rs : List LongResult) :
    (addPend g rs).launch = g.launch := rfl
@[simp] theorem addPend_wg (g : Group) (rs : List LongResult) :
    (addPend g rs).wg = g.wg := rfl
@[simp] theorem addPend_index (g : Group) (rs : List LongResult) :
    (addPend g rs).index = g.index := rfl
@[simp] theorem addPend_core (g : Group) (rs : List LongResult) :
    (addPend g rs).core = g.core := rfl
@[simp] theorem addPend_pos (g : Group) (rs : List LongResult) :
    (addPend g rs).pos = g.pos := rfl
@[simp] theorem addPend_width (g : Group) (rs : List LongResult) :
    (addPend g rs).width = g.width := rfl
@[simp] theorem addPend_vregs (g : Group) (rs : List LongResult) :
    (addPend g rs).vregs = g.vregs := rfl
@[simp] theorem addPend_sregs (g : Group) (rs : List LongResult) :
    (addPend g rs).sregs = g.sregs := rfl
@[simp] theorem addPend_octet (g : Group) (rs : List LongResult) :
    (addPend g rs).octet = g.octet := rfl
@[simp] theorem addPend_regOffset (g : Group) (rs : List LongResult) :
    (addPend g rs).regOffset = g.regOffset := rfl
@[simp] theorem addPend_itemBase (g : Group) (rs : List LongResult) :
    (addPend g rs).itemBase = g.itemBase := rfl
@[simp] theorem addPend_v (g : Group) (rs : List LongResult) :
    (addPend g rs).v = g.v := rfl
@[simp] theorem addPend_s (g : Group) (rs : List LongResult) :
    (addPend g rs).s = g.s := rfl
@[simp] theorem addPend_p (g : Group) (rs : List LongResult) :
    (addPend g rs).p = g.p := rfl
@[simp] theorem addPend_q (g : Group) (rs : List LongResult) :
    (addPend g rs).q = g.q := rfl
@[simp] theorem addPend_x (g : Group) (rs : List LongResult) :
    (addPend g rs).x = g.x := rfl
@[simp] theorem addPend_wb (g : Group) (rs : List LongResult) :
    (addPend g rs).wb = g.wb := rfl
@[simp] theorem addPend_spa (g : Group) (rs : List LongResult) :
    (addPend g rs).spa = g.spa := rfl
@[simp] theorem addPend_gens (g : Group) (rs : List LongResult) :
    (addPend g rs).gens = g.gens := rfl
@[simp] theorem addPend_phase (g : Group) (rs : List LongResult) :
    (addPend g rs).phase = g.phase := rfl
@[simp] theorem addPend_phaseHold (g : Group) (rs : List LongResult) :
    (addPend g rs).phaseHold = g.phaseHold := rfl
@[simp] theorem addPend_vstale (g : Group) (rs : List LongResult) :
    (addPend g rs).vstale = g.vstale := rfl
@[simp] theorem addPend_published (g : Group) (rs : List LongResult) :
    (addPend g rs).published = g.published := rfl
@[simp] theorem addPend_slices (g : Group) (rs : List LongResult) :
    (addPend g rs).slices = g.slices := rfl
@[simp] theorem addPend_splits (g : Group) (rs : List LongResult) :
    (addPend g rs).splits = g.splits := rfl
@[simp] theorem addPend_forks (g : Group) (rs : List LongResult) :
    (addPend g rs).forks = g.forks := rfl
@[simp] theorem addPend_nextFork (g : Group) (rs : List LongResult) :
    (addPend g rs).nextFork = g.nextFork := rfl
@[simp] theorem addPend_nextSplit (g : Group) (rs : List LongResult) :
    (addPend g rs).nextSplit = g.nextSplit := rfl
@[simp] theorem addPend_touched (g : Group) (rs : List LongResult) :
    (addPend g rs).touched = g.touched := rfl
@[simp] theorem addPend_touchedA (g : Group) (rs : List LongResult) :
    (addPend g rs).touchedA = g.touchedA := rfl
@[simp] theorem addPend_foreignA (g : Group) (rs : List LongResult) :
    (addPend g rs).foreignA = g.foreignA := rfl
@[simp] theorem addPend_posted (g : Group) (rs : List LongResult) :
    (addPend g rs).posted = g.posted := rfl
@[simp] theorem shares_nil (r : LongResult) :
    shares [] r = r := by
  simp [shares]
@[simp] theorem addPend_nil (g : Group) :
    addPend g [] = g := by
  simp [addPend, show shares [] = id from funext shares_nil]

end Sys2Proof.Machine
end

