-- ==== Sys2Proof/Laws/Ops.lean ====
section
/-! SUPPORT. Laws/Ops.lean: what the shared operations do, each said once: finding and replacing the issuing group and split,
registers after a write, and issuing. -/

namespace Sys2Proof.Machine

/-! ## The issuing group and split -/

theorem find_map_put {α : Type} (key : α → Nat) (l : List α) (k : Nat) (x y : α) (hx : key x = k) :
    l.find? (fun h => key h == k) = some y →
      (l.map fun h => if key h == key x then x else h).find? (fun h => key h == k) = some x := by
  induction l with
  | nil => intro h; simp at h
  | cons a r ih =>
    intro h
    by_cases ha : key a = k
    · simp [ha, hx]
    · have h1 : (key a == key x) = false := by simp [hx, ha]
      have h2 : (key a == k) = false := by simp [ha]
      simp only [List.find?_cons, h2] at h
      rw [List.map_cons, h1]
      simp only [Bool.false_eq_true, if_false, List.find?_cons, h2]
      exact ih h

/-- What the issuing split is. -/
theorem curSplit_some {s : State} {g : Group} {p : Split} (h : curSplit s = some (g, p)) :
    findGroup s s.cur.1 = some g ∧ findSplit g s.cur.2 = some p ∧ g.id = s.cur.1 ∧ p.id = s.cur.2 ∧ p ∈ g.splits := by
  unfold curSplit at h
  split at h
  · rename_i g' hg
    cases hp : findSplit g' s.cur.2 with
    | none => simp [hp] at h
    | some q =>
      simp [hp] at h
      obtain ⟨rfl, rfl⟩ := h
      have h1 := List.find?_some hg
      have h2 := List.find?_some hp
      have h3 := List.mem_of_find?_eq_some hp
      simp at h1 h2
      exact ⟨hg, hp, h1, h2, h3⟩
  · simp at h

theorem findGroup_putGroup {s : State} {g h : Group} {k : Nat} (hf : findGroup s k = some g) (hk : h.id = k) :
    findGroup (putGroup s h) k = some h :=
  find_map_put (fun g : Group => g.id) s.sched.groups k h g hk hf

theorem findSplit_putSplit {g : Group} {p q : Split} {k : Nat} (hf : findSplit g k = some p) (hk : q.id = k) :
    findSplit (putSplit g q) k = some q :=
  find_map_put (fun p : Split => p.id) g.splits k q p hk hf

/-- The issuing split after its group has been replaced. -/
theorem curSplit_putGroup {s : State} {g h : Group} {p q : Split} (hc : curSplit s = some (g, p)) (hk : h.id = g.id)
    (hq : findSplit h p.id = some q) : curSplit (putGroup s h) = some (h, q) := by
  obtain ⟨h1, -, h3, h4, -⟩ := curSplit_some hc
  have : findGroup (putGroup s h) s.cur.1 = some h := findGroup_putGroup h1 (hk.trans h3)
  unfold curSplit
  rw [putGroup_cur, this]
  simp [← h4, hq]

/-- The issuing split after the instruction has passed on. -/
theorem curSplit_finish {s : State} {g h : Group} {p q : Split} (y : Bool) (hc : curSplit s = some (g, p))
    (hk : h.id = g.id) (hs : h.splits = g.splits) (hq : q.id = p.id) :
    curSplit (finish s h q y) = some (putSplit h (advance q y), advance q y) := by
  obtain ⟨-, h2, -, h4, -⟩ := curSplit_some hc
  refine curSplit_putGroup hc (by simp [hk]) ?_
  rw [← hq]
  refine findSplit_putSplit (p := p) (g := h) ?_ rfl
  unfold findSplit at h2 ⊢
  rw [hs, hq, h4]; exact h2

/-- Replacing a group leaves every other group. -/
theorem findGroup_putGroup_ne {s : State} {h : Group} {k : Nat} (hk : h.id ≠ k) :
    findGroup (putGroup s h) k = findGroup s k := by
  unfold findGroup
  show List.find? _ (s.sched.groups.map fun x => if x.id == h.id then h else x) = _
  induction s.sched.groups with
  | nil => rfl
  | cons a r ih =>
    simp only [List.map_cons, List.find?_cons]
    by_cases ha : a.id = h.id
    · have h1 : (a.id == k) = false := by simp [ha, hk]
      have h2 : (h.id == k) = false := by simp [hk]
      simp only [ha, beq_self_eq_true, if_true, h2]
      rw [ha] at h1
      simpa using ih
    · have h1 : (a.id == h.id) = false := by simp [ha]
      simp only [h1, Bool.false_eq_true, if_false]
      cases h2 : (a.id == k)
      · exact ih
      · rfl

/-! ## Registers -/

theorem getV_setV (g : Group) (l e : Nat) (x : Word) {l' e' : Nat} (he : e < 256) (he' : e' < 256) :
    getV (setV g l e x) l' e' = if l' = l ∧ e' = e then x else getV g l' e' := by
  unfold getV setV
  rw [mget_mset]
  have : (l' * 256 + e' = l * 256 + e) ↔ (l' = l ∧ e' = e) := by omega
  simp [this]

/-- Writing a register of lanes. -/
theorem getV_setLanes (g : Group) (ls : List Nat) (e : Nat) (f : Nat → Word) {l' e' : Nat} (he : e < 256) (he' : e' < 256) :
    getV (setLanes g ls e f) l' e' = if l' ∈ ls ∧ e' = e then f l' else getV g l' e' := by
  unfold setLanes
  induction ls generalizing g with
  | nil => simp
  | cons a r ih =>
    simp only [List.foldl_cons, ih, getV_setV g a e (f a) he he', List.mem_cons]
    by_cases h1 : l' ∈ r ∧ e' = e
    · simp [h1]
    · by_cases h2 : l' = a ∧ e' = e
      · simp [h2]
      · simp only [h1, h2, if_false]
        split
        · rename_i h3; exfalso; tauto
        · rfl

theorem getS_setS (g : Group) (n : Nat) (x : Word) (k : Nat) : getS (setS g n x) k = if k = n then x else getS g k := by
  unfold getS setS
  rw [mget_mset]

/-- A pair after its write. -/
theorem getS64_setS64 (g : Group) (n : Nat) (x : DWord) : getS64 (setS64 g n x) n = x := by
  unfold getS64 setS64
  rw [getS_setS, getS_setS, if_pos rfl]
  unfold fld
  ext i hi
  simp only [BitVec.getElem_append, BitVec.getElem_extractLsb']
  split
  · rw [getS_setS, if_neg (by omega : ¬ n = n + 1), getS_setS, if_pos rfl]
    simp only [BitVec.getElem_extractLsb', Nat.zero_add]
    exact BitVec.getLsbD_eq_getElem (by omega)
  · rename_i h; rw [← BitVec.getLsbD_eq_getElem]; congr 1; omega

theorem getS_setS64 (g : Group) (n : Nat) (x : DWord) {k : Nat} (h1 : k ≠ n) (h2 : k ≠ n + 1) :
    getS (setS64 g n x) k = getS g k := by
  unfold setS64
  rw [getS_setS, getS_setS, if_neg h2, if_neg h1]

theorem getX_setX (g : Group) (l n : Nat) (x : Byte) {l' n' : Nat} (hn : n < 4) (hn' : n' < 4) :
    getX (setX g l n x) l' n' = if l' = l ∧ n' = n then x else getX g l' n' := by
  unfold getX setX
  rw [mget_mset]
  have : (l' * 4 + n' = l * 4 + n) ↔ (l' = l ∧ n' = n) := by omega
  simp [this]

/-- P0 reads as 1 (R52). -/
theorem getP_zero (g : Group) (l : Nat) : getP g l 0 = true := by simp [getP]
/-- Q0 reads as 1 (R52). -/
theorem getQ_zero (g : Group) : getQ g 0 = true := by simp [getQ]

theorem bit_write (old : BitVec 8) (n k : Nat) (b : Bool) (hn : n < 8) (hk : k < 8) :
    (if b then old ||| BitVec.twoPow 8 n else old &&& ~~~ BitVec.twoPow 8 n).getLsbD k =
      if k = n then b else old.getLsbD k := by
  cases b
  · by_cases h : k = n
    · subst h; simp [hk]
    · have : ¬ n = k := fun e => h e.symm
      simp [h, hk]
  · by_cases h : k = n
    · subst h; simp [hk]
    · have : ¬ n = k := fun e => h e.symm
      simp [BitVec.getLsbD_twoPow, h, this]

/-- Predicates after a write; a write to P0 is discarded (R52). -/
theorem getP_setP (g : Group) (l n : Nat) (b : Bool) {l' k : Nat} (hn : n < 8) (hk : k < 8) :
    getP (setP g l n b) l' k = if l' = l ∧ k = n ∧ n ≠ 0 then b else getP g l' k := by
  unfold setP
  by_cases h0 : n = 0
  · simp [h0]
  · simp only [h0, if_false, getP]
    rw [mget_mset]
    by_cases hl : l' = l
    · subst hl
      simp only [if_true, true_and, bit_write _ n k b hn hk]
      by_cases hkn : k = n
      · subst hkn; simp [h0]
      · simp [hkn]
    · simp [hl]

/-- Writing a predicate of lanes. -/
theorem getP_setPreds (g : Group) (ls : List Nat) (n : Nat) (f : Nat → Bool) {l' k : Nat} (hn : n < 8) (hk : k < 8) :
    getP (setPreds g ls n f) l' k = if l' ∈ ls ∧ k = n ∧ n ≠ 0 then f l' else getP g l' k := by
  unfold setPreds
  induction ls generalizing g with
  | nil => simp
  | cons a r ih =>
    simp only [List.foldl_cons, ih, getP_setP g a n (f a) hn hk, List.mem_cons]
    by_cases h1 : l' ∈ r ∧ k = n ∧ n ≠ 0
    · simp [h1]
    · by_cases h2 : l' = a ∧ k = n ∧ n ≠ 0
      · obtain ⟨rfl, rfl, h0⟩ := h2; simp [h0]
      · simp only [h1, h2, if_false]
        split
        · rename_i h3; exfalso; tauto
        · rfl

/-- Group predicates after a write; a write to Q0 is discarded (R52). -/
theorem getQ_setQ (g : Group) (n : Nat) (b : Bool) {k : Nat} (hn : n < 8) (hk : k < 8) :
    getQ (setQ g n b) k = if k = n ∧ n ≠ 0 then b else getQ g k := by
  unfold setQ
  by_cases h0 : n = 0
  · simp [h0]
  · simp only [h0, if_false, getQ, bit_write _ n k b hn hk]
    by_cases hkn : k = n
    · subst hkn; simp [h0]
    · simp [hkn]

/-! ## What register writes leave -/

theorem foldl_keep {α β γ : Type} (π : α → γ) (f : α → β → α) (h : ∀ a b, π (f a b) = π a) (l : List β) (a : α) :
    π (l.foldl f a) = π a := by
  induction l generalizing a with
  | nil => rfl
  | cons b r ih => exact (ih _).trans (h a b)

/-- A group but for its vector registers and what is noted beside them. -/
def Group.butV (g : Group) : Group := { g with v := [], pend := [], touched := [] }
/-- A group but for its predicates. -/
def Group.butP (g : Group) : Group := { g with p := [] }

theorem butV_setV (g : Group) (l e : Nat) (x : Word) : (setV g l e x).butV = g.butV := rfl
theorem butV_setLanes (g : Group) (ls : List Nat) (e : Nat) (f : Nat → Word) : (setLanes g ls e f).butV = g.butV :=
  foldl_keep Group.butV (fun h l => setV h l e (f l)) (fun _ _ => rfl) ls g
theorem butP_setP (g : Group) (l n : Nat) (b : Bool) : (setP g l n b).butP = g.butP := by
  unfold setP Group.butP; split <;> rfl
theorem butP_setPreds (g : Group) (ls : List Nat) (n : Nat) (f : Nat → Bool) : (setPreds g ls n f).butP = g.butP :=
  foldl_keep Group.butP (fun h l => setP h l n (f l)) (fun h l => butP_setP h l n (f l)) ls g

theorem setLanes_splits (g : Group) (ls : List Nat) (e : Nat) (f : Nat → Word) : (setLanes g ls e f).splits = g.splits :=
  by
  have := congrArg Group.splits (butV_setLanes g ls e f)
  exact this
theorem setLanes_id (g : Group) (ls : List Nat) (e : Nat) (f : Nat → Word) : (setLanes g ls e f).id = g.id :=
  by
  have := congrArg Group.id (butV_setLanes g ls e f)
  exact this

/-! ## Flags of a launch -/

theorem noteFlags_none (s : State) (l : Nat) : noteFlags s l {} = s := by simp [noteFlags]
theorem noteFlags_groups (s : State) (l : Nat) (f : FpFlags) : (noteFlags s l f).sched.groups = s.sched.groups := by
  unfold noteFlags; split <;> rfl
theorem noteFlags_cur (s : State) (l : Nat) (f : FpFlags) : (noteFlags s l f).cur = s.cur := by
  unfold noteFlags; split <;> rfl
theorem noteFlags_ms (s : State) (l : Nat) (f : FpFlags) : (noteFlags s l f).ms = s.ms := by
  unfold noteFlags; split <;> rfl
theorem curSplit_noteFlags (s : State) (l : Nat) (f : FpFlags) : curSplit (noteFlags s l f) = curSplit s := by
  unfold curSplit findGroup
  rw [noteFlags_groups, noteFlags_cur]

/-! ## Issuing -/

/-- An instruction whose pair is whole has its effect. -/
theorem issueAt_next {i : Instr} {a : Accept} {s : State} {g : Group} {p : Split} (f : Group → Split → State)
    (hc : curSplit s = some (g, p)) (hb : badHint a p.hints = none) : issueAt i a s f = .next (f g p) := by
  simp [issueAt, hc, hb]

/-- A Q-class instruction whose guard holds has its effect. -/
theorem issueQ_next {i : Instr} {a : Accept} {y : Bool} {gd : Guard} {s : State} {g : Group} {p : Split}
    (f : Group → Split → State) (hc : curSplit s = some (g, p)) (hb : badHint a p.hints = none) (hg : guardQ g gd = true) :
    issueQ i a y gd s f = .next (f g p) := by
  simp [issueQ, issueAt, hc, hb, hg]

/-- A Q-class instruction whose guard is false only passes on (R299). -/
theorem issueQ_pass {i : Instr} {a : Accept} {y : Bool} {gd : Guard} {s : State} {g : Group} {p : Split}
    (f : Group → Split → State) (hc : curSplit s = some (g, p)) (hb : badHint a p.hints = none) (hg : guardQ g gd = false)
    (hr : p.redo = none) : issueQ i a y gd s f = .next (finish s g p y) := by
  simp [issueQ, issueAt, hc, hb, hg, hr]

/-- An instruction that issues always answers a next state. -/
theorem issueAt_goes (i : Instr) (a : Accept) (s : State) (f : Group → Split → State) {g : Group} {p : Split}
    (hc : curSplit s = some (g, p)) : ∃ t, issueAt i a s f = .next t := by
  unfold issueAt; simp only [hc]; split <;> exact ⟨_, rfl⟩

theorem vRange_nil (g : Group) (rs : List Nat) : vRange g [] rs = none := rfl

theorem lowestOver_none {limit : Nat} {rs : List Nat} (h : ∀ r ∈ rs, r < limit) : lowestOver limit rs = none := by
  unfold lowestOver
  have : rs.filter (fun r => decide (limit ≤ r)) = [] := by
    simp only [List.filter_eq_nil_iff, decide_eq_true_eq]
    intro r hr; have := h r hr; omega
  rw [this]

/-- Registers below the group's count raise no trap (R54). -/
theorem vRange_none {g : Group} {ls rs : List Nat} (h : ls = [] ∨ ∀ r ∈ rs, eff g r < g.vregs) : vRange g ls rs = none := by
  unfold vRange
  split
  · rfl
  · rcases h with h | h
    · simp_all
    · rw [lowestOver_none]; rfl
      intro r hr
      obtain ⟨x, hx, rfl⟩ := List.mem_map.1 hr
      exact h x hx

theorem sRange_none {g : Group} {ls : BitVec 128} {rs : List Nat} (h : ∀ r ∈ rs, r < g.sregs) : sRange g ls rs = none := by
  unfold sRange; rw [lowestOver_none h]; rfl

/-- Operand b in a lane, 0 where there is none. -/
def bArg (g : Group) (b : Option Src) (l : Nat) : Word := b.elim 0 (bVal g l)

/-- Everything a lane-wise instruction without HFWD does where no check fails. -/
theorem vecOp_next {i : Instr} {a : Accept} {y : Bool} {gd : Guard} {regs : List Nat} {b : Option Src}
    {f : Group → Split → List Nat → (Nat → Word) → Group × FpFlags} {s : State} {g : Group} {p : Split}
    (hc : curSplit s = some (g, p)) (hb : badHint a p.hints = none) (hf : p.hints.hfwd = none)
    (hr : opRange g (active g p gd) regs b = none) :
    vecOp i a y gd regs b f s = .next (finish (noteFlags s g.launch (f g p (active g p gd) (bArg g b)).2)
      (f g p (active g p gd) (bArg g b)).1 p y) := by
  unfold vecOp
  rw [issueAt_next _ hc hb]
  simp only [hf, Option.isSome_none, Bool.false_eq_true, if_false, hr]
  cases b <;> rfl

/-- Everything a checked lane-wise instruction does where no check fails. -/
theorem vecChecked_next {i : Instr} {a : Accept} {y : Bool} {gd : Guard} {regs : Group → Split → List Nat}
    {own : Group → Split → List Nat → Option Trap} {f : Group → Split → List Nat → Group × FpFlags} {s : State}
    {g : Group} {p : Split} (hc : curSplit s = some (g, p)) (hb : badHint a p.hints = none)
    (hr : vRange g (active g p gd) (regs g p) = none) (ho : active g p gd = [] ∨ own g p (active g p gd) = none) :
    vecChecked i a y gd regs own f s = .next (finish (noteFlags s g.launch (f g p (active g p gd)).2)
      (f g p (active g p gd)).1 p y) := by
  have h : (if (active g p gd).isEmpty then none else own g p (active g p gd)) = none := by
    rcases ho with h | h <;> simp [h]
  unfold vecChecked
  rw [issueAt_next _ hc hb]
  simp only [hr, h, Option.or_none]

end Sys2Proof.Machine
end

