-- ==== Sys2Proof/Laws/PerInstr.lean ====
section
/-! SUPPORT. Laws/PerInstr.lean: what is shown of each instruction as syntax: one that has no word passes every check of a
word, and carries no guard. -/

namespace Sys2Proof.Laws.Words

/-- An instruction without a word is well-formed and carries no guard. -/
def Statement (i : Instr) : Prop := encode i = none → i.wf = true ∧ i.guard? = none

/-- An instruction with a word. -/
theorem of_word {i : Instr} {w : Word} (h : encode i = some w) : Statement i := fun h' => by rw [h] at h'; cases h'

theorem iadd (u0 : Bool) (u1 : Guard) (u2 : BitVec 6) (u3 : BitVec 6) (u4 : Src) : Statement (.iadd u0 u1 u2 u3 u4) := of_word rfl
theorem isub (u0 : Bool) (u1 : Guard) (u2 : BitVec 6) (u3 : BitVec 6) (u4 : Src) : Statement (.isub u0 u1 u2 u3 u4) := of_word rfl
theorem imin (u0 : Bool) (u1 : Guard) (u2 : BitVec 6) (u3 : BitVec 6) (u4 : Src) : Statement (.imin u0 u1 u2 u3 u4) := of_word rfl
theorem imax (u0 : Bool) (u1 : Guard) (u2 : BitVec 6) (u3 : BitVec 6) (u4 : Src) : Statement (.imax u0 u1 u2 u3 u4) := of_word rfl
theorem imul (u0 : Bool) (u1 : Guard) (u2 : BitVec 6) (u3 : BitVec 6) (u4 : Src) : Statement (.imul u0 u1 u2 u3 u4) := of_word rfl
theorem imulh (u0 : Bool) (u1 : Guard) (u2 : BitVec 6) (u3 : BitVec 6) (u4 : Src) : Statement (.imulh u0 u1 u2 u3 u4) := of_word rfl
theorem imad (u0 : Bool) (u1 : Guard) (u2 : BitVec 6) (u3 : BitVec 6) (u4 : Src) : Statement (.imad u0 u1 u2 u3 u4) := of_word rfl
theorem idot4 (u0 : Bool) (u1 : Guard) (u2 : BitVec 6) (u3 : BitVec 6) (u4 : Src) : Statement (.idot4 u0 u1 u2 u3 u4) := of_word rfl
theorem and (u0 : Bool) (u1 : Guard) (u2 : BitVec 6) (u3 : BitVec 6) (u4 : Src) : Statement (.and u0 u1 u2 u3 u4) := of_word rfl
theorem or (u0 : Bool) (u1 : Guard) (u2 : BitVec 6) (u3 : BitVec 6) (u4 : Src) : Statement (.or u0 u1 u2 u3 u4) := of_word rfl
theorem xor (u0 : Bool) (u1 : Guard) (u2 : BitVec 6) (u3 : BitVec 6) (u4 : Src) : Statement (.xor u0 u1 u2 u3 u4) := of_word rfl
theorem andn (u0 : Bool) (u1 : Guard) (u2 : BitVec 6) (u3 : BitVec 6) (u4 : Src) : Statement (.andn u0 u1 u2 u3 u4) := of_word rfl
theorem shl (u0 : Bool) (u1 : Guard) (u2 : BitVec 6) (u3 : BitVec 6) (u4 : Src) : Statement (.shl u0 u1 u2 u3 u4) := of_word rfl
theorem shr (u0 : Bool) (u1 : Guard) (u2 : BitVec 6) (u3 : BitVec 6) (u4 : Src) : Statement (.shr u0 u1 u2 u3 u4) := of_word rfl
theorem sar (u0 : Bool) (u1 : Guard) (u2 : BitVec 6) (u3 : BitVec 6) (u4 : Src) : Statement (.sar u0 u1 u2 u3 u4) := of_word rfl
theorem rotl (u0 : Bool) (u1 : Guard) (u2 : BitVec 6) (u3 : BitVec 6) (u4 : Src) : Statement (.rotl u0 u1 u2 u3 u4) := of_word rfl
theorem popc (u0 : Bool) (u1 : Guard) (u2 : BitVec 6) (u3 : BitVec 6) : Statement (.popc u0 u1 u2 u3) := of_word rfl
theorem clz (u0 : Bool) (u1 : Guard) (u2 : BitVec 6) (u3 : BitVec 6) : Statement (.clz u0 u1 u2 u3) := of_word rfl
theorem brev (u0 : Bool) (u1 : Guard) (u2 : BitVec 6) (u3 : BitVec 6) : Statement (.brev u0 u1 u2 u3) := of_word rfl
theorem iabs (u0 : Bool) (u1 : Guard) (u2 : BitVec 6) (u3 : BitVec 6) : Statement (.iabs u0 u1 u2 u3) := of_word rfl
theorem bfx (u0 : Bool) (u1 : Guard) (u2 : BitVec 6) (u3 : BitVec 6) (u4 : Src) : Statement (.bfx u0 u1 u2 u3 u4) := of_word rfl
theorem bfi (u0 : Bool) (u1 : Guard) (u2 : BitVec 6) (u3 : BitVec 6) (u4 : Src) : Statement (.bfi u0 u1 u2 u3 u4) := of_word rfl
theorem prmt (u0 : Bool) (u1 : Guard) (u2 : BitVec 6) (u3 : BitVec 6) (u4 : Src) : Statement (.prmt u0 u1 u2 u3 u4) := of_word rfl
theorem mov (u0 : Bool) (u1 : Guard) (u2 : BitVec 6) (u3 : BitVec 6) : Statement (.mov u0 u1 u2 u3) := of_word rfl
theorem isetp (u0 : Bool) (u1 : Guard) (u2 : BitVec 3) (u3 : ICond) (u4 : BitVec 6) (u5 : Src) (u6 : Comb) : Statement (.isetp u0 u1 u2 u3 u4 u5 u6) := of_word rfl
theorem sel (u0 : Bool) (u1 : Guard) (u2 : BitVec 6) (u3 : BitVec 6) (u4 : Src) (u5 : BitVec 2) : Statement (.sel u0 u1 u2 u3 u4 u5) := of_word rfl
theorem iaddi (u0 : Bool) (u1 : Guard) (u2 : BitVec 6) (u3 : BitVec 6) (u4 : BitVec 9) : Statement (.iaddi u0 u1 u2 u3 u4) := of_word rfl
theorem movi (u0 : Bool) (u1 : Guard) (u2 : BitVec 6) (u3 : BitVec 9) : Statement (.movi u0 u1 u2 u3) := of_word rfl
theorem fadd (u0 : Bool) (u1 : Guard) (u2 : BitVec 6) (u3 : BitVec 6) (u4 : Src) : Statement (.fadd u0 u1 u2 u3 u4) := of_word rfl
theorem fmul (u0 : Bool) (u1 : Guard) (u2 : BitVec 6) (u3 : BitVec 6) (u4 : Src) : Statement (.fmul u0 u1 u2 u3 u4) := of_word rfl
theorem fmin (u0 : Bool) (u1 : Guard) (u2 : BitVec 6) (u3 : BitVec 6) (u4 : Src) : Statement (.fmin u0 u1 u2 u3 u4) := of_word rfl
theorem fmax (u0 : Bool) (u1 : Guard) (u2 : BitVec 6) (u3 : BitVec 6) (u4 : Src) : Statement (.fmax u0 u1 u2 u3 u4) := of_word rfl
theorem ffma (u0 : Bool) (u1 : Guard) (u2 : BitVec 6) (u3 : BitVec 6) (u4 : Src) : Statement (.ffma u0 u1 u2 u3 u4) := of_word rfl
theorem ffnma (u0 : Bool) (u1 : Guard) (u2 : BitVec 6) (u3 : BitVec 6) (u4 : Src) : Statement (.ffnma u0 u1 u2 u3 u4) := of_word rfl
theorem ffms (u0 : Bool) (u1 : Guard) (u2 : BitVec 6) (u3 : BitVec 6) (u4 : Src) : Statement (.ffms u0 u1 u2 u3 u4) := of_word rfl
theorem fsetp (u0 : Bool) (u1 : Guard) (u2 : BitVec 3) (u3 : FCond) (u4 : BitVec 6) (u5 : Src) (u6 : Comb) : Statement (.fsetp u0 u1 u2 u3 u4 u5 u6) := of_word rfl
theorem sfu (u0 : Bool) (u1 : Guard) (u2 : BitVec 6) (u3 : BitVec 6) (u4 : SfuFn) : Statement (.sfu u0 u1 u2 u3 u4) := of_word rfl
theorem hfma2 (u0 : Bool) (u1 : Guard) (u2 : BitVec 6) (u3 : BitVec 6) (u4 : Src) : Statement (.hfma2 u0 u1 u2 u3 u4) := of_word rfl
theorem bfma2 (u0 : Bool) (u1 : Guard) (u2 : BitVec 6) (u3 : BitVec 6) (u4 : Src) : Statement (.bfma2 u0 u1 u2 u3 u4) := of_word rfl
theorem hadd2 (u0 : Bool) (u1 : Guard) (u2 : BitVec 6) (u3 : BitVec 6) (u4 : Src) : Statement (.hadd2 u0 u1 u2 u3 u4) := of_word rfl
theorem hmul2 (u0 : Bool) (u1 : Guard) (u2 : BitVec 6) (u3 : BitVec 6) (u4 : Src) : Statement (.hmul2 u0 u1 u2 u3 u4) := of_word rfl
theorem cvt (u0 : Bool) (u1 : Guard) (u2 : BitVec 6) (u3 : BitVec 6) (u4 : CvtSrc) (u5 : CvtDst) (u6 : Rnd) : Statement (.cvt u0 u1 u2 u3 u4 u5 u6) := of_word rfl
theorem frnd (u0 : Bool) (u1 : Guard) (u2 : BitVec 6) (u3 : BitVec 6) (u4 : Rnd) : Statement (.frnd u0 u1 u2 u3 u4) := of_word rfl
theorem qnt (u0 : Bool) (u1 : Guard) (u2 : BitVec 6) (u3 : BitVec 6) (u4 : Src) : Statement (.qnt u0 u1 u2 u3 u4) := of_word rfl
theorem dqn (u0 : Bool) (u1 : Guard) (u2 : BitVec 6) (u3 : BitVec 6) (u4 : Src) : Statement (.dqn u0 u1 u2 u3 u4) := of_word rfl
theorem had (u0 : Bool) (u1 : Guard) (u2 : BitVec 6) (u3 : BitVec 6) : Statement (.had u0 u1 u2 u3) := of_word rfl
theorem shfl (u0 : Bool) (u1 : Guard) (u2 : BitVec 6) (u3 : BitVec 6) (u4 : Src) (u5 : ShflMode) : Statement (.shfl u0 u1 u2 u3 u4 u5) := of_word rfl
theorem vote (u0 : Bool) (u1 : Guard) (u2 : BitVec 6) (u3 : BitVec 6) (u4 : BitVec 7) (u5 : VoteMode) : Statement (.vote u0 u1 u2 u3 u4 u5) := of_word rfl
theorem redux (u0 : Bool) (u1 : Guard) (u2 : BitVec 6) (u3 : BitVec 6) (u4 : BitVec 7) (u5 : ReduxOp) : Statement (.redux u0 u1 u2 u3 u4 u5) := of_word rfl
theorem v2s (u0 : Bool) (u1 : Guard) (u2 : BitVec 6) (u3 : BitVec 6) (u4 : BitVec 7) : Statement (.v2s u0 u1 u2 u3 u4) := of_word rfl
theorem vmovx (u0 : Bool) (u1 : Guard) (u2 : BitVec 6) (u3 : XReg) (u4 : BitVec 9) : Statement (.vmovx u0 u1 u2 u3 u4) := of_word rfl
theorem vmovxToX (u0 : Bool) (u1 : Guard) (u2 : BitVec 6) (u3 : XReg) (u4 : BitVec 9) : Statement (.vmovxToX u0 u1 u2 u3 u4) := of_word rfl
theorem vmovxFromX (u0 : Bool) (u1 : Guard) (u2 : BitVec 6) (u3 : XReg) : Statement (.vmovxFromX u0 u1 u2 u3) := of_word rfl
theorem vstx (u0 : Bool) (u1 : Guard) (u2 : BitVec 6) (u3 : XReg) (u4 : BitVec 9) : Statement (.vstx u0 u1 u2 u3 u4) := of_word rfl
theorem vstxAdd (u0 : Bool) (u1 : Guard) (u2 : XReg) (u3 : BitVec 9) : Statement (.vstxAdd u0 u1 u2 u3) := of_word rfl
theorem sadd (u0 : Bool) (u1 : Guard) (u2 : BitVec 7) (u3 : BitVec 7) (u4 : BitVec 7) : Statement (.sadd u0 u1 u2 u3 u4) := of_word rfl
theorem ssub (u0 : Bool) (u1 : Guard) (u2 : BitVec 7) (u3 : BitVec 7) (u4 : BitVec 7) : Statement (.ssub u0 u1 u2 u3 u4) := of_word rfl
theorem smul (u0 : Bool) (u1 : Guard) (u2 : BitVec 7) (u3 : BitVec 7) (u4 : BitVec 7) : Statement (.smul u0 u1 u2 u3 u4) := of_word rfl
theorem sand (u0 : Bool) (u1 : Guard) (u2 : BitVec 7) (u3 : BitVec 7) (u4 : BitVec 7) : Statement (.sand u0 u1 u2 u3 u4) := of_word rfl
theorem sor (u0 : Bool) (u1 : Guard) (u2 : BitVec 7) (u3 : BitVec 7) (u4 : BitVec 7) : Statement (.sor u0 u1 u2 u3 u4) := of_word rfl
theorem sxor (u0 : Bool) (u1 : Guard) (u2 : BitVec 7) (u3 : BitVec 7) (u4 : BitVec 7) : Statement (.sxor u0 u1 u2 u3 u4) := of_word rfl
theorem sshl (u0 : Bool) (u1 : Guard) (u2 : BitVec 7) (u3 : BitVec 7) (u4 : BitVec 7) : Statement (.sshl u0 u1 u2 u3 u4) := of_word rfl
theorem sshr (u0 : Bool) (u1 : Guard) (u2 : BitVec 7) (u3 : BitVec 7) (u4 : BitVec 7) : Statement (.sshr u0 u1 u2 u3 u4) := of_word rfl
theorem ssetp (u0 : Bool) (u1 : Guard) (u2 : BitVec 3) (u3 : ICond) (u4 : BitVec 7) (u5 : BitVec 7) : Statement (.ssetp u0 u1 u2 u3 u4 u5) := of_word rfl
theorem smov (u0 : Bool) (u1 : Guard) (u2 : BitVec 9) (u3 : BitVec 9) : Statement (.smov u0 u1 u2 u3) := of_word rfl
theorem smovB64 (u0 : Bool) (u1 : Guard) (u2 : BitVec 9) (u3 : BitVec 9) : Statement (.smovB64 u0 u1 u2 u3) := of_word rfl
theorem saddi (u0 : Bool) (u1 : Guard) (u2 : BitVec 9) (u3 : BitVec 12) : Statement (.saddi u0 u1 u2 u3) := of_word rfl
theorem bra (u0 : Bool) (u1 : Guard) (u2 : BitVec 21) : Statement (.bra u0 u1 u2) := of_word rfl
theorem call (u0 : Bool) (u1 : Guard) (u2 : BitVec 21) : Statement (.call u0 u1 u2) := of_word rfl
theorem ld (u0 : Bool) (u1 : Guard) (u2 : BitVec 6) (u3 : BitVec 6) (u4 : BitVec 5) (u5 : MemSize) (u6 : Bool) : Statement (.ld u0 u1 u2 u3 u4 u5 u6) := of_word rfl
theorem st (u0 : Bool) (u1 : Guard) (u2 : BitVec 6) (u3 : BitVec 6) (u4 : BitVec 5) (u5 : MemSize) : Statement (.st u0 u1 u2 u3 u4 u5) := of_word rfl
theorem atom (u0 : Bool) (u1 : Guard) (u2 : BitVec 6) (u3 : BitVec 6) (u4 : AtomOp) (u5 : AtomOrd) (u6 : Scope) (u7 : Bool) : Statement (.atom u0 u1 u2 u3 u4 u5 u6 u7) := of_word rfl
theorem atomc (u0 : Bool) (u1 : Guard) (u2 : BitVec 6) (u3 : BitVec 6) (u4 : BitVec 6) (u5 : Scope) (u6 : Bool) : Statement (.atomc u0 u1 u2 u3 u4 u5 u6) := of_word rfl
theorem lda (u0 : Bool) (u1 : Guard) (u2 : BitVec 6) (u3 : BitVec 6) (u4 : BitVec 5) (u5 : MemSize) (u6 : Bool) : Statement (.lda u0 u1 u2 u3 u4 u5 u6) := of_word rfl
theorem sta (u0 : Bool) (u1 : Guard) (u2 : BitVec 6) (u3 : BitVec 6) (u4 : BitVec 5) (u5 : MemSize) : Statement (.sta u0 u1 u2 u3 u4 u5) := of_word rfl
theorem ldc (u0 : Bool) (u1 : Guard) (u2 : BitVec 6) (u3 : BitVec 6) (u4 : BitVec 5) (u5 : MemSize) (u6 : Bool) : Statement (.ldc u0 u1 u2 u3 u4 u5 u6) := of_word rfl
theorem stc (u0 : Bool) (u1 : Guard) (u2 : BitVec 6) (u3 : BitVec 6) (u4 : BitVec 5) (u5 : MemSize) : Statement (.stc u0 u1 u2 u3 u4 u5) := of_word rfl
theorem ldm (u0 : Bool) (u1 : Guard) (u2 : BitVec 6) (u3 : BitVec 6) (u4 : BitVec 5) (u5 : BitVec 4) : Statement (.ldm u0 u1 u2 u3 u4 u5) := of_word rfl
theorem stm (u0 : Bool) (u1 : Guard) (u2 : BitVec 6) (u3 : BitVec 6) (u4 : BitVec 5) (u5 : BitVec 4) : Statement (.stm u0 u1 u2 u3 u4 u5) := of_word rfl
theorem sld (u0 : Bool) (u1 : Guard) (u2 : BitVec 9) (u3 : BitVec 5) (u4 : BitVec 6) (u5 : Bool) : Statement (.sld u0 u1 u2 u3 u4 u5) := of_word rfl
theorem sst (u0 : Bool) (u1 : Guard) (u2 : BitVec 9) (u3 : BitVec 5) (u4 : BitVec 6) (u5 : Bool) : Statement (.sst u0 u1 u2 u3 u4 u5) := of_word rfl
theorem mma (u0 : Bool) (u1 : Guard) (u2 : BitVec 6) (u3 : BitVec 5) (u4 : BitVec 6) (u5 : Bool) (u6 : Bool) : Statement (.mma u0 u1 u2 u3 u4 u5 u6) := of_word rfl
theorem mmaAs (u0 : Bool) (u1 : Guard) (u2 : BitVec 6) (u3 : BitVec 5) (u4 : BitVec 6) (u5 : Bool) (u6 : Bool) : Statement (.mmaAs u0 u1 u2 u3 u4 u5 u6) := of_word rfl
theorem ldstn (u0 : Bool) (u1 : Guard) (u2 : BitVec 5) (u3 : BitVec 9) : Statement (.ldstn u0 u1 u2 u3) := of_word rfl
theorem wash (u0 : Bool) (u1 : Guard) (u2 : BitVec 6) (u3 : BitVec 6) (u4 : BitVec 9) : Statement (.wash u0 u1 u2 u3 u4) := of_word rfl
theorem raysend (u0 : Bool) (u1 : Guard) (u2 : BitVec 6) (u3 : BitVec 9) (u4 : Bool) (u5 : Bool) (u6 : Bool) : Statement (.raysend u0 u1 u2 u3 u4 u5 u6) := of_word rfl
theorem dray (u0 : Bool) (u1 : BitVec 9) (u2 : BitVec 5) (u3 : BitVec 2) (u4 : Bool) (u5 : Bool) : Statement (.dray u0 u1 u2 u3 u4 u5) := of_word rfl
theorem gath (u0 : Bool) (u1 : Guard) (u2 : BitVec 9) (u3 : Bool) (u4 : Bool) : Statement (.gath u0 u1 u2 u3 u4) := of_word rfl
theorem himm (u0 : BitVec 21) : Statement (.himm u0) := of_word rfl
theorem hx (u0 : BitVec 4) (u1 : BitVec 3) (u2 : Bool) (u3 : Bool) (u4 : BitVec 2) (u5 : BitVec 4) (u6 : Bool) : Statement (.hx u0 u1 u2 u3 u4 u5 u6) := of_word rfl
theorem hfwd (u0 : BitVec 4) (u1 : BitVec 2) : Statement (.hfwd u0 u1) := of_word rfl
theorem nop (u0 : Bool) (u1 : Guard) : Statement (.nop u0 u1) := of_word rfl
theorem exit (u0 : Bool) (u1 : Guard) : Statement (.exit u0 u1) := of_word rfl
theorem ret (u0 : Bool) (u1 : Guard) (u2 : BitVec 6) : Statement (.ret u0 u1 u2) := of_word rfl
theorem brx (u0 : Bool) (u1 : Guard) (u2 : BitVec 6) : Statement (.brx u0 u1 u2) := of_word rfl
theorem callx (u0 : Bool) (u1 : Guard) (u2 : BitVec 6) (u3 : BitVec 6) : Statement (.callx u0 u1 u2 u3) := of_word rfl
theorem setj (u0 : Bool) (u1 : BitVec 13) : Statement (.setj u0 u1) := of_word rfl
theorem regang (u0 : Bool) : Statement (.regang u0) := of_word rfl
theorem lpad (u0 : Bool) (u1 : BitVec 12) : Statement (.lpad u0 u1) := of_word rfl
theorem trap (u0 : Bool) (u1 : Guard) (u2 : BitVec 13) : Statement (.trap u0 u1 u2) := of_word rfl
theorem trapret (u0 : Bool) (u1 : RetMode) : Statement (.trapret u0 u1) := of_word rfl
theorem sleep (u0 : Bool) (u1 : Guard) (u2 : BitVec 6) (u3 : BitVec 6) : Statement (.sleep u0 u1 u2 u3) := of_word rfl
theorem fence (u0 : Bool) (u1 : BitVec 3) (u2 : Scope) (u3 : FenceOrd) : Statement (.fence u0 u1 u2 u3) := of_word rfl
theorem fencer (u0 : Bool) (u1 : BitVec 7) (u2 : Scope) (u3 : FenceOrd) : Statement (.fencer u0 u1 u2 u3) := of_word rfl
theorem vfence (u0 : Bool) (u1 : BitVec 6) (u2 : BitVec 3) : Statement (.vfence u0 u1 u2) := of_word rfl
theorem oprdy (u0 : Bool) : Statement (.oprdy u0) := of_word rfl
theorem mwait (u0 : Bool) (u1 : BitVec 6) : Statement (.mwait u0 u1) := of_word rfl
theorem binit (u0 : Bool) (u1 : Guard) (u2 : BitVec 6) (u3 : Bool) (u4 : BitVec 6) : Statement (.binit u0 u1 u2 u3 u4) := of_word rfl
theorem bexp (u0 : Bool) (u1 : Guard) (u2 : BitVec 6) (u3 : Bool) (u4 : BitVec 5) : Statement (.bexp u0 u1 u2 u3 u4) := of_word rfl
theorem barr (u0 : Bool) (u1 : Guard) (u2 : BitVec 6) (u3 : Bool) : Statement (.barr u0 u1 u2 u3) := of_word rfl
theorem bwait (u0 : Bool) (u1 : Guard) (u2 : BitVec 6) (u3 : Bool) (u4 : Bool) : Statement (.bwait u0 u1 u2 u3 u4) := of_word rfl
theorem bar (u0 : Bool) : Statement (.bar u0) := of_word rfl
theorem cad (u0 : Bool) (u1 : CadLevel) : Statement (.cad u0 u1) := of_word rfl
theorem waitph (u0 : Bool) (u1 : BitVec 10) (u2 : BitVec 3) : Statement (.waitph u0 u1 u2) := of_word rfl
theorem rdptr (u0 : Bool) (u1 : Guard) (u2 : BitVec 6) (u3 : BitVec 3) : Statement (.rdptr u0 u1 u2 u3) := of_word rfl
theorem tpf (u0 : Bool) (u1 : Guard) (u2 : BitVec 6) : Statement (.tpf u0 u1 u2) := of_word rfl
theorem tpfBind (u0 : Bool) (u1 : Guard) (u2 : BitVec 6) (u3 : BitVec 5) (u4 : Bool) : Statement (.tpfBind u0 u1 u2 u3 u4) := of_word rfl
theorem install (u0 : Bool) (u1 : Guard) (u2 : BitVec 6) : Statement (.install u0 u1 u2) := of_word rfl
theorem ckpt (u0 : Bool) (u1 : Guard) (u2 : BitVec 6) (u3 : Bool) : Statement (.ckpt u0 u1 u2 u3) := of_word rfl
theorem cpoll (u0 : Bool) (u1 : Guard) (u2 : BitVec 6) (u3 : BitVec 3) (u4 : BitVec 3) : Statement (.cpoll u0 u1 u2 u3 u4) := of_word rfl
theorem amsg (u0 : Bool) (u1 : Guard) (u2 : BitVec 5) (u3 : AmsgOp) (u4 : AmsgSize) : Statement (.amsg u0 u1 u2 u3 u4) := of_word rfl
theorem pub (u0 : Bool) (u1 : Guard) (u2 : BitVec 6) (u3 : BitVec 2) : Statement (.pub u0 u1 u2 u3) := of_word rfl
theorem item (u0 : Bool) (u1 : Guard) (u2 : BitVec 6) (u3 : Bool) : Statement (.item u0 u1 u2 u3) := of_word rfl
theorem cback (u0 : Bool) (u1 : Guard) (u2 : BitVec 3) (u3 : CbackCode) : Statement (.cback u0 u1 u2 u3) := of_word rfl
theorem aspub (u0 : Bool) (u1 : Guard) (u2 : BitVec 6) (u3 : BitVec 3) : Statement (.aspub u0 u1 u2 u3) := of_word rfl
theorem vqry (u0 : Bool) (u1 : Guard) (u2 : BitVec 6) (u3 : BitVec 3) (u4 : BitVec 3) : Statement (.vqry u0 u1 u2 u3 u4) := of_word rfl
theorem vqrySt (u0 : Bool) (u1 : Guard) (u2 : BitVec 3) (u3 : BitVec 3) : Statement (.vqrySt u0 u1 u2 u3) := of_word rfl
theorem setfmt (u0 : Bool) (u1 : Guard) (u2 : BitVec 7) : Statement (.setfmt u0 u1 u2) := of_word rfl
theorem setspare (u0 : Bool) (u1 : Guard) (u2 : BitVec 7) : Statement (.setspare u0 u1 u2) := of_word rfl
theorem setwb (u0 : Bool) (u1 : Guard) (u2 : BitVec 5) : Statement (.setwb u0 u1 u2) := of_word rfl
theorem setwbReg (u0 : Bool) (u1 : Guard) (u2 : BitVec 7) : Statement (.setwbReg u0 u1 u2) := of_word rfl
theorem plop (u0 : Bool) (u1 : Guard) (u2 : BitVec 3) (u3 : BitVec 3) (u4 : BitVec 3) (u5 : BitVec 4) : Statement (.plop u0 u1 u2 u3 u4 u5) := of_word rfl
theorem sysrd (u0 : Bool) (u1 : Guard) (u2 : BitVec 7) (u3 : BitVec 6) : Statement (.sysrd u0 u1 u2 u3) := of_word rfl
theorem syswr (u0 : Bool) (u1 : Guard) (u2 : BitVec 7) (u3 : BitVec 6) : Statement (.syswr u0 u1 u2 u3) := of_word rfl
theorem launch (u0 : Bool) (u1 : Guard) (u2 : BitVec 6) (u3 : BitVec 3) : Statement (.launch u0 u1 u2 u3) := of_word rfl
theorem clock (u0 : Bool) (u1 : Guard) (u2 : BitVec 6) (u3 : Bool) : Statement (.clock u0 u1 u2 u3) := of_word rfl
theorem ageLimitReached (u0 : Nat) : Statement (.ageLimitReached u0) := fun _ => ⟨rfl, rfl⟩
theorem longResultWritten (u0 : Nat) (u1 : Nat) (u2 : Nat) : Statement (.longResultWritten u0 u1 u2) := fun _ => ⟨rfl, rfl⟩
theorem deferredPublication (u0 : Nat) : Statement (.deferredPublication u0) := fun _ => ⟨rfl, rfl⟩
theorem lateTrap (u0 : Nat) (u1 : Nat) : Statement (.lateTrap u0 u1) := fun _ => ⟨rfl, rfl⟩
theorem faultResolveRetry (u0 : Nat) (u1 : DWord) : Statement (.faultResolveRetry u0 u1) := fun _ => ⟨rfl, rfl⟩
theorem faultResolveFail (u0 : Nat) (u1 : DWord) : Statement (.faultResolveFail u0 u1) := fun _ => ⟨rfl, rfl⟩
theorem pinPromotion (u0 : Nat) : Statement (.pinPromotion u0) := fun _ => ⟨rfl, rfl⟩
theorem readCountExpiry (u0 : Nat) (u1 : Nat) : Statement (.readCountExpiry u0 u1) := fun _ => ⟨rfl, rfl⟩
theorem hardwarePrefetch (u0 : Nat) (u1 : Nat) (u2 : Bool) : Statement (.hardwarePrefetch u0 u1 u2) := fun _ => ⟨rfl, rfl⟩
theorem amsgExecute (u0 : Nat) : Statement (.amsgExecute u0) := fun _ => ⟨rfl, rfl⟩
theorem vellumFolioFill (u0 : Nat) (u1 : Bool) : Statement (.vellumFolioFill u0 u1) := fun _ => ⟨rfl, rfl⟩
theorem barrierUpdate (u0 : Nat) : Statement (.barrierUpdate u0) := fun _ => ⟨rfl, rfl⟩
theorem drayChunkDelivery (u0 : Nat) (u1 : Nat) : Statement (.drayChunkDelivery u0 u1) := fun _ => ⟨rfl, rfl⟩
theorem peerChunkAck (u0 : Nat) : Statement (.peerChunkAck u0) := fun _ => ⟨rfl, rfl⟩
theorem stippleElementDelivery (u0 : Nat) (u1 : Nat) : Statement (.stippleElementDelivery u0 u1) := fun _ => ⟨rfl, rfl⟩
theorem decompressBlock (u0 : Nat) (u1 : Nat) : Statement (.decompressBlock u0 u1) := fun _ => ⟨rfl, rfl⟩
theorem ringRecordWrite (u0 : Nat) : Statement (.ringRecordWrite u0) := fun _ => ⟨rfl, rfl⟩
theorem sleepTimeout (u0 : Nat) (u1 : Nat) : Statement (.sleepTimeout u0 u1) := fun _ => ⟨rfl, rfl⟩
theorem fenceCompletion (u0 : Nat) : Statement (.fenceCompletion u0) := fun _ => ⟨rfl, rfl⟩
theorem linkRetrainLimitExpiry (u0 : Nat) : Statement (.linkRetrainLimitExpiry u0) := fun _ => ⟨rfl, rfl⟩
theorem yokeGrant (u0 : Nat) : Statement (.yokeGrant u0) := fun _ => ⟨rfl, rfl⟩
theorem yokePassComplete (u0 : Nat) (u1 : Nat) : Statement (.yokePassComplete u0 u1) := fun _ => ⟨rfl, rfl⟩
theorem stencilPlaneWritten (u0 : Nat) (u1 : Nat) : Statement (.stencilPlaneWritten u0 u1) := fun _ => ⟨rfl, rfl⟩
theorem rayMessageArrival (u0 : Nat) : Statement (.rayMessageArrival u0) := fun _ => ⟨rfl, rfl⟩
theorem courserRound (u0 : Nat) : Statement (.courserRound u0) := fun _ => ⟨rfl, rfl⟩
theorem callbackAnswerArrival (u0 : Nat) : Statement (.callbackAnswerArrival u0) := fun _ => ⟨rfl, rfl⟩
theorem inflightSubtraction (u0 : Nat) : Statement (.inflightSubtraction u0) := fun _ => ⟨rfl, rfl⟩
theorem washRequest (u0 : Nat) : Statement (.washRequest u0) := fun _ => ⟨rfl, rfl⟩
theorem engJobResume (u0 : Nat) (u1 : DWord) : Statement (.engJobResume u0 u1) := fun _ => ⟨rfl, rfl⟩
theorem engJobAbort (u0 : Nat) (u1 : DWord) : Statement (.engJobAbort u0 u1) := fun _ => ⟨rfl, rfl⟩
theorem settleIntervalExpiry (u0 : Nat) : Statement (.settleIntervalExpiry u0) := fun _ => ⟨rfl, rfl⟩
theorem viewBlockRecompute (u0 : Nat) : Statement (.viewBlockRecompute u0) := fun _ => ⟨rfl, rfl⟩
theorem installFolio (u0 : Nat) (u1 : Bool) (u2 : Bool) : Statement (.installFolio u0 u1 u2) := fun _ => ⟨rfl, rfl⟩
theorem checkpointBlock (u0 : Nat) : Statement (.checkpointBlock u0) := fun _ => ⟨rfl, rfl⟩
theorem checkpointEntryAck (u0 : Nat) : Statement (.checkpointEntryAck u0) := fun _ => ⟨rfl, rfl⟩
theorem regRegion (u0 : Nat) (u1 : DWord) : Statement (.regRegion u0 u1) := fun _ => ⟨rfl, rfl⟩
theorem queueHdr (u0 : Nat) (u1 : DWord) : Statement (.queueHdr u0 u1) := fun _ => ⟨rfl, rfl⟩
theorem doorbell (u0 : Nat) (u1 : DWord) : Statement (.doorbell u0 u1) := fun _ => ⟨rfl, rfl⟩
theorem dispatchRound : Statement (.dispatchRound) := fun _ => ⟨rfl, rfl⟩
theorem fitWaitExpiry (u0 : Nat) : Statement (.fitWaitExpiry u0) := fun _ => ⟨rfl, rfl⟩
theorem waitphRelease (u0 : Nat) (u1 : Nat) : Statement (.waitphRelease u0 u1) := fun _ => ⟨rfl, rfl⟩
theorem preempt (u0 : Nat) (u1 : DWord) : Statement (.preempt u0 u1) := fun _ => ⟨rfl, rfl⟩
theorem preemptionDeadline (u0 : Nat) : Statement (.preemptionDeadline u0) := fun _ => ⟨rfl, rfl⟩
theorem preemptSaveWrite (u0 : Nat) : Statement (.preemptSaveWrite u0) := fun _ => ⟨rfl, rfl⟩
theorem restore (u0 : Nat) (u1 : DWord) : Statement (.restore u0 u1) := fun _ => ⟨rfl, rfl⟩
theorem preemptStatusRead (u0 : Nat) : Statement (.preemptStatusRead u0) := fun _ => ⟨rfl, rfl⟩
theorem partition (u0 : Nat) (u1 : DWord) : Statement (.partition u0 u1) := fun _ => ⟨rfl, rfl⟩
theorem inval (u0 : Nat) (u1 : DWord) : Statement (.inval u0 u1) := fun _ => ⟨rfl, rfl⟩
theorem invalidationComplete (u0 : Nat) : Statement (.invalidationComplete u0) := fun _ => ⟨rfl, rfl⟩
theorem dramRetrain (u0 : Nat) : Statement (.dramRetrain u0) := fun _ => ⟨rfl, rfl⟩
theorem rowPrecharge (u0 : Nat) (u1 : Nat) (u2 : Nat) : Statement (.rowPrecharge u0 u1 u2) := fun _ => ⟨rfl, rfl⟩
theorem backoffComplete (u0 : Nat) (u1 : Nat) : Statement (.backoffComplete u0 u1) := fun _ => ⟨rfl, rfl⟩
theorem refreshDue (u0 : Nat) (u1 : Nat) : Statement (.refreshDue u0 u1) := fun _ => ⟨rfl, rfl⟩
theorem scrubPassStart (u0 : Nat) : Statement (.scrubPassStart u0) := fun _ => ⟨rfl, rfl⟩
theorem scrubRowRead (u0 : Nat) : Statement (.scrubRowRead u0) := fun _ => ⟨rfl, rfl⟩
theorem eccStatusRead (u0 : Nat) : Statement (.eccStatusRead u0) := fun _ => ⟨rfl, rfl⟩
theorem dramEventsRead (u0 : Nat) : Statement (.dramEventsRead u0) := fun _ => ⟨rfl, rfl⟩
theorem migrationStart (u0 : Nat) (u1 : DWord) : Statement (.migrationStart u0 u1) := fun _ => ⟨rfl, rfl⟩
theorem migrationPass (u0 : Nat) : Statement (.migrationPass u0) := fun _ => ⟨rfl, rfl⟩
theorem migrationEndForwarding (u0 : Nat) : Statement (.migrationEndForwarding u0) := fun _ => ⟨rfl, rfl⟩
theorem asidBind (u0 : Nat) (u1 : Bool) (u2 : DWord) : Statement (.asidBind u0 u1 u2) := fun _ => ⟨rfl, rfl⟩
theorem asidUnbind (u0 : Nat) (u1 : Bool) (u2 : DWord) : Statement (.asidUnbind u0 u1 u2) := fun _ => ⟨rfl, rfl⟩
theorem biasToHost (u0 : Nat) (u1 : DWord) : Statement (.biasToHost u0 u1) := fun _ => ⟨rfl, rfl⟩
theorem biasToDevice (u0 : Nat) (u1 : DWord) : Statement (.biasToDevice u0 u1) := fun _ => ⟨rfl, rfl⟩
theorem biasFlipComplete (u0 : Nat) : Statement (.biasFlipComplete u0) := fun _ => ⟨rfl, rfl⟩
theorem hostCxlMemAccess (u0 : Bool) (u1 : Nat) (u2 : List Byte) : Statement (.hostCxlMemAccess u0 u1 u2) := fun _ => ⟨rfl, rfl⟩
theorem hostSnoop (u0 : Nat) : Statement (.hostSnoop u0) := fun _ => ⟨rfl, rfl⟩
theorem peerRequest (u0 : Nat) (u1 : PeerKind) (u2 : Nat) (u3 : List Byte) : Statement (.peerRequest u0 u1 u2 u3) := fun _ => ⟨rfl, rfl⟩
theorem linkDown (u0 : Nat) : Statement (.linkDown u0) := fun _ => ⟨rfl, rfl⟩
theorem linkUp (u0 : Nat) : Statement (.linkUp u0) := fun _ => ⟨rfl, rfl⟩
theorem deviceStart (u0 : Nat) (u1 : Nat) (u2 : Nat) : Statement (.deviceStart u0 u1 u2) := fun _ => ⟨rfl, rfl⟩
theorem warmReset : Statement (.warmReset) := fun _ => ⟨rfl, rfl⟩
theorem fullRetry (u0 : Nat) (u1 : Nat) (u2 : Nat) : Statement (.fullRetry u0 u1 u2) := fun _ => ⟨rfl, rfl⟩
theorem spdmSessionOpen : Statement (.spdmSessionOpen) := fun _ => ⟨rfl, rfl⟩
theorem spdmAttestation : Statement (.spdmAttestation) := fun _ => ⟨rfl, rfl⟩
theorem colophonReadout (u0 : Nat) : Statement (.colophonReadout u0) := fun _ => ⟨rfl, rfl⟩
theorem powerTelemetry : Statement (.powerTelemetry) := fun _ => ⟨rfl, rfl⟩
theorem powerWindow (u0 : Nat) : Statement (.powerWindow u0) := fun _ => ⟨rfl, rfl⟩
theorem registerWrite (u0 : Nat) (u1 : Bool) (u2 : DWord) : Statement (.registerWrite u0 u1 u2) := fun _ => ⟨rfl, rfl⟩
theorem spdmSessionClose : Statement (.spdmSessionClose) := fun _ => ⟨rfl, rfl⟩
theorem regionTeardown (u0 : Nat) : Statement (.regionTeardown u0) := fun _ => ⟨rfl, rfl⟩
theorem eraseAndRetireUnit (u0 : Nat) (u1 : Nat) (u2 : Nat) : Statement (.eraseAndRetireUnit u0 u1 u2) := fun _ => ⟨rfl, rfl⟩
theorem sealedPhysicalRangesSet (u0 : List (Nat × Nat)) : Statement (.sealedPhysicalRangesSet u0) := fun _ => ⟨rfl, rfl⟩

end Sys2Proof.Laws.Words
end

