-- ==== Sys2Proof/Laws/Wrote.lean ====
section
/-! SUPPORT. Laws/Wrote.lean: what each write of a register is, in the terms of Safety.lean, and what the shared shapes of the
lane-wise instructions come to where no check fails. -/

namespace Sys2Proof.Machine

open Sys2Proof.Safety

theorem pendBut_clobber (k : Nat) (rs : List LongResult) : pendBut (clobber k rs) = pendBut rs := by
  unfold pendBut clobber
  rw [List.map_map]
  apply List.map_congr_left
  intro r _
  simp only [Function.comp]
  split <;> rfl

/-- A write of one vector register. -/
theorem wroteV_setV (g : Group) (l e : Nat) (x : Word) : WroteV g (setV g l e x) [l] e fun _ => x where
  new := by intro k hk; simp only [List.mem_singleton] at hk; subst hk; simp [getV, setV, mget_mset_self]
  old := by intro k hk; simp only [setV]; exact mget_mset_ne _ _ _ (hk l (by simp))
  rest := rfl
  pending := pendBut_clobber _ _

theorem setLanes_rest (g : Group) (ls : List Nat) (e : Nat) (f : Nat → Word) :
    setLanes g ls e f = { g with v := (setLanes g ls e f).v, pend := (setLanes g ls e f).pend,
                                 touched := (setLanes g ls e f).touched } := by
  unfold setLanes
  induction ls generalizing g with
  | nil => rfl
  | cons a r ih => exact ih (setV g a e (f a))

theorem setLanes_pend (g : Group) (ls : List Nat) (e : Nat) (f : Nat → Word) :
    pendBut (setLanes g ls e f).pend = pendBut g.pend := by
  unfold setLanes
  induction ls generalizing g with
  | nil => rfl
  | cons a r ih => exact (ih (setV g a e (f a))).trans (pendBut_clobber _ _)

theorem mget_setLanes (g : Group) (ls : List Nat) (e : Nat) (f : Nat → Word) (k : Nat) (x : Word)
    (h : ∀ l ∈ ls, k = l * 256 + e → x = f l) (h0 : (∀ l ∈ ls, k ≠ l * 256 + e) → x = mget 0 k g.v) :
    mget 0 k (setLanes g ls e f).v = x := by
  unfold setLanes
  induction ls generalizing g with
  | nil => simpa using (h0 (by simp)).symm
  | cons a r ih =>
    refine ih (setV g a e (f a)) (fun l hl => h l (by simp [hl])) fun hr => ?_
    simp only [setV]
    rw [mget_mset]
    split
    · exact h a (by simp) ‹_›
    · rename_i hne
      refine h0 fun l hl => ?_
      rcases List.mem_cons.1 hl with hl | hl
      · rw [hl]; exact hne
      · exact hr l hl

/-- A write of one register of several lanes. -/
theorem wroteV_setLanes (g : Group) (ls : List Nat) (e : Nat) (f : Nat → Word) : WroteV g (setLanes g ls e f) ls e f where
  new := by
    intro l hl
    refine mget_setLanes g ls e f _ _ (fun l' _ he => ?_) (fun hn => absurd rfl (hn l hl))
    have : l = l' := by omega
    rw [this]
  old := by
    intro k hk
    exact mget_setLanes g ls e f _ _ (fun l hl he => absurd he (hk l hl)) (fun _ => rfl)
  rest := setLanes_rest g ls e f
  pending := setLanes_pend g ls e f

/-- What is written may be told by an equal function. -/
theorem wroteV_congr {g h : Group} {ls : List Nat} {e : Nat} {f f' : Nat → Word} (w : WroteV g h ls e f)
    (hf : ∀ l ∈ ls, f l = f' l) : WroteV g h ls e f' :=
  ⟨fun l hl => (w.new l hl).trans (hf l hl), w.old, w.rest, w.pending⟩

/-- A write of a predicate of several lanes. -/
theorem wroteP_setPreds (g : Group) (ls : List Nat) (n : Nat) (f : Nat → Bool) (hn : n < 8) :
    WroteP g (setPreds g ls n f) ls n f where
  new := by
    intro l hl
    rw [getP_setPreds g ls n f hn hn]
    by_cases h0 : n = 0
    · subst h0; simp [getP]
    · simp [hl, h0]
  old := by
    intro l k hk h
    rw [getP_setPreds g ls n f hn hk, if_neg (by rintro ⟨h1, h2, -⟩; rcases h with h | h <;> contradiction)]
  rest := by
    have := butP_setPreds g ls n f
    unfold Group.butP at this
    have h2 : ∀ a b : Group, { a with p := [] } = { b with p := [] } → a = { b with p := a.p } := by
      intro a b h; cases a; cases b; simp_all
    exact h2 _ _ this

theorem wroteS_setS (g : Group) (n : Nat) (x : Word) : WroteS g (setS g n x) n x where
  new := by rw [getS_setS, if_pos rfl]
  old := by intro k hk; rw [getS_setS, if_neg hk]
  rest := rfl
  pending := pendBut_clobber _ _

theorem wroteS64_setS64 (g : Group) (n : Nat) (x : DWord) : WroteS64 g (setS64 g n x) n x where
  new := getS64_setS64 g n x
  old := fun _ h1 h2 => getS_setS64 g n x h1 h2
  rest := rfl
  pending := (pendBut_clobber _ _).trans (pendBut_clobber _ _)

theorem wroteQ_setQ (g : Group) (n : Nat) (b : Bool) (hn : n < 8) : WroteQ g (setQ g n b) n b where
  new := by
    rw [getQ_setQ g n b hn hn]
    by_cases h0 : n = 0
    · subst h0; simp [getQ]
    · simp [h0]
  old := by intro k hk h; rw [getQ_setQ g n b hn hk, if_neg (by tauto)]
  rest := by unfold setQ; split <;> rfl
  pending := by unfold setQ; split; rfl; exact pendBut_clobber _ _

theorem setXs_rest (g : Group) (ls : List Nat) (n : Nat) (f : Nat → Byte) :
    ls.foldl (fun h l => setX h l n (f l)) g = { g with x := (ls.foldl (fun h l => setX h l n (f l)) g).x } := by
  induction ls generalizing g with
  | nil => rfl
  | cons a r ih => exact ih (setX g a n (f a))

/-- A write of an index register of several lanes. -/
theorem wroteX_setXs (g : Group) (ls : List Nat) (n : Nat) (f : Nat → Byte) (hn : n < 4) :
    WroteX g (setXs g ls n f) ls n f := by
  have key : ∀ (ls : List Nat) (g : Group) (l k : Nat), k < 4 →
      getX (setXs g ls n f) l k = if l ∈ ls ∧ k = n then f l else getX g l k := by
    intro ls
    induction ls with
    | nil => intro g l k _; simp [setXs]
    | cons a r ih =>
      intro g l k hk
      have h1 : setXs g (a :: r) n f = setXs (setX g a n (f a)) r n f := rfl
      rw [h1, ih _ l k hk, getX_setX g a n (f a) hn hk]
      by_cases h1 : l ∈ r ∧ k = n
      · simp [h1]
      · by_cases h2 : l = a ∧ k = n
        · obtain ⟨rfl, rfl⟩ := h2; simp
        · rw [if_neg h1, if_neg h2, if_neg]
          rintro ⟨h3, h4⟩
          rcases List.mem_cons.1 h3 with h3 | h3
          · exact h2 ⟨h3, h4⟩
          · exact h1 ⟨h3, h4⟩
  exact ⟨fun l hl => by rw [key ls g l n hn]; simp [hl],
    fun l k hk h => by rw [key ls g l k hk, if_neg]; rintro ⟨h1, h2⟩; rcases h with h | h <;> contradiction,
    setXs_rest g ls n f⟩

/-! ## Checks that pass -/

theorem vRange_of_VOk {g : Group} {ls rs : List Nat} (h : VOk g ls rs) : vRange g ls rs = none := vRange_none h

theorem bRange_of_BOk {g : Group} {ls : List Nat} {b : Src} (h : BOk g ls b) : bRange g ls b = none := by
  cases b with
  | v n =>
    refine vRange_none (h.imp_right fun h r hr => ?_)
    simp only [List.mem_singleton] at hr; subst hr; exact h
  | s n =>
    show (if ls.isEmpty then none else sRange g (laneBits ls) [n.toNat]) = none
    rcases h with h | h
    · simp [h]
    · split
      · rfl
      · refine sRange_none fun r hr => ?_
        simp only [List.mem_singleton] at hr; subst hr; exact h

/-- The operands of a lane-wise instruction pass where each lies in the allocation. -/
theorem opRange_of_ok {g : Group} {ls rs : List Nat} {b : Option Src} (h : VOk g ls rs) (hb : ∀ x ∈ b, BOk g ls x) :
    opRange g ls rs b = none := by
  have hv : vRange g ls (rs ++ srcRegs b) = none := by
    rcases h with h | h
    · exact vRange_none (.inl h)
    · cases b with
      | none => exact vRange_none (.inr (by simpa [srcRegs] using h))
      | some x =>
        cases x with
        | s n => exact vRange_none (.inr (by simpa [srcRegs] using h))
        | v n =>
          refine vRange_none ((hb _ rfl).imp_right fun hn r hr => ?_)
          rcases List.mem_append.1 hr with hr | hr
          · exact h r hr
          · simp only [srcRegs, List.mem_singleton] at hr; subst hr; exact hn
  unfold opRange
  rw [hv]
  cases b with
  | none => rfl
  | some x => exact bRange_of_BOk (hb x rfl)

theorem sCheck_of_SOk {g : Group} {p : Split} {rs : List Nat} (h : SOk g rs) : sCheck g p rs = none := sRange_none h

/-! ## Lane-wise instructions -/

/-- Everything a lane-wise instruction without HFWD does where its registers lie in the allocation. -/
theorem laneOp_result {i : Instr} {a : Accept} {y : Bool} {gd : Guard} {d ra : BitVec 6} {b : Option Src}
    {f : Split → Word → Word → Word → Word} {s : State} {g : Group} {p : Split} (hi : Issues s g p a)
    (hf : p.hints.hfwd = none) (hr : VOk g (active g p gd) [ra.toNat, d.toNat]) (hb : ∀ x ∈ b, BOk g (active g p gd) x) :
    ∃ h, laneOp i a y gd d ra b f s = .next (finish s h p y) ∧
      WroteV g h (active g p gd) (eff g d.toNat) fun l => f p (aVal g l ra) (bArg g b l) (aVal g l d) := by
  unfold laneOp
  rw [vecOp_next hi.issuing hi.pair hf (opRange_of_ok hr hb), noteFlags_none]
  exact ⟨_, rfl, wroteV_setLanes _ _ _ _⟩

end Sys2Proof.Machine
end

