-- ==== Sys2Proof/Laws/Turns.lean ====
section
/-! SUPPORT. Laws/Turns.lean: branches and forwarded operands whose lanes all go one way. -/

namespace Sys2Proof.Machine

/-- No slice lacks a source. -/
theorem lacksAll_none (g : Group) (ls : List Nat) (j : Nat) : lacksAll g ls [] j = false := by
  unfold lacksAll
  cases h : (sliceLanes j (sliceAt g j).mask).filter ls.contains <;> simp

/-- A slice that lacks no source goes on. -/
theorem forwardTurn_plain (g : Group) (ls : List Nat) (next start : DWord) :
    forwardTurn g ls [] next start = fun j => ⟨j, next, 0, start⟩ := by
  funext j
  have h0 : ∀ l : List Nat, l.filter ([] : List Nat).contains = [] := by intro l; simp
  have : sliceMask j [] = 0 := by simp [sliceMask]
  simp only [forwardTurn, lacksAll_none, Bool.false_eq_true, if_false, h0, this]

/-- A slice put back as it is. -/
theorem putSlice_same (g : Group) (j : Nat) : putSlice g j (sliceAt g j) = g := by
  unfold putSlice sliceAt
  have : ∀ (l : List Slice) (j : Nat), modifyNth (fun _ => l.getD j ⟨0, 0, [], 0⟩) j l = l := by
    intro l
    induction l with
    | nil => intro j; cases j <;> rfl
    | cons a r ih =>
      intro j
      cases j with
      | zero => rfl
      | succ j => simp only [modifyNth, List.getD_cons_succ]; rw [ih]
  rw [this]

/-- A turn that keeps no lane pending leaves its slice. -/
theorem turnSlice_plain (sl : Slice) (j : Nat) (pc q : DWord) (join : Option DWord) (fmt : Word) :
    turnSlice sl ⟨j, pc, 0, q⟩ join fmt = sl := by
  have h : sl.mask &&& ~~~(0 : BitVec 4) = sl.mask := by
    rw [show ~~~(0 : BitVec 4) = BitVec.allOnes 4 from rfl, BitVec.and_allOnes]
  simp only [turnSlice, turnEntry, if_true]
  rw [h]

/-- A split whose slices all go on at one place does not divide. -/
theorem makeTurns_plain (s : State) (g : Group) (p : Split) (pc q : DWord) (join : Option DWord) (hs : p.slices ≠ []) :
    makeTurns s g p (p.slices.map fun j => ⟨j, pc, 0, q⟩) join = (s, putSplit g { p with pc := pc }) := by
  have h1 : turnSpills g p (p.slices.map fun j => ⟨j, pc, 0, q⟩) join = [] := by
    simp [turnSpills, turnSpill, turnEntry]
  have h2 : ∀ (l : List Nat) (g : Group), (l.map fun j => (⟨j, pc, 0, q⟩ : Turn)).foldl
      (fun h t => putSlice h t.slice (turnSlice (sliceAt g t.slice) t join p.fmt)) g = g := by
    intro l g
    have : ∀ (l : List Nat), (l.map fun j => (⟨j, pc, 0, q⟩ : Turn)).foldl
      (fun h t => putSlice h t.slice (turnSlice (sliceAt g t.slice) t join p.fmt)) g = g := by
      intro l
      induction l with
      | nil => rfl
      | cons a r ih => simp only [List.map_cons, List.foldl_cons, turnSlice_plain, putSlice_same]; exact ih
    exact this l
  unfold makeTurns
  rw [h1, h2]
  have h3 : ((p.slices.map fun j => (⟨j, pc, 0, q⟩ : Turn)).map fun t => (⟨t.slice, t.pc, p.fmt⟩ : Cont)) =
      p.slices.map fun j => ⟨j, pc, p.fmt⟩ := by rw [List.map_map]; rfl
  simp only [h3]
  have h4 : ((p.slices.map fun j => (⟨j, pc, p.fmt⟩ : Cont)).map fun c => (c.pc, c.fmt)).dedup = [(pc, p.fmt)] := by
    rw [List.map_map]
    show (p.slices.map fun _ => (pc, p.fmt)).dedup = _
    rw [List.map_const', List.replicate_dedup]
    simpa using hs
  unfold divide
  rw [h4]
  simp [writeSpills, List.map_map, Function.comp_def]

/-- Turns that keep no lane pending are not blocked. -/
theorem turnBlock_plain (s : State) (g : Group) (p : Split) (pc q : DWord) (join : Option DWord) (l : List Nat) :
    turnBlock s g p (l.map fun j => ⟨j, pc, 0, q⟩) join = none := by
  have h1 : turnSpills g p (l.map fun j => ⟨j, pc, 0, q⟩) join = [] := by
    simp [turnSpills, turnSpill, turnEntry]
  have h2 : overflowTrap s g p (l.map fun j => ⟨j, pc, 0, q⟩) join = none := by
    unfold overflowTrap
    have : (l.map fun j => (⟨j, pc, 0, q⟩ : Turn)).filter (fun t => (turnEntry (sliceAt g t.slice) t join p.fmt).isSome &&
        decide ((if (launchOf s g.launch).desc.spill = 0 then 8 else 64) < turnDepth (sliceAt g t.slice) t join p.fmt)) = [] := by
      simp [turnEntry]
    simp only [this]
  unfold turnBlock
  rw [h1, h2]

/-- No slice waits for a source. -/
theorem waitForward_nil (g : Group) : waitForward g [] = g := by
  unfold waitForward
  have : (g.splits.map fun q => if (!q.slices.isEmpty && q.slices.all ([] : List Nat).contains) = true then
      { q with wait := .forwarded } else q) = g.splits := by
    conv_rhs => rw [← List.map_id g.splits]
    apply List.map_congr_left
    intro q _
    cases h : q.slices <;> simp
  rw [this]

/-- Everything an instruction under HFWD does where each active lane has its source. -/
theorem runForwarded_all {s : State} {g : Group} {p : Split} {y : Bool} {ls : List Nat} {k slot : Nat}
    {f : Group → List Nat → (Nat → Word) → Group × FpFlags} (v : Nat → Word)
    (hk : chainCheck s g ls k slot = none) (hs : p.slices ≠ [])
    (hv : ∀ l ∈ ls, (fwdValue s g k slot l).map (·.1) = some (v l))
    (hf : ∀ u w, (∀ l ∈ ls, u l = w l) → f (afterRead g ls) ls u = f (afterRead g ls) ls w) :
    runForwarded s g p y ls k slot f = finish (noteFlags (acquireFrom s g
        (ls.flatMap fun l => (fwdValue s g k slot l).elim [] (·.2))) g.launch (f (afterRead g ls) ls v).2) (f (afterRead g ls) ls v).1 p y := by
  have hgot : ∀ l ∈ ls, (fwdValue s g k slot l).isSome := fun l hl => by
    have := hv l hl
    cases h : fwdValue s g k slot l
    · rw [h] at this; simp at this
    · rfl
  have hmiss : ((ls.map fun l => (l, fwdValue s g k slot l)).filter fun x => x.2.isNone) = [] := by
    rw [List.filter_eq_nil_iff]
    intro x hx
    obtain ⟨l, hl, rfl⟩ := List.mem_map.1 hx
    rw [Option.isNone_iff_eq_none]
    exact Option.isSome_iff_ne_none.1 (hgot l hl)
  have hrun : (((ls.map fun l => (l, fwdValue s g k slot l)).filter fun x => x.2.isSome).map (·.1)) = ls := by
    rw [List.filter_eq_self.2, List.map_map]
    · exact List.map_id ls
    · intro x hx
      obtain ⟨l, hl, rfl⟩ := List.mem_map.1 hx
      exact hgot l hl
  have hval : ∀ l ∈ ls, ((((ls.map fun l => (l, fwdValue s g k slot l)).find? fun x => x.1 == l).bind
      fun x => x.2.map fun v => v.1).getD 0) = v l := by
    intro l hl
    have : ((ls.map fun l => (l, fwdValue s g k slot l)).find? fun x => x.1 == l) = some (l, fwdValue s g k slot l) := by
      clear hmiss hrun hv hf hk hgot
      induction ls with
      | nil => simp at hl
      | cons a r ih =>
        by_cases h : a = l
        · simp [h]
        · have : (a == l) = false := by simp [h]
          rw [List.map_cons, List.find?_cons]
          simp only [this]
          exact ih (by simpa [Ne.symm h] using hl)
    rw [this]
    have := hv l hl
    cases h : fwdValue s g k slot l <;> simp_all
  unfold runForwarded
  simp only [hk, hmiss, List.map_nil, forwardTurn_plain, turnBlock_plain, hrun]
  have hfv := hf _ v hval
  rw [hfv]
  have hback : p.slices.filter (lacksAll g ls []) = [] := by
    rw [List.filter_eq_nil_iff]; intro j _; simp [lacksAll_none]
  have hm := makeTurns_plain (noteFlags (acquireFrom s g
    ((ls.map fun l => (l, fwdValue s g k slot l)).flatMap fun x => x.2.elim [] fun v => v.2)) g.launch (f (afterRead g ls) ls v).2) (f (afterRead g ls) ls v).1
    (advance p y) (nextPc p) (startPc p) p.join (by simpa [advance] using hs)
  have ha : (advance p y).slices = p.slices := rfl
  rw [ha] at hm
  rw [hm, hback, waitForward_nil, List.flatMap_map]
  rfl

end Sys2Proof.Machine
end

