-- ==== Sys2Proof/Tests/Slice0.lean ====
section
/-! SUPPORT. Tests/Slice0.lean: the well-formedness checks, words of the spec and their instructions, single steps, and a state that
meets the hypotheses of each statement of Certificates/Slice0/Obligations.lean. -/

namespace Sys2Proof.Tests

open Sys2Proof.Machine Sys2Proof.Safety

/-- The guard that is always true. -/
def always : Guard := ⟨false, 0⟩

/-! ## Well-formedness: a term that fails each check of an instruction's own word (R311) -/

theorem test_wf_guard : (Instr.iadd false ⟨true, 0⟩ 1 2 (.v 3)).wf = false ∧ (Instr.exit false ⟨true, 0⟩).wf = false ∧
    (Instr.iadd false ⟨true, 1⟩ 1 2 (.v 3)).wf = true := by decide
theorem test_wf_block_registers : (Instr.qnt false always 1 2 (.s 3)).wf = false ∧ (Instr.dqn false always 1 2 (.s 3)).wf = false ∧
    (Instr.qnt false always 1 2 (.v 3)).wf = true := by decide
theorem test_wf_smov_pair : (Instr.smovB64 false always 3 4).wf = false ∧ (Instr.smovB64 false always 4 3).wf = false ∧
    (Instr.smovB64 false always 4 2).wf = true := by decide
theorem test_wf_sign_extension : (Instr.ld false always 1 2 3 .b32 true).wf = false ∧
    (Instr.lda false always 1 2 3 .b64 true).wf = false ∧ (Instr.ldc false always 1 2 3 .b128 true).wf = false ∧
    (Instr.ld false always 1 2 3 .b16 true).wf = true := by decide
theorem test_wf_atom : (Instr.atom false always 2 5 .add .rlx .dev false).wf = false ∧
    (Instr.atom false always 3 4 .add .rlx .dev true).wf = false ∧ (Instr.atom false always 2 4 .st .acq .dev false).wf = false ∧
    (Instr.atom false always 2 4 .ld .rel .dev false).wf = false ∧ (Instr.atom false always 3 4 .add .rlx .dev false).wf = true := by decide
theorem test_wf_atomc : (Instr.atomc false always 2 5 6 .dev false).wf = false ∧ (Instr.atomc false always 3 4 6 .dev true).wf = false ∧
    (Instr.atomc false always 2 4 7 .dev true).wf = false ∧ (Instr.atomc false always 3 4 7 .dev false).wf = true := by decide
theorem test_wf_scalar_pair : (Instr.sld false always 3 2 0 true).wf = false ∧ (Instr.sst false always 3 2 0 true).wf = false ∧
    (Instr.sld false always 3 2 0 false).wf = true := by decide
theorem test_wf_unit_pairs : (Instr.mmaAs false always 5 2 0 false false).wf = false ∧ (Instr.ldstn false always 0 5).wf = false ∧
    (Instr.wash false always 0 0 5).wf = false ∧ (Instr.raysend false always 0 5 false false false).wf = false ∧
    (Instr.dray false 5 2 0 false false).wf = false ∧ (Instr.dray false 4 3 0 false false).wf = false ∧
    (Instr.gath false always 5 false false).wf = false ∧ (Instr.mma false always 5 2 0 false false).wf = true := by decide
theorem test_wf_hint : (Instr.hx 0 5 false false 0 0 false).wf = false ∧ (Instr.hx 0 4 false false 0 0 false).wf = true := by decide
theorem test_wf_fence : (Instr.fence false 1 .dev .ar).wf = false ∧ (Instr.fencer false 3 .dev .ar).wf = false ∧
    (Instr.fencer false 2 .sys .ar).wf = false ∧ (Instr.fence false 1 .sys .ar).wf = true := by decide
theorem test_wf_rdptr : (Instr.rdptr false always 2 6).wf = false ∧ (Instr.rdptr false always 2 5).wf = true := by decide
theorem test_wf_amsg : (Instr.amsg false always 2 .add .b8).wf = false ∧ (Instr.amsg false always 2 .fadd .b64).wf = false ∧
    (Instr.amsg false always 2 .st .b8).wf = true := by decide
theorem test_wf_system_registers : (Instr.sysrd false always 4 0x07).wf = false ∧ (Instr.sysrd false always 5 0x12).wf = false ∧
    (Instr.syswr false always 4 0x07).wf = false ∧ (Instr.syswr false always 4 0x12).wf = false ∧
    (Instr.syswr false always 5 0x10).wf = false ∧ (Instr.syswr false always 4 0x10).wf = true := by decide

/-! ## Decoding: for each instruction with a word, a word put together from the encoding that the spec gives it -/

/-- The words decode as the spec's encodings say (R297 to R311). -/
def decodes (ws : List (Nat × Instr)) : Bool := ws.all fun (w, i) => decide (decodeTableWord 32 w = some i)

theorem test_decode_vector_integer : decodes [
    (0x8810_5A1C, .iadd true ⟨false, 1⟩ 32 45 (.v 7)),
    (0x501D_BE35, .isub false ⟨true, 2⟩ 59 31 (.v 13)),
    (0xB80A_1D7E, .imin true ⟨false, 7⟩ 20 14 (.s 31)),
    (0x601E_3F87, .imax false ⟨true, 4⟩ 60 31 (.s 33)),
    (0xF826_BE0C, .imul true ⟨true, 7⟩ 13 31 (.v 3)),
    (0x182D_E91D, .imulh false ⟨false, 3⟩ 27 52 (.s 7)),
    (0x802B_E2A2, .imad true ⟨false, 0⟩ 23 49 (.v 40)),
    (0x0824_A3C7, .idot4 false ⟨false, 1⟩ 9 17 (.s 49)),
    (0xD048_2000, .and true ⟨true, 2⟩ 16 16 (.v 0)),
    (0x3840_34DD, .or false ⟨false, 7⟩ 0 26 (.v 55)),
    (0xE04A_AB2A, .xor true ⟨true, 4⟩ 21 21 (.s 10)),
    (0x7854_32D3, .andn false ⟨true, 7⟩ 40 25 (.v 52)),
    (0x986B_B388, .shl true ⟨false, 3⟩ 23 25 (.s 34)),
    (0x0073_0571, .shr false ⟨false, 0⟩ 38 2 (.s 28)),
    (0x887A_AA96, .sar true ⟨false, 1⟩ 53 21 (.v 37)),
    (0x5070_9153, .rotl false ⟨true, 2⟩ 33 8 (.s 20)),
    (0xB893_0000, .popc true ⟨false, 7⟩ 38 0),
    (0x6095_9001, .clz false ⟨true, 4⟩ 43 8),
    (0xF893_DA02, .brev true ⟨true, 7⟩ 39 45),
    (0x1893_FA03, .iabs false ⟨false, 3⟩ 39 61),
    (0x80B4_2FEC, .bfx true ⟨false, 0⟩ 40 23 (.s 59)),
    (0x08BE_2C39, .bfi false ⟨false, 1⟩ 60 22 (.v 14)),
    (0xD0B0_056E, .prmt true ⟨true, 2⟩ 32 2 (.s 27)),
    (0x38B9_8403, .mov false ⟨false, 7⟩ 51 2),
    (0xE0DB_DD81, .isetp true ⟨true, 4⟩ 6 .hs 46 (.s 32) .and),
    (0x78E0_F22D, .sel false ⟨true, 7⟩ 1 57 (.v 11) 1),
    (0x990C_9EFB, .iaddi true ⟨false, 3⟩ 25 15 251),
    (0x013D_8160, .movi false ⟨false, 0⟩ 59 352)] = true := by decide

theorem test_decode_vector_float : decodes [
    (0x8956_C1D8, .fadd true ⟨false, 1⟩ 45 32 (.s 54)),
    (0x5146_DF2D, .fmul false ⟨true, 2⟩ 13 47 (.s 11)),
    (0xB942_6E5E, .fmin true ⟨false, 7⟩ 4 55 (.v 23)),
    (0x614D_5773, .fmax false ⟨true, 4⟩ 26 43 (.s 28)),
    (0xF969_5718, .ffma true ⟨true, 7⟩ 18 43 (.s 6)),
    (0x1965_CF45, .ffnma false ⟨false, 3⟩ 11 39 (.s 17)),
    (0x8173_AC52, .ffms true ⟨false, 0⟩ 39 22 (.v 20)),
    (0x098B_4FEF, .fsetp false ⟨false, 1⟩ 2 .num 39 (.s 59) .xor),
    (0xD1AA_0C10, .sfu true ⟨true, 2⟩ 20 6 .lg2),
    (0x39C5_6620, .hfma2 false ⟨false, 7⟩ 10 51 (.v 8)),
    (0xE1CF_5901, .bfma2 true ⟨true, 4⟩ 30 44 (.s 0)),
    (0x79DD_6A96, .hadd2 false ⟨true, 7⟩ 58 53 (.v 37)),
    (0x99C3_89FB, .hmul2 true ⟨false, 3⟩ 7 4 (.s 62)),
    (0x01F5_353B, .cvt false ⟨false, 0⟩ 42 26 .s8 .s32 .ru),
    (0x8A08_2003, .frnd true ⟨false, 1⟩ 16 16 .ru),
    (0x5226_AA4C, .qnt false ⟨true, 2⟩ 13 21 (.v 19)),
    (0xBA3B_DE55, .dqn true ⟨false, 7⟩ 55 47 (.v 21)),
    (0x6229_8E02, .had false ⟨true, 4⟩ 19 7)] = true := by decide

theorem test_decode_cross_lane : decodes [
    (0xFA5A_CA93, .shfl true ⟨true, 7⟩ 53 37 (.v 36) .xor),
    (0x1A6A_F5F2, .vote false ⟨false, 3⟩ 21 58 124 .all),
    (0x829E_C72B, .redux true ⟨false, 0⟩ 61 35 74 .or),
    (0x0AB9_A470, .v2s false ⟨false, 1⟩ 51 18 28),
    (0xD2D8_04B7, .vmovx true ⟨true, 2⟩ 48 .x2 183),
    (0x3ADF_A75A, .vmovxToX false ⟨false, 7⟩ 63 .x3 346),
    (0xE2CB_C200, .vmovxFromX true ⟨true, 4⟩ 23 .x1),
    (0x7AE5_87F7, .vstx false ⟨true, 7⟩ 11 .x3 503),
    (0x9AE0_2516, .vstxAdd true ⟨false, 3⟩ .x2 278)] = true := by decide

theorem test_decode_scalar : decodes [
    (0x0317_085B, .sadd false ⟨false, 0⟩ 92 16 91),
    (0x8B22_275D, .ssub true ⟨false, 1⟩ 8 78 93),
    (0x5351_FE43, .smul false ⟨true, 2⟩ 71 124 67),
    (0xBB72_EBAD, .sand true ⟨false, 7⟩ 75 87 45),
    (0x6380_BCC0, .sor false ⟨true, 4⟩ 2 121 64),
    (0xFBB4_E376, .sxor true ⟨true, 7⟩ 83 70 118),
    (0x1BD2_6DD9, .sshl false ⟨false, 3⟩ 73 91 89),
    (0x83F1_AC68, .sshr true ⟨false, 0⟩ 70 88 104),
    (0x0C0A_B9DD, .ssetp false ⟨false, 1⟩ 5 .lt 115 93),
    (0xD435_6488, .smov true ⟨true, 2⟩ 342 145),
    (0x3C32_C091, .smovB64 false ⟨false, 7⟩ 300 18),
    (0xE44A_A65B, .saddi true ⟨true, 4⟩ 170 1627),
    (0x7C77_2B7B, .bra false ⟨true, 7⟩ 1518459),
    (0x9C9E_8B15, .call true ⟨false, 3⟩ 2001685)] = true := by decide

theorem test_decode_memory : decodes [
    (0x04A2_8E21, .ld false ⟨false, 0⟩ 5 7 2 .b8 true),
    (0x8CD2_15A4, .st true ⟨false, 1⟩ 36 10 26 .b32),
    (0x54E2_0CDD, .atom false ⟨true, 2⟩ 4 6 .exch .ar .dev true),
    (0xBD02_0C43, .atomc true ⟨false, 7⟩ 4 6 8 .team true),
    (0x6524_8453, .lda false ⟨true, 4⟩ 9 2 5 .b16 true),
    (0xFD5A_CD10, .sta true ⟨true, 7⟩ 53 38 17 .b8),
    (0x1D66_06A8, .ldc false ⟨false, 3⟩ 12 3 10 .b128 false),
    (0x858C_A9C4, .stc true ⟨false, 0⟩ 25 20 28 .b32),
    (0x0DAE_2E2F, .ldm false ⟨false, 1⟩ 28 23 2 15),
    (0xD5CE_2A34, .stm true ⟨true, 2⟩ 28 21 3 4),
    (0x3DE1_4106, .sld false ⟨false, 7⟩ 20 2 3 false),
    (0xE601_61C3, .sst true ⟨true, 4⟩ 22 3 33 true)] = true := by decide

theorem test_decode_units : decodes [
    (0x7E27_5174, .mma false ⟨true, 7⟩ 14 20 23 true false),
    (0x9E25_1EDC, .mmaAs true ⟨false, 3⟩ 10 7 45 true false),
    (0x0646_1600, .ldstn false ⟨false, 0⟩ 6 44),
    (0x8E62_9228, .wash true ⟨false, 1⟩ 5 9 40),
    (0x5681_9185, .raysend false ⟨true, 2⟩ 3 70 true false true),
    (0x86A2_0522, .dray true 32 10 1 true false),
    (0x66C2_4020, .gath false ⟨true, 4⟩ 36 true false),
    (0x0782_4836, .himm 149558),
    (0x07AB_2A60, .hx 5 4 true false 2 9 true),
    (0x07DB_8000, .hfwd 13 3)] = true := by decide

theorem test_decode_control : decodes [
    (0x0FE0_0000, .nop false ⟨false, 1⟩),
    (0xD7E0_2000, .exit true ⟨true, 2⟩),
    (0x3FE0_5600, .ret false ⟨false, 7⟩ 44),
    (0xE7E0_7800, .brx true ⟨true, 4⟩ 48),
    (0x7FE0_84B4, .callx false ⟨true, 7⟩ 9 26),
    (0x87E0_AF38, .setj true 3896),
    (0x07E0_C000, .regang false),
    (0x87E0_EBF7, .lpad true 3063),
    (0x57E1_000A, .trap false ⟨true, 2⟩ 10),
    (0x87E1_2001, .trapret true .after),
    (0x67E1_5633, .sleep false ⟨true, 4⟩ 44 51)] = true := by decide

theorem test_decode_order : decodes [
    (0x87E2_143C, .fence true 5 .sys .ar),
    (0x07E2_2494, .fencer false 18 .team .acq),
    (0x87E2_5186, .vfence true 35 6),
    (0x07E2_6000, .oprdy false),
    (0x87E2_800E, .mwait true 14),
    (0x3FE3_17A6, .binit false ⟨false, 7⟩ 47 false 38),
    (0xE7E3_266A, .bexp true ⟨true, 4⟩ 12 true 21),
    (0x7FE3_52C0, .barr false ⟨true, 7⟩ 37 true),
    (0x9FE3_6841, .bwait true ⟨false, 3⟩ 16 true true),
    (0x07E3_8000, .bar false),
    (0x87E3_A002, .cad true .device),
    (0x07E3_D7A7, .waitph false 756 7)] = true := by decide

theorem test_decode_rings_and_views : decodes [
    (0xBFE4_0605, .rdptr true ⟨false, 7⟩ 12 5),
    (0x67E4_2900, .tpf false ⟨true, 4⟩ 18),
    (0xFFE4_2A71, .tpfBind true ⟨true, 7⟩ 20 24 true),
    (0x1FE4_4C80, .install false ⟨false, 3⟩ 25),
    (0x87E4_6880, .ckpt true ⟨false, 0⟩ 17 false),
    (0x0FE4_9606, .cpoll false ⟨false, 1⟩ 44 0 6),
    (0xD7E4_A43C, .amsg true ⟨true, 2⟩ 4 .fadd .b32),
    (0x3FE5_0682, .pub false ⟨false, 7⟩ 13 2),
    (0xE7E5_2901, .item true ⟨true, 4⟩ 18 true),
    (0x7FE5_4011, .cback false ⟨true, 7⟩ 2 .ignore),
    (0x9FE5_7806, .aspub true ⟨false, 3⟩ 48 6),
    (0x07E5_9B9F, .vqry false ⟨false, 0⟩ 55 3 7),
    (0x8FE5_8067, .vqrySt true ⟨false, 1⟩ 4 7)] = true := by decide

theorem test_decode_system : decodes [
    (0x57E6_1840, .setfmt false ⟨true, 2⟩ 97),
    (0xBFE6_3880, .setspare true ⟨false, 7⟩ 98),
    (0x67E6_400A, .setwb false ⟨true, 4⟩ 10),
    (0xFFE6_50A0, .setwbReg true ⟨true, 7⟩ 66),
    (0x1FE6_6CA8, .plop false ⟨false, 3⟩ 3 1 2 8),
    (0x87E7_0213, .sysrd true ⟨false, 0⟩ 8 19),
    (0x0FE7_2260, .syswr false ⟨false, 1⟩ 9 32),
    (0xD7E7_5307, .launch true ⟨true, 2⟩ 38 7),
    (0x3FE7_7001, .clock false ⟨false, 7⟩ 32 true)] = true := by decide
/-- The words that the rules write out (R125, R147, R193, R215 and the examples of each entry). -/
theorem test_decode_examples : decodes [
    (0x0162_0A18, .ffma false always 4 5 (.v 6)), (0x0162_0A1A, .ffms false always 4 5 (.v 6)), (0x0081_9201, .clz false always 3 9),
    (0x0040_851B, .andn false always 1 2 (.s 6)), (0x0003_910D, .isub false always 7 8 (.s 3)),
    (0x0101_05FF, .iaddi false always 2 2 (-1)), (0x0020_840F, .idot4 false always 1 2 (.v 3)), (0x0122_01FB, .movi false always 4 (-5)),
    (0x0061_0710, .shl false always 2 3 (.s 4)), (0x0061_0627, .rotl false always 2 3 (.v 9)), (0x0140_840C, .fadd false always 1 2 (.v 3)),
    (0x0201_8802, .frnd false always 3 4 .rd), (0x0189_0A1A, .fsetp false always 2 .lt 5 (.v 6) .or),
    (0x00C5_040C, .isetp false always 1 .lt 2 (.v 3) .set), (0x00E0_840C, .sel false always 1 2 (.v 3) 0),
    (0x01A1_8804, .sfu false always 3 4 .rsq), (0x01C4_1228, .hfma2 false always 8 9 (.v 10)), (0x00A2_0A18, .bfx false always 4 5 (.v 6)),
    (0x01E2_8C0C, .cvt false always 5 6 .f32 .e4m3 .rn)] = true := by decide
theorem test_decode_examples_scalar : decodes [
    (0x0243_0F2B, .shfl false always 6 7 (.s 10) .xor), (0x0432_C060, .smov false always 300 12),
    (0x0402_8205, .ssetp false always 1 .lt 4 5), (0x0302_858C, .sadd false always 10 11 12), (0x0440_8FFC, .saddi false always 8 (-4)),
    (0x0284_0600, .redux false always 8 3 0 .add), (0x02A4_8844, .v2s false always 9 4 17), (0x0268_0201, .vote false always 16 1 0 .any),
    (0x0266_1600, .vote false always 12 11 0 .ballot), (0x07E0_A005, .setj false 5), (0x047F_FFFD, .bra false always (-3)),
    (0x0480_0010, .call false always 16), (0x07E0_5F80, .ret false always 63), (0x07E0_E04D, .lpad false 77),
    (0x07E0_6300, .brx false always 6), (0x07E6_0140, .setfmt false always 5), (0x07E6_4008, .setwb false always 8),
    (0x07E5_2280, .item false always 5 false), (0x07E6_6CA8, .plop false always 3 1 2 8), (0x07E7_6281, .clock false always 5 true)] = true := by
  decide
theorem test_decode_examples_memory : decodes [
    (0x04A2_8E24, .ld false always 5 7 2 .b32 false), (0x04C2_8E24, .st false always 5 7 2 .b32),
    (0x0524_8453, .lda false always 9 2 5 .b16 true), (0x0544_8452, .sta false always 9 2 5 .b16),
    (0x0566_06A8, .ldc false always 12 3 10 .b128 false), (0x0586_06A8, .stc false always 12 3 10 .b128),
    (0x05A8_0437, .ldm false always 16 2 3 7), (0x05C8_0437, .stm false always 16 2 3 7), (0x05E1_4106, .sld false always 20 2 3 false),
    (0x0601_4105, .sst false always 20 2 2 true), (0x06A2_0522, .dray false 32 10 1 true false), (0x07E2_6000, .oprdy false),
    (0x07E2_8001, .mwait false 1), (0x07E2_0028, .fence false 0 .dev .rel), (0x07E2_083C, .fence false 2 .sys .ar),
    (0x07E2_2528, .fencer false 20 .dev .rel), (0x07E4_A43C, .amsg false always 4 .fadd .b32), (0x07E5_4011, .cback false always 2 .ignore),
    (0x07E4_0305, .rdptr false always 6 5)] = true := by decide

/-- R311: words that are no instruction: a reserved guard, an odd pair, a reserved code, a must-be-zero field, an unused number. -/
theorem test_decode_refuses : ([0x4000_0000, 0x0420_3021, 0x04A2_8E25, 0x07E2_0020, 0x07E5_4013, 0x07E7_C000, 0x0080_0010].all fun w =>
    decodeTableWord 32 w == none) = true := by decide

/-! ## A state in which a split issues -/

/-- A split of both slices of a group of 8 lanes. -/
def p0 : Split := { id := 0, slices := [0, 1], pc := 0x3_0000, fmt := 0 }

/-- A group of 8 lanes on core 0. -/
def g0 : Group :=
  { id := 0, launch := 0, wg := 0, index := 0, core := 0, pos := 0, width := 8, vregs := 256, sregs := 512, octet := 0,
    regOffset := 0, itemBase := 0, gens := List.replicate 8 1, slices := [⟨15, 15, [], 0⟩, ⟨15, 15, [], 0⟩], splits := [p0] }

/-- Its workgroup and its launch. -/
def w0 : Workgroup :=
  { launch := 0, wg := 0, cores := [0], groupsLeft := 1, aBytes := 4096, aBase := [(0, 0)], wBase := [(0, 0)], cBase := [(0, 0)],
    slots := [], trapBase := 0, isSealed := false, priv := false, landingPad := false }
def l0 : Launch := { id := 0, queue := 0, asid := 0, placed := 1, desc := { entry := 0x3_0000, vregs := 256, sregs := 512 } }

/-- The machine with that group, its pages mapped, in which the split issues. -/
def dm (g : Group) (w : Workgroup) (l : Launch) : State :=
  { State.reset with
    ms := { mem := setBytes (setBytes [] loadRoot (leBytes 8 (loadTable + 1))) loadTable (leBytes 8 0x1F) }
    xlat := { binds := [(0, ⟨loadRoot, false⟩)] }
    sched := { launches := [l], wgs := [w], groups := [g], nextLaunch := 1, nextGroup := 1 } }

/-- The group with its split changed. -/
def gp (p : Split) : Group := { g0 with splits := [p] }

/-- The split with an HX hint before the instruction. -/
def hxSplit (h : Hx) : Split := { p0 with hints := { p0.hints with hx := some h, words := [0x07A0_0000] } }

/-- An instruction whose pair holds no hint issues. -/
theorem issues (g : Group) (w : Workgroup) (l : Launch) (a : Accept) (hg : findGroup (dm g w l) 0 = some g)
    (hp : findSplit g 0 = some p0) : Issues (dm g w l) g p0 a :=
  ⟨by unfold curSplit; rw [show (dm g w l).cur = (0, 0) from rfl]; simp [hg, hp], by simp [badHint, p0]⟩

theorem issues0 (w : Workgroup) (l : Launch) (a : Accept) : Issues (dm g0 w l) g0 p0 a := issues _ _ _ _ rfl rfl

/-! ## Single steps: values that the spec's tables and examples give -/

/-- V1, V2 and V3 of lane 0 hold a, b and old d; d is V3 after the instruction, with the launch's flags. -/
def lane3 (p : Split) (i : Instr) (a b d : Word) : Word × FpFlags :=
  match exec i (dm { gp p with v := [(1, a), (2, b), (3, d)] } w0 l0) with
  | .next t => (((t.sched.groups.map fun g => getV g 0 3).headD 0), ((t.sched.launches.map (·.flags)).headD {}))
  | _ => (0, {})

/-- R335's table, but for its last row, which does not follow from the rule's own text: log entry 32. -/
theorem test_bfx_prmt :
    lane3 p0 (.bfx false always 3 1 (.v 2)) 0xF0A0 0x8808 0 = (0xFFFF_FFF0, {}) ∧
    lane3 p0 (.bfx false always 3 1 (.v 2)) 0xF0A0 0x0804 0 = (0xA, {}) ∧
    lane3 p0 (.bfi false always 3 1 (.v 2)) 0xAB 0x0810 0x1234_5678 = (0x12AB_5678, {}) ∧
    lane3 p0 (.prmt false always 3 1 (.v 2)) 0x8877_6655 0x0008_07E0 0x4433_2211 = (0xFF44_1155, {}) := by decide
/-- R338's table. -/
theorem test_unary : lane3 p0 (.popc false always 3 1) 0xF000_0001 0 0 = (5, {}) ∧
    lane3 p0 (.clz false always 3 1) 0xF000_0001 0 0 = (0, {}) ∧ lane3 p0 (.clz false always 3 1) 0 0 0 = (32, {}) ∧
    lane3 p0 (.brev false always 3 1) 0xF000_0001 0 0 = (0x8000_000F, {}) ∧
    lane3 p0 (.iabs false always 3 1) 0xF000_0001 0 0 = (0x0FFF_FFFF, {}) ∧
    lane3 p0 (.iabs false always 3 1) 0x8000_0000 0 0 = (0x8000_0000, {}) := by decide
/-- R367's table. -/
theorem test_products : lane3 p0 (.imul false always 3 1 (.v 2)) 0x1_0000 0x1_0001 0 = (0x1_0000, {}) ∧
    lane3 p0 (.imulh false always 3 1 (.v 2)) 0x8000_0000 2 0 = (0xFFFF_FFFF, {}) ∧
    lane3 (hxSplit { z := true }) (.imulh false always 3 1 (.v 2)) 0x8000_0000 2 0 = (1, {}) ∧
    lane3 p0 (.idot4 false always 3 1 (.v 2)) 0x01FF_0203 0x0102_FF04 100 = (0x6D, {}) ∧
    lane3 (hxSplit { z := true }) (.idot4 false always 3 1 (.v 2)) 0x01FF_0203 0x0102_FF04 100 = (0x46D, {}) := by decide
/-- R392's table. -/
theorem test_shifts : lane3 p0 (.shl false always 3 1 (.v 2)) 0x8000_0001 1 0 = (2, {}) ∧
    lane3 p0 (.shr false always 3 1 (.v 2)) 0x8000_0001 1 0 = (0x4000_0000, {}) ∧
    lane3 p0 (.sar false always 3 1 (.v 2)) 0x8000_0001 40 0 = (0xFFFF_FFFF, {}) ∧
    lane3 p0 (.shl false always 3 1 (.v 2)) 0x8000_0001 40 0 = (0, {}) ∧
    lane3 p0 (.rotl false always 3 1 (.v 2)) 0x8000_0001 33 0 = (3, {}) := by decide
/-- R354's table. -/
theorem test_fadd : lane3 p0 (.fadd false always 3 1 (.v 2)) 0x3F80_0000 0x3380_0000 0 = (0x3F80_0000, { inexact := true }) ∧
    lane3 p0 (.fadd false always 3 1 (.v 2)) 0x3F80_0000 0xBF80_0000 0 = (0, {}) ∧
    lane3 p0 (.fadd false always 3 1 (.v 2)) 0x7F80_0000 0xFF80_0000 0 = (0x7FC0_0000, { invalid := true }) := by decide
theorem test_fmul : lane3 p0 (.fmul false always 3 1 (.v 2)) 0x0D80_0000 0x2B80_0000 0 = (0x200, {}) ∧
    lane3 { p0 with fmt := 0x1000 } (.fmul false always 3 1 (.v 2)) 0x0D80_0000 0x2B80_0000 0 = (0, { underflow := true }) := by decide
theorem test_fmin_fmax : lane3 p0 (.fmin false always 3 1 (.v 2)) 0x8000_0000 0 0 = (0x8000_0000, {}) ∧
    lane3 p0 (.fmax false always 3 1 (.v 2)) 0x7FC0_0000 0x4040_0000 0 = (0x4040_0000, {}) := by decide
/-- R356's example. -/
theorem test_ffms : lane3 p0 (.ffms false always 3 1 (.v 2)) 0x3F80_0001 0x3F7F_FFFE 0x3F80_0000 = (0xA880_0000, {}) := by decide
/-- R357's table. -/
theorem test_frnd : lane3 p0 (.frnd false always 3 1 .rd) 0xC020_0000 0 0 = (0xC040_0000, {}) ∧
    lane3 p0 (.frnd false always 3 1 .ru) 0xBF00_0000 0 0 = (0x8000_0000, {}) := by decide
/-- R336's example. -/
theorem test_hfma2 : lane3 p0 (.hfma2 false always 3 1 (.v 2)) 0x4000_4000 0x4C00_3800 0x7BFF_3C00 = (0x7C00_4000,
      { overflow := true, inexact := true }) ∧
    (lane3 (hxSplit { sat := true }) (.hfma2 false always 3 1 (.v 2)) 0x4000_4000 0x4C00_3800 0x7BFF_3C00).1 = 0x7BFF_4000 := by decide
/-- R348's table. -/
theorem test_cvt : (lane3 p0 (.cvt false always 3 1 .f32 .e4m3 .rn) 0x4396_0000 0 0).1 = 0x79 ∧
    (lane3 p0 (.cvt false always 3 1 .f32 .e4m3 .rn) 0x43FA_0000 0 0).1 = 0x7F ∧
    (lane3 (hxSplit { sat := true }) (.cvt false always 3 1 .f32 .e4m3 .rn) 0x43FA_0000 0 0).1 = 0x7E ∧
    (lane3 p0 (.cvt false always 3 1 .f32 .s32 .rd) 0xC020_0000 0 0).1 = 0xFFFF_FFFD ∧
    lane3 p0 (.cvt false always 3 1 .f32 .s32 .rz) 0x4F32_D05E 0 0 = (0x7FFF_FFFF, { invalid := true }) ∧
    (lane3 p0 (.cvt false always 3 1 .tp8 .f32 .rn) 0x3A 0 0).1 = 0x4050_0000 ∧
    (lane3 p0 (.cvt false always 3 1 .s8 .s32 .rn) 0xFFFF_FF80 0 0).1 = 0xFFFF_FF80 := by decide
/-- R398's example. -/
theorem test_sfu : (match exec (.sfu false always 3 1 .rsq) (dm { g0 with v := [(1, 0x4080_0000), (257, 0x8000_0000)] } w0 l0) with
    | .next t => (t.sched.groups.map fun g => (g.pend.map (·.v.take 2)), t.sched.launches.map (·.flags.divZero))
    | _ => ([], [])) = ([[[(3, 0x3F00_0000), (259, 0xFF80_0000)]]], [true]) := by decide
/-- R370's example. -/
theorem test_isetp : intCondition .lt (0xFFFF_FFFF : Word) 1 = true ∧ intCondition .lo (0xFFFF_FFFF : Word) 1 = false := by decide

/-- S4 to S7 hold a and b as pairs; the pair S8:S9 after the instruction. -/
def pair8 (p : Split) (i : Instr) : List DWord :=
  match exec i (dm { gp p with s := [(4, 0xFFFF_FFFF), (5, 1), (6, 1), (9, 7)] } w0 l0) with
  | .next t => t.sched.groups.map fun g => getS64 g 8
  | _ => []
/-- R393's example. -/
theorem test_sadd : pair8 (hxSplit { w := true }) (.sadd false always 8 4 6) = [0x2_0000_0000] ∧
    pair8 p0 (.sadd false always 8 4 6) = [0x7_0000_0000] := by decide

/-- R399's first example: lanes 0 to 3, lane 2 with a false guard. -/
theorem test_shfl : (match exec (.shfl false ⟨false, 1⟩ 6 7 (.s 10) .xor) (dm { gp { p0 with slices := [0] } with
        splits := [{ p0 with slices := [0] }, { p0 with id := 1, slices := [1] }],
        v := (List.range 8).map fun l => (l * 256 + 7, BitVec.ofNat 32 (10 + l)), p := [(0, 2), (1, 2), (3, 2)], s := [(10, 4)] } w0 l0) with
    | .next t => t.sched.groups.map fun g => [0, 1, 2, 3].map fun l => getV g l 6
    | _ => []) = [[10, 11, 0, 13]] := by decide

/-- A step from reset runs the word placed: IADDI V2, V2, #-1. -/
theorem test_step : (match step (State.reset.withFetchWord 32 0x0101_05FF) with
    | .next t => t.sched.groups.map fun g => (getV g 7 2, g.splits.map (·.pc))
    | _ => []) = [(0xFFFF_FFFF, [0x3_0004])] := by decide

/-! ## Witnesses: for each statement with hypotheses, states and operands that meet them, at boundary values of each clause -/

/-- The demonstration machine, and the same with another split, group, workgroup or launch. -/
abbrev s0 : State := dm g0 w0 l0
abbrev sp (p : Split) : State := dm (gp p) w0 l0
abbrev sg (g : Group) : State := dm g w0 l0
abbrev sw (w : Workgroup) : State := dm g0 w l0
abbrev sl (l : Launch) : State := dm g0 w0 l

/-- A guard that no lane and no group predicate of the demonstration machine meets. -/
def never : Guard := ⟨false, 1⟩

theorem witness_DecodeEncodeAgree : (Instr.nop true always).wf = true ∧ encode (.nop true always) = some 0x87E0_0000 ∧
    decodeWord 0x87E0_0000 = .ok (.nop true always) := by decide

theorem witness_MemoryFormKept : Memory.wf State.reset.ms.mem = true ∧ (∃ t, step State.reset = .next t) ∧
    Memory.wf s0.ms.mem = true ∧ ∃ t, step s0 = .next t := ⟨by decide, ⟨_, rfl⟩, by decide, ⟨_, rfl⟩⟩

/-- A word placed where the first step fetches: what chooses the step, and what the fetch gives. -/
def fetched (w : Nat) : Option (Word × Bool × Bool) :=
  let c := choose (beginStep (State.reset.withFetchWord 32 w))
  match c.1 with
  | .issue gid sid =>
    let v := notePick (beginIssue c.2 gid sid) gid sid
    match curSplit v with
    | some (g, p) =>
      match fetchAt v g (allOf g p) p.pc with
      | .word x _ => some (x, isReady g p && !hasLate g p && !joinDue g p, (wgOf v g.launch g.wg).stopping)
      | _ => none
    | none => none
  | _ => none

theorem witness_StepRunsDecoded : fetched 0x0101_05FF = some (0x0101_05FF, true, false) ∧
    decodeWord 0x0101_05FF = .ok (.iaddi false always 2 2 (-1)) ∧
    fetched 0xFFFF_FFFF = some (0xFFFF_FFFF, true, false) ∧ (∃ e, decodeWord 0xFFFF_FFFF = .error e) ∧
    isHintWord 0xFFFF_FFFF = false ∧
    (∃ u, choose (beginStep { State.reset with agenda := [.occur .warmReset] }) = (.occur .warmReset, u)) ∧
    (∃ u, choose (beginStep { State.reset with agenda := [.read .bootStatus] }) = (.outside (.read .bootStatus), u)) ∧
    ∃ u, choose (beginStep { State.reset with picks := some [] }) = (.pass, u) :=
  ⟨by decide, by decide, by decide, ⟨_, rfl⟩, rfl, ⟨_, rfl⟩, ⟨_, rfl⟩, ⟨_, rfl⟩⟩

theorem witness_StepRunsDecoded_fetch : (∃ l pa a r, checkObject s0 (whoOf s0 g0) (allOf g0 p0) .fetch false 4 4 4 0x3_0000 =
      .ok ((l, pa, a) :: r)) ∧ mget? (icacheKey 0 0x3_0000) s0.ms.cache.icache = none ∧
    poisonedAtoms (reachHome 0 (.core 0) 0x3_0000 4 s0.ms).dram 0x3_0000 4 = [] := ⟨⟨_, _, _, _, rfl⟩, rfl, rfl⟩

theorem witness_StepAlwaysGoes : (∀ i, Act.occur i ∈ State.reset.agenda → encode i = none) ∧
    ∀ i, Act.occur i ∈ ({ State.reset with agenda := [.pass 1, .occur .warmReset] } : State).agenda → encode i = none :=
  ⟨by simp [State.reset], by intro i h; simp at h; subst h; rfl⟩

theorem witness_LaneIntegerResults : Issues s0 g0 p0 { fwd := true } ∧ Issues s0 g0 p0 { fwd := true, z := true } ∧
    Issues s0 g0 p0 {} ∧ Issues s0 g0 p0 { imms := 2 } ∧ p0.hints.hfwd = none ∧ VOk g0 (active g0 p0 always) [0, 63] ∧
    BOk g0 (active g0 p0 always) (.v 63) ∧ BOk g0 (active g0 p0 always) (.s 63) ∧ active g0 p0 always = [0, 1, 2, 3, 4, 5, 6, 7] ∧
    VOk { g0 with vregs := 8 } [] [63] ∧ active g0 p0 never = [] :=
  ⟨issues0 _ _ _, issues0 _ _ _, issues0 _ _ _, issues0 _ _ _, rfl, Or.inr (by decide), Or.inr (by decide), Or.inr (by decide), rfl,
    Or.inl rfl, rfl⟩

theorem witness_LanePredicateResults : Issues s0 g0 p0 { fwd := true } ∧ p0.hints.hfwd = none ∧
    VOk g0 (active g0 p0 always) [63, 0] ∧ BOk g0 (active g0 p0 always) (.v 0) ∧ Issues s0 g0 p0 {} :=
  ⟨issues0 _ _ _, rfl, Or.inr (by decide), Or.inr (by decide), issues0 _ _ _⟩

/-- A group of 8 registers: register 8 is the first outside, and so is index 8. -/
def gSmall : Group := { g0 with vregs := 8, x := [(1, 8), (5, 7), (9, 8), (13, 7), (17, 7), (21, 7), (25, 7), (29, 7)] }

theorem witness_LaneRegisterTraps : Issues (sg gSmall) gSmall p0 { fwd := true } ∧ active gSmall p0 always ≠ [] ∧
    gSmall.vregs ≤ eff gSmall 8 ∧ (∀ q, (q = 8 ∨ q = 7) → gSmall.vregs ≤ eff gSmall q → eff gSmall 8 ≤ eff gSmall q) ∧
    Issues (sg gSmall) gSmall p0 { imms := 2 } ∧ VOk gSmall (active gSmall p0 always) [7] ∧
    (active gSmall p0 always).filter (fun l => decide ((((getX gSmall l 1).toNat : Int) + built p0.hints.himm (0 : BitVec 9) +
      gSmall.wb.toNat) < 0 ∨ (gSmall.vregs : Int) ≤ (getX gSmall l 1).toNat + built p0.hints.himm (0 : BitVec 9) + gSmall.wb.toNat)) =
      [0, 2] :=
  ⟨⟨rfl, rfl⟩, by decide, by decide, by rintro q (rfl | rfl) <;> decide, ⟨rfl, rfl⟩, Or.inr (by decide), by decide⟩
/-- Of a, d and b, b alone fails; all three fail, and b's is the lowest; b alone fails as a broadcast scalar. -/
theorem witness_LaneRegisterTraps_b : gSmall.vregs ≤ eff gSmall 9 ∧
    (∀ q ∈ [7, 7] ++ [9], gSmall.vregs ≤ eff gSmall q → eff gSmall 9 ≤ eff gSmall q) ∧
    (∀ q ∈ [20, 20] ++ [10], gSmall.vregs ≤ eff gSmall q → eff gSmall 10 ≤ eff gSmall q) ∧
    (∀ r ∈ [7, 0] ++ ([] : List Nat), eff { gSmall with sregs := 4 } r < ({ gSmall with sregs := 4 } : Group).vregs) ∧
    ({ gSmall with sregs := 4 } : Group).sregs ≤ (4 : BitVec 6).toNat ∧ p0.hints.hfwd = none := by decide

/-- A chained launch of distance 1 and a published slot; the split's pair forwards it. -/
def pFwd : Split := { p0 with hints := { p0.hints with hfwd := some (0, 0), words := [0x07C0_0000] } }
def lChain : Launch := { l0 with desc := { l0.desc with kmax := 1, slots := 1 } }

def gFwd : Group := { gp pFwd with published := (List.range 8).map fun k => (k * 4, BitVec.ofNat 32 (k + 5)) }

theorem witness_ForwardedOperandResults : Issues (dm gFwd w0 lChain) gFwd pFwd { fwd := true } ∧
    pFwd.hints.hfwd = some (0, 0) ∧ pFwd.slices ≠ [] ∧ VOk gFwd (active gFwd pFwd always) [1, 63] ∧
    0 + 1 ≤ (launchOf (dm gFwd w0 lChain) 0).desc.kmax ∧ 0 < (launchOf (dm gFwd w0 lChain) 0).desc.slots ∧
    ∀ l ∈ active gFwd pFwd always, (fwdValue (dm gFwd w0 lChain) gFwd 1 0 l).map (·.1) =
      some (if l = 0 then 0 else BitVec.ofNat 32 (l + 4)) :=
  ⟨⟨rfl, rfl⟩, rfl, by decide, Or.inr (by decide), by decide, by decide, by decide⟩
theorem witness_ForwardedOperandResults_forms : (∀ a ∈ ([{ fwd := true }, { fwd := true, z := true }, { fwd := true, sat := true },
      { fwd := true, imms := 2 }] : List Accept), Issues (dm gFwd w0 lChain) gFwd pFwd a) ∧
    VOk gFwd (active gFwd pFwd always) [63] ∧ VOk gFwd (active gFwd pFwd always) [1] := by
  refine ⟨?_, Or.inr (by decide), Or.inr (by decide)⟩
  intro a ha; fin_cases ha <;> exact ⟨rfl, rfl⟩

theorem witness_LaneFloatResults : Issues s0 g0 p0 { fwd := true, sat := true } ∧ p0.hints.hfwd = none ∧
    VOk g0 (active g0 p0 always) [1, 3] ∧ BOk g0 (active g0 p0 always) (.v 2) ∧ Issues s0 g0 p0 { z := true, sat := true } ∧
    Issues (sp (hxSplit { sat := true })) (gp (hxSplit { sat := true })) (hxSplit { sat := true }) { sat := true } :=
  ⟨issues0 _ _ _, rfl, Or.inr (by decide), Or.inr (by decide), issues0 _ _ _, ⟨rfl, rfl⟩⟩
/-- 2.5 to E4M3 and to a 32-bit integer, and a NaN to one. -/
theorem witness_LaneFloatResults_convert : dstFmt .e4m3 = some .e4m3 ∧ srcFmt .f32 ≠ some .e4m3 ∧ dstFmt .s32 = none ∧
    cvtValue false false .f32 0x4020_0000 = .fin ⟨false, 0xA0_0000, -22⟩ ∧ cvtValue false false .f32 0x7FC0_0000 = .nan := by decide

theorem witness_FloatValueResults : (ofF32 0x7FC0_0000).isNan = true ∧ (ofF32 0x7F80_0001).isNan = true ∧
    (ofF32 0x7F80_0000).isNan = false ∧ (ofF32 0x3F80_0000).isNan = false := by decide

theorem witness_LongLaneResults : Issues s0 g0 p0 {} ∧ VOk g0 (active g0 p0 always) [1, 63] ∧ 63 < g0.sregs :=
  ⟨issues0 _ _ _, Or.inr (by decide), by decide⟩
/-- -1, and a NaN; an outstanding result with the destination of another, and one without. -/
theorem witness_LongLaneResults_cases : in32 false 0xBF80_0000 = .fin ⟨true, 0x80_0000, -23⟩ ∧ (ofF32 0x7FC0_0000).isNan = true ∧
    (∃ o ∈ ({ g0 with pend := [knownResult p0 [0] [(1, 0)] []] } : Group).pend, ∃ k ∈ destKeys o,
      k ∈ destKeys (knownResult p0 [0] [(1, 7)] [])) ∧
    ∀ o ∈ ({ g0 with pend := [knownResult p0 [0] [(1, 0)] []] } : Group).pend, ∀ k ∈ destKeys o,
      k ∉ destKeys (knownResult p0 [0] [(2, 7)] []) := by decide

/-- 16 scalar registers: S13 to S16 is one too many. -/
def gFew : Group := { g0 with sregs := 16 }

theorem witness_CrossLaneResults : Issues s0 g0 p0 {} ∧ VOk g0 (active g0 p0 always) [1, 2] ∧ BOk g0 (active g0 p0 always) (.s 10) ∧
    active g0 p0 always ≠ [] ∧ SOk gFew [12, 13, 14, 15] ∧ curSplit (sp pFwd) = some (gp pFwd, pFwd) ∧
    pFwd.hints.hfwd.isSome = true ∧ pFwd.hints.words ≠ [] ∧ active g0 p0 never = [] ∧ Issues (sg gFew) gFew p0 {} ∧
    active gFew p0 always ≠ [] ∧ gFew.sregs ≤ 13 + 3 :=
  ⟨issues0 _ _ _, Or.inr (by decide), Or.inr (by decide), by decide, by simp [SOk, gFew], rfl, rfl, by decide, rfl, ⟨rfl, rfl⟩,
    by decide, by decide⟩

theorem witness_IndexRegisterResults : Issues s0 g0 p0 { imms := 2 } ∧ VOk g0 (active g0 p0 always) [63] ∧
    (∀ l ∈ active g0 p0 always, 0 ≤ ((getX g0 l 1).toNat : Int) + built p0.hints.himm (255 : BitVec 9) + g0.wb.toNat ∧
      ((getX g0 l 1).toNat : Int) + built p0.hints.himm (255 : BitVec 9) + g0.wb.toNat < g0.vregs) :=
  ⟨issues0 _ _ _, Or.inr (by decide), by decide⟩

/-- E4M3 codes under MX32, and under no scale; a Hadamard size from HX, and from FMT. -/
def pBlock : Split := { p0 with fmt := 0x133 }
def pPlain : Split := { p0 with fmt := 0x3 }
def pHad : Split := hxSplit { had := 1 }

theorem witness_BlockResults : Issues (sp pBlock) (gp pBlock) pBlock {} ∧ fmtA pBlock.fmt ≠ .f32 ∧
    (if fmtScale pBlock.fmt = 2 then 16 else 32) * (fmtA pBlock.fmt).width / 32 = 8 ∧ fmtScale pBlock.fmt ≠ 0 ∧
    VIn (gp pBlock) (active (gp pBlock) pBlock always) (span 31 32 ++ span 0 8 ++ [8]) ∧
    Issues (sp pPlain) (gp pPlain) pPlain {} ∧ fmtA pPlain.fmt ≠ .f32 ∧ fmtScale pPlain.fmt = 0 ∧
    VIn (gp pPlain) (active (gp pPlain) pPlain always) (span 31 32 ++ span 0 8 ++ []) ∧
    Issues (sp pHad) (gp pHad) pHad { had := true } ∧ hadOf pHad = 16 ∧
    VIn (gp pHad) (active (gp pHad) pHad always) (span 48 16 ++ span 0 16) :=
  ⟨⟨rfl, rfl⟩, by decide, by decide, by decide, Or.inr (by decide), ⟨rfl, rfl⟩, by decide, by decide, Or.inr (by decide), ⟨rfl, rfl⟩,
    by decide, Or.inr (by decide)⟩
/-- A block of one element: an infinity; 1.0, whose greatest magnitude lies from 2^0 up to 2^1; E4M3 scales below it exist. -/
theorem witness_BlockResults_values : ([Choice.mode .rne] : List Choice).length = [XVal.inf false].length ∧
    amaxOf [.fin ⟨false, 1, 0⟩] = ⟨false, 1, 0⟩ ∧ Dy.lt ⟨false, 1, 0⟩ ⟨false, 1, 0⟩ = false ∧
    Dy.lt ⟨false, 1, 0⟩ ⟨false, 1, 0 + 1⟩ = true ∧
    (quantBlock .e2m1 2 false [.mode .rne] [.fin ⟨false, 1, 9⟩]).1 = 0x6B ∧ decodeNum .e4m3 1 = .fin ⟨false, 1, -9⟩ := by decide

/-- The pair holds HX.w. -/
def pWide : Split := hxSplit { w := true }

theorem witness_ScalarResults : Issues s0 g0 p0 { w := true } ∧ guardQ g0 always = true ∧ (hxOf p0).w = false ∧
    SOk g0 [0, 127, 511] ∧ Issues (sp pWide) (gp pWide) pWide { w := true } ∧ guardQ (gp pWide) always = true ∧
    (hxOf pWide).w = true ∧ SOk (gp pWide) [126, 127, 0, 1, 2, 3] ∧ Issues s0 g0 p0 {} ∧ Issues s0 g0 p0 { w := true, imms := 2 } ∧
    Issues (sp pWide) (gp pWide) pWide { w := true, imms := 2 } :=
  ⟨issues0 _ _ _, rfl, rfl, by simp [SOk, g0], ⟨rfl, rfl⟩, rfl, rfl, by simp [SOk, gp, g0], issues0 _ _ _, issues0 _ _ _, ⟨rfl, rfl⟩⟩

theorem witness_FalseGuardPasses : p0.redo = none ∧ guardQ g0 never = false ∧
    ∀ j ∈ guardedForms false never 0 1 2 3 .eq 4 5 6 7 8 true, Issues s0 g0 p0 j.2 := ⟨rfl, rfl, fun _ _ => issues0 _ _ _⟩

theorem witness_FormatResults : Issues s0 g0 p0 {} ∧ guardQ g0 always = true ∧ (127 : BitVec 7).toNat < g0.sregs ∧
    fmtValid (getS { g0 with s := [(5, 0x133)] } 5) ∧ fmtValid (getS { g0 with s := [(5, 0x1_F699)] } 5) ∧
    ¬ fmtValid (getS { g0 with s := [(5, 0xA)] } 5) ∧ ¬ fmtValid (getS { g0 with s := [(5, 0x2_0000)] } 5) :=
  ⟨issues0 _ _ _, rfl, by decide, by unfold fmtValid; decide, by unfold fmtValid; decide, by unfold fmtValid; decide,
    by unfold fmtValid; decide⟩

/-- A workgroup with privilege. -/
def wPriv : Workgroup := { w0 with priv := true }

theorem witness_SystemRegisterResults : Issues s0 g0 p0 {} ∧ guardQ g0 always = true ∧ SysReg.known 0x22 = true ∧
    SysReg.wide 0x00 = false ∧ SOk g0 [127] ∧ SysReg.wide 0x17 = true ∧ SOk g0 [126, 127] ∧ Issues (sw wPriv) g0 p0 {} ∧
    (wgOf (sw wPriv) g0.launch g0.wg).priv = true ∧ (getS g0 4).getLsbD 0 = (wgOf (sw wPriv) g0.launch g0.wg).isSealed ∧
    SysReg.readOnly 0x20 = false ∧ (wgOf s0 g0.launch g0.wg).priv = false ∧
    (getS { g0 with s := [(4, 1)] } 4).getLsbD 0 ≠ (wgOf (dm { g0 with s := [(4, 1)] } wPriv l0) 0 0).isSealed :=
  ⟨issues0 _ _ _, rfl, by decide, by decide, by simp [SOk, g0], by decide, by simp [SOk, g0], issues0 _ _ _, rfl, rfl, by decide, rfl,
    by decide⟩

theorem witness_AgeLimitNeedsPrivilege : (encode (.syswr false always 4 0x20)).isSome = true ∧ curSplit s0 = some (g0, p0) ∧
    (wgOf s0 g0.launch g0.wg).priv = false ∧ ∃ t, exec (.syswr false always 4 0x20) s0 = .next t := ⟨rfl, rfl, rfl, ⟨_, rfl⟩⟩

/-- Two HIMM words before the instruction. -/
def pTwo : Split := { p0 with hints := { p0.hints with himm := [0, 1], words := [0x0780_0000, 0x0780_0001] } }

theorem witness_HintResults : curSplit s0 = some (g0, p0) ∧ encode (.himm 1) = some 0x0780_0001 ∧ p0.hints.himm.length < 2 ∧
    (encode (.hx 0 0 false false 0 0 true)).isSome = true ∧ p0.hints.hx = none ∧ p0.hints.himm = [] ∧
    encode (.hfwd 0 0) = some 0x07C0_0000 ∧ p0.hints.words = [] ∧ curSplit (sp pTwo) = some (gp pTwo, pTwo) ∧
    2 ≤ pTwo.hints.himm.length ∧ pTwo.hints.himm ≠ [] ∧ curSplit (sp pWide) = some (gp pWide, pWide) ∧ pWide.hints.hx.isSome = true ∧
    pWide.hints.words ≠ [] ∧ (badHint {} pWide.hints).isSome = true ∧ Issues s0 g0 p0 {} :=
  ⟨rfl, rfl, by decide, rfl, rfl, rfl, rfl, rfl, rfl, by decide, by decide, rfl, rfl, by decide, rfl, issues0 _ _ _⟩
/-- An addition whose pair holds an HX hint that it does not take. -/
theorem witness_HintResults_refused : takes (.iadd false always 3 1 (.v 2)) = some { fwd := false } ∧
    badHint { fwd := false } pWide.hints = some 0x07A0_0000 ∧ (encode (.iadd false always 3 1 (.v 2))).isSome = true := by decide

theorem witness_BranchResults : Issues s0 g0 p0 {} ∧ p0.slices ≠ [] ∧ Shallow g0 p0 ∧ VOk g0 (active g0 p0 always) [63] :=
  ⟨issues0 _ _ _, by decide, by simp only [Shallow]; decide, Or.inr (by decide)⟩

/-- One HIMM word before the instruction; no index; a landing pad without a label at the target. -/
def pTable : Split := { p0 with hints := { p0.hints with himm := [4], words := [0x0780_0004] } }
def wPad : Workgroup := { w0 with landingPad := true }
def sTable (w : Workgroup) (mem : List (Nat × List Byte)) : State :=
  let s := dm (gp pTable) w l0
  { s with ms := { s.ms with mem := mem.foldl (fun m x => setBytes m x.1 x.2) s.ms.mem } }

/-- Memory with a table of one entry at the address that HIMM names; memory with LPAD #4 at address 0, and with nothing there. -/
def mTable : List (Nat × List Byte) := [(0x3_0010, leBytes 4 1), (0x3_0014, leBytes 4 0x3_0040), (0x3_0020, leBytes 4 0x3_0100)]
def mPad : List (Nat × List Byte) := [(0, leBytes 4 0x07E0_E004)]

theorem witness_IndirectBranchResults : Issues (sTable w0 mTable) (gp pTable) pTable { imms := 1 } ∧ pTable.slices ≠ [] ∧
    Shallow (gp pTable) pTable ∧ pTable.hints.himm.headD 0 = 4 ∧ (wgOf (sTable w0 mTable) 0 0).landingPad = false ∧
    (∃ u, tableTargets (sTable w0 mTable) (gp pTable) pTable (active (gp pTable) pTable always) 1 4 =
      .go u ((active (gp pTable) pTable always).map fun l => (l, 0x3_0100)) (some 0x3_0040)) ∧
    (wgOf (sTable wPad mPad) 0 0).landingPad = true ∧ Issues (sTable wPad mPad) (gp pTable) pTable { imms := 1 } ∧
    (∃ u, padTargets (sTable wPad mPad) (gp pTable) pTable (active (gp pTable) pTable always) 1 4 =
      .go u ((active (gp pTable) pTable always).map fun l => (l, 0)) none) ∧
    VOk (gp pTable) (active (gp pTable) pTable always) [1, 63] ∧ Issues s0 g0 p0 { imms := 1 } ∧ p0.hints.himm = [] ∧
    4096 ≤ (({ pTable with hints := { pTable.hints with himm := [4096] } } : Split).hints.himm.headD 0).toNat :=
  ⟨⟨rfl, rfl⟩, by decide, by simp only [Shallow]; decide, rfl, rfl, ⟨_, rfl⟩, rfl, ⟨rfl, rfl⟩, ⟨_, rfl⟩, Or.inr (by decide),
    issues0 _ _ _, rfl, by decide⟩

/-- Slice 0 holds 8 entries; P1 is set in lane 1. -/
def gDeep : Group :=
  { g0 with slices := [⟨15, 15, List.replicate 8 ⟨15, 0, 0, none, 0⟩, 0⟩, ⟨15, 15, [], 0⟩], p := [(1, 2)] }
/-- Two splits of one fork: one waits at REGANG, and the other reaches it. -/
def pLeft : Split := { p0 with fork := some 0, slices := [0] }
def pRight : Split := { p0 with id := 1, fork := some 0, slices := [1], wait := .regang 0x3_0000 }
def fork0 : Fork := ⟨0, [0, 1], some 0x3_0000, 0, none⟩
def gFork (f : Fork) : Group := { g0 with splits := [pLeft, pRight], forks := [f] }
/-- Slice 0 has lanes pending, and slice 1 has none, at the join PC that the split has reached. -/
def gJoin : Group :=
  { g0 with slices := [⟨3, 15, [⟨15, 12, 0x3_0100, some 0x3_0000, 5⟩], 0⟩, ⟨15, 15, [⟨15, 0, 0, some 0x3_0000, 7⟩], 0⟩] }
/-- The group and the split whose turn it is, and whether the split may issue. -/
def turnOf (s : State) : Option (Group × Split × Bool) :=
  let c := choose (beginStep s)
  match c.1 with
  | .issue gid sid =>
    let v := notePick (beginIssue c.2 gid sid) gid sid
    (curSplit v).map fun x => (x.1, x.2, isReady x.1 x.2 && !(wgOf v x.1.launch x.1.wg).stopping && !hasLate x.1 x.2)
  | _ => none
def regangAt (g : Group) : Group := putSplit g { pLeft with wait := .regang pLeft.pc, ypark := false, hints := {}, redo := none }

theorem witness_MaskStackResults : Issues (sg gDeep) gDeep p0 {} ∧ (launchOf (sg gDeep) 0).desc.spill = 0 ∧ 0 ∈ p0.slices ∧
    8 ≤ (sliceAt gDeep 0).stack.length + (sliceAt gDeep 0).spilled ∧
    (∃ l ∈ lanesHere gDeep 0, l ∈ active gDeep p0 never) ∧ (∃ l ∈ lanesHere gDeep 0, l ∉ active gDeep p0 never) ∧ p0.join = none ∧
    p0.pc.toNat + 4 < (p0.pc + BitVec.ofInt 64 (4 * (2 : BitVec 21).toInt)).toNat ∧
    Issues s0 g0 p0 {} ∧ forkOf g0 p0 = none ∧
    Issues (sg (gFork fork0)) (gFork fork0) pLeft {} ∧ forkOf (gFork { fork0 with join := some 0 }) pLeft = some { fork0 with join := some 0 } ∧
    forkOf (gFork fork0) pLeft = some fork0 ∧ fork0.join = some pLeft.pc :=
  ⟨⟨rfl, rfl⟩, rfl, by decide, by decide, ⟨1, by decide, by decide⟩, ⟨0, by decide, by decide⟩, rfl, by decide,
    issues0 _ _ _, rfl, ⟨rfl, rfl⟩, rfl, rfl, rfl⟩
theorem witness_MaskStackResults_join : turnOf (sg gJoin) = some (gJoin, p0, true) ∧ p0.hints.words = [] ∧ p0.slices.Nodup ∧
    (∀ j ∈ p0.slices, j < gJoin.slices.length ∧ (sliceAt gJoin j).spilled = 0 ∧ (sliceAt gJoin j).mask ≠ 0) ∧
    (sliceAt gJoin 0).stack.map (fun e => (e.join, e.pending)) = [(some p0.pc, 12)] ∧
    (sliceAt gJoin 1).stack.map (fun e => (e.join, e.pending, e.saved &&& (sliceAt gJoin 1).live)) = [(some p0.pc, 0, 15)] := by decide
theorem witness_MaskStackResults_regang : mergeable (regangAt { gFork fork0 with splits := [pLeft, { pRight with wait := .ready }] }) = none ∧
    (regangAt (gFork fork0)).forks = [fork0] ∧ fork0.parent = none ∧ ((regangAt (gFork fork0)).splits.map (·.id)).Nodup ∧
    (∀ q ∈ (regangAt (gFork fork0)).splits, q.fork = some fork0.id → q.wait = .regang pLeft.pc) ∧
    ∀ j ∈ fork0.slices, (sliceAt (regangAt (gFork fork0)) j).live ≠ 0 →
      ∃ q ∈ (regangAt (gFork fork0)).splits, q.fork = some fork0.id ∧ j ∈ q.slices := by decide

/-- A workgroup with a handler; a split in trap state; a split with an outstanding result that is not known yet. -/
def wTrap : Workgroup := { w0 with trapBase := 0x4_0003 }
def res0 : Resume := ⟨[(0, 15), (1, 15)], 0, none, 0x3_0004, none, false, 0, []⟩
def pTrap : Split := { p0 with resume := some res0 }
def gWaits : Group := { g0 with pend := [{ kind := .wash 0, pc := 0, owner := 255, lanes := 255, v := [(1, 0)] }] }

theorem witness_TrapEntryResults : Issues (sw wTrap) g0 p0 {} ∧ active g0 p0 never = [] ∧ active g0 p0 always ≠ [] ∧
    outstanding g0 p0 = [] ∧ p0.resume = none ∧ (wgOf (sw wTrap) 0 0).trapBase ≠ 0 ∧ p0.redo = none ∧
    Issues (sg gWaits) gWaits p0 {} ∧ active gWaits p0 always ≠ [] ∧ outstanding gWaits p0 ≠ [] ∧
    (∀ r ∈ outstanding gWaits p0, r.kind ≠ .value ∧ isLate r = false) ∧ Issues s0 g0 p0 {} ∧ (wgOf s0 0 0).trapBase = 0 ∧
    (launchOf s0 0).id = 0 ∧ (launchOf s0 0).completed = false ∧ Issues (sp pTrap) (gp pTrap) pTrap {} ∧ pTrap.resume.isSome = true :=
  ⟨issues0 _ _ _, rfl, by decide, rfl, rfl, by decide, rfl, ⟨rfl, rfl⟩, by decide, by decide, by decide, issues0 _ _ _, rfl, rfl, rfl,
    ⟨rfl, rfl⟩, rfl⟩

/-- P1 set in lanes 0 and 4: EXIT under that guard leaves both slices with lanes. -/
def gSome : Group := { g0 with p := [(0, 2), (4, 2)] }

theorem witness_TrapReturnResults : Issues (sp pTrap) (gp pTrap) pTrap {} ∧ outstanding (gp pTrap) pTrap = [] ∧
    pTrap.resume = some res0 ∧ res0.masks = pTrap.slices.map (fun j => (j, (sliceAt (gp pTrap) j).mask)) ∧ Issues s0 g0 p0 {} ∧
    p0.resume = none ∧ ({ res0 with masks := [(0, 7), (1, 15)] } : Resume).masks ≠ pTrap.slices.map fun j => (j, (sliceAt (gp pTrap) j).mask) :=
  ⟨⟨rfl, rfl⟩, rfl, rfl, rfl, issues0 _ _ _, rfl, by decide⟩

theorem witness_ExitResults : Issues (sg gSome) gSome p0 {} ∧ active g0 p0 never = [] ∧ active gWaits p0 always ≠ [] ∧
    outstanding gWaits p0 ≠ [] ∧ active gSome p0 never ≠ [] ∧ outstanding gSome p0 = [] ∧ p0.wait = .ready ∧
    (∀ j ∈ p0.slices, j < gSome.slices.length ∧
      (sliceAt gSome j).mask &&& ~~~ sliceMask j (active gSome p0 never) ≠ 0 ∧
      (sliceAt gSome j).live &&& (sliceAt gSome j).mask = (sliceAt gSome j).mask) ∧ gSome.forks = [] ∧ p0.slices ≠ [] ∧
    Issues s0 g0 p0 {} ∧ active g0 p0 always ≠ [] ∧ g0.splits = [p0] ∧ g0.forks = [] ∧
    (∀ j, (sliceAt g0 j).live &&& ~~~ sliceMask j (active g0 p0 always) = 0) :=
  ⟨⟨rfl, rfl⟩, rfl, by decide, by decide, by decide, rfl, rfl, by decide, rfl, by decide, issues0 _ _ _, by decide, rfl, rfl, by
    rintro (_ | _ | j)
    · decide
    · decide
    · rw [show sliceAt g0 (j + 2) = sliceAt g0 2 from rfl]; simp [show (sliceAt g0 2).live = 0 from rfl]⟩

/-- A group with a load whose bytes have not come. -/
def gLoads : Group :=
  { g0 with pend := [{ kind := .mem [0] [] [], pc := 0, owner := 255, lanes := 255, v := [(1, 0)] }] }

theorem witness_PublishResults : Issues (sl lChain) g0 p0 {} ∧ active g0 p0 never = [] ∧ active g0 p0 always ≠ [] ∧
    VOk g0 (active g0 p0 always) [63] ∧ (launchOf (sl lChain) 0).desc.kmax ≠ 0 ∧ 0 < (launchOf (sl lChain) 0).desc.slots ∧
    (∀ l ∈ active g0 p0 always, mget? (l * 4 + 0) g0.published = none) ∧
    relHeld (sl lChain) g0 (active g0 p0 always) (launchOf (sl lChain) 0).desc.chainScope = false ∧
    relHeld (dm gLoads w0 lChain) gLoads (active gLoads p0 always) (launchOf (sl lChain) 0).desc.chainScope = true ∧
    Issues (dm gLoads w0 lChain) gLoads p0 {} ∧ (launchOf (sl lChain) 0).desc.slots ≤ 1 ∧
    Issues s0 g0 p0 {} ∧ (launchOf s0 0).desc.kmax = 0 ∧
    (∃ l ∈ active gFwd pFwd always, (mget? (l * 4 + 0) gFwd.published).isSome = true) :=
  ⟨issues0 _ _ _, rfl, by decide, Or.inr (by decide), by decide, by decide, by decide, rfl, rfl, ⟨rfl, rfl⟩, by decide,
    issues0 _ _ _, rfl, ⟨0, by decide, rfl⟩⟩

/-- V1 of lane l holds 16 times l, and V2:V3 the same as an address; S4:S5 is the base 0. -/
def gAddr : Group := { g0 with v := (List.range 8).flatMap fun l => [(l * 256 + 1, BitVec.ofNat 32 (16 * l)),
  (l * 256 + 2, BitVec.ofNat 32 (16 * l))] }
/-- Two bytes further: misaligned in every lane for words. A base beyond the mapped 4 GiB: a translation fault in every lane. -/
def gOdd : Group := { gAddr with s := [(4, 2)] }
def gFar : Group := { gAddr with s := [(5, 1)] }

theorem witness_LoadResults : Issues (sg gAddr) gAddr p0 { rc := true, pol := true, imms := 2 } ∧
    VOk gAddr (active gAddr p0 always) (1 :: dataRegs 60 16) ∧ SOk gAddr [4, 5] ∧
    (∃ xs, Reaches (sg gAddr) gAddr .read true false 16 (laneAccesses gAddr p0 1 2 (active gAddr p0 always)) xs) ∧
    NoForwarding (sg gAddr).ms ∧ isVellum 112 = false ∧ viewParts (sg gAddr) 112 16 = [] ∧
    loadPoison (sg gAddr).ms 0 112 16 = [] ∧ 112 % 128 + 16 ≤ 128 :=
  ⟨⟨rfl, rfl⟩, Or.inr (by decide), by simp only [SOk]; decide, ⟨_, rfl, rfl, rfl⟩, by simp [NoForwarding, dm], rfl, rfl, rfl, by decide⟩

theorem witness_StoreResults : Issues (sg gAddr) gAddr p0 { pol := true, imms := 2 } ∧
    VOk gAddr (active gAddr p0 always) (1 :: dataRegs 60 16) ∧ SOk gAddr [4, 5] ∧
    (∃ xs, Reaches (sg gAddr) gAddr .write false true 16 (laneAccesses gAddr p0 1 2 (active gAddr p0 always)) xs) ∧
    NoForwarding (sg gAddr).ms :=
  ⟨⟨rfl, rfl⟩, Or.inr (by decide), by simp only [SOk]; decide, ⟨_, rfl, rfl, rfl⟩, by simp [NoForwarding, dm]⟩

theorem witness_AccessTrapResults : Issues (sg gOdd) gOdd p0 { pol := true, imms := 2 } ∧
    VOk gOdd (active gOdd p0 always) (1 :: dataRegs 5 4) ∧ SOk gOdd [4, 5] ∧
    (active gOdd p0 always).filter (fun l => decide (laneAddress gOdd p0 1 2 l % memBytes .b32 ≠ 0)) = [0, 1, 2, 3, 4, 5, 6, 7] ∧
    Issues (sg gFar) gFar p0 { rc := true, pol := true, imms := 2 } ∧ VOk gFar (active gFar p0 always) (1 :: dataRegs 5 4) ∧
    SOk gFar [4, 5] ∧ ∃ va level bad, checkLanes (sg gFar) (whoOf (sg gFar) gFar) .read false 1 4 4
      (laneAccesses gFar p0 1 2 (active gFar p0 always)) = .park va level bad :=
  ⟨⟨rfl, rfl⟩, Or.inr (by decide), by simp only [SOk]; decide, by decide, ⟨rfl, rfl⟩, Or.inr (by decide), by simp only [SOk]; decide,
    ⟨_, _, _, rfl⟩⟩

/-- A C-store window of one tile. -/
def lTile : Launch := { l0 with desc := { l0.desc with ctiles := 1 } }

theorem witness_TypedAccessResults : Issues (dm gAddr w0 lTile) gAddr p0 { imms := 2 } ∧
    VOk gAddr (active gAddr p0 always) (1 :: dataRegs 60 16) ∧ SOk gAddr [4, 5] ∧
    (∀ l ∈ active gAddr p0 always, laneAddress gAddr p0 1 2 l % memBytes .b128 = 0) ∧
    fenceHolds (dm gAddr w0 lTile) gAddr (active gAddr p0 always) [] = false ∧
    (∀ l ∈ active gAddr p0 always, laneAddress gAddr p0 1 2 l + memBytes .b128 ≤ aWindow w0) ∧
    (∀ l ∈ active gAddr p0 always, laneAddress gAddr p0 1 2 l + memBytes .b128 ≤ cWindow (dm gAddr w0 lTile) gAddr ∧
      openTile (dm gAddr w0 lTile) gAddr (laneAddress gAddr p0 1 2 l) (memBytes .b128) = false) ∧
    ((active gAddr p0 always).map (laneAddress gAddr p0 1 2)).Nodup ∧
    (∀ c ∈ w0.cores, mget 0 c w0.aBase + w0.aBytes ≤ 2 ^ 24) ∧ w0.cores.Nodup :=
  ⟨⟨rfl, rfl⟩, Or.inr (by decide), by simp only [SOk]; decide, by decide, rfl, by decide, by decide, by decide, by decide, by decide⟩

theorem witness_MultiWordResults : Issues (sg gAddr) gAddr p0 { pol := true, imms := 2 } ∧ active gAddr p0 always ≠ [] ∧
    VOk gAddr (active gAddr p0 always) (1 :: (List.range (1 + 1)).map (· + 62)) ∧ SOk gAddr [4, 5] ∧
    (∀ l ∈ active gAddr p0 always, laneAddress gAddr p0 1 2 l % 4 = 0) ∧
    (List.range (1 + 1)).filter (fun i => decide (p0.progress ≤ i)) = [0, 1] ∧ Issues (sg gAddr) gAddr p0 { rc := true, pol := true, imms := 2 } ∧
    (∃ rs, scanWords (sg gAddr) gAddr .read false (laneAccesses gAddr p0 1 2 (active gAddr p0 always)) [0, 1] = (rs, .whole) ∧
      rs.flatMap (fun x => lanePart (eff gAddr 62 + x.1) 4 false (polOf (sg gAddr) gAddr p0) x.1
        ((laneAccesses gAddr p0 1 2 (active gAddr p0 always)).map fun z => (z.1, (z.2 + 4 * x.1) % 2 ^ 64)) x.2) ≠ []) ∧
    (∃ rs, scanWords (sg gAddr) gAddr .write true (laneAccesses gAddr p0 1 2 (active gAddr p0 always)) [0, 1] = (rs, .whole)) ∧
    (∃ rs, scanWords (sg gAddr) gAddr .read false [] [] = (rs, .whole) ∧ rs = []) :=
  ⟨⟨rfl, rfl⟩, by decide, Or.inr (by decide), by simp only [SOk]; decide, by decide, by decide, ⟨rfl, rfl⟩, ⟨_, rfl, by decide⟩, ⟨_, rfl⟩,
    ⟨_, rfl, rfl⟩⟩

theorem witness_ScalarMemoryResults : guardQ g0 always = true ∧ SOk g0 ([510, 4, 5] ++ [511]) ∧ Issues s0 g0 p0 { pol := true, imms := 2 } ∧
    Issues s0 g0 p0 { rc := true, pol := true, imms := 2 } ∧
    (∃ xs, checkObject s0 (whoOf s0 g0) (laneBits (enabled g0 p0)) .read false 1 8 8 248 = .ok xs) ∧
    (∃ xs, checkObject s0 (whoOf s0 g0) (laneBits (enabled g0 p0)) .write false 2 8 8 248 = .ok xs) ∧
    watchTrap s0 g0 true false 8 [(0, 248)] = none ∧ watchTrap s0 g0 false true 8 [(0, 248)] = none ∧
    fenceHolds s0 g0 (enabled g0 p0) [(248, 8)] = false :=
  ⟨rfl, by simp only [SOk]; decide, issues0 _ _ _, issues0 _ _ _, ⟨_, rfl⟩, ⟨_, rfl⟩, rfl, rfl, rfl⟩
theorem witness_ScalarMemoryResults_value : ∃ l a, checkObject s0 (whoOf s0 g0) (laneBits (enabled g0 p0)) .read false 1 8 8 248 =
    .ok [(l, 248, a)] ∧ isVellum 248 = false ∧ viewParts (noteAll s0 (whoOf s0 g0) [248]) 248 8 = [] ∧ 248 % 128 + 8 ≤ 128 ∧
    loadPoison (loadLine 0 0 a (polOf (noteAll s0 (whoOf s0 g0) [248]) g0 p0) (lineOf 248) (noteAll s0 (whoOf s0 g0) [248]).ms).1
      0 248 8 = [] := ⟨_, _, rfl, by decide, by decide, by decide, by decide +kernel⟩

theorem witness_AtomicResults : Issues (sg gAddr) gAddr p0 {} ∧ NoPoison (sg gAddr).ms ∧
    (∀ c, relHeld (sg gAddr) gAddr (active gAddr p0 always) c = false) ∧
    VOk gAddr (active gAddr p0 always) ([2, 3] ++ dataRegs 4 8 ++ dataRegs 6 8) ∧
    (∃ xs, Reaches (sg gAddr) gAddr .atomic true true 8 ((active gAddr p0 always).map fun l => (l, (pairVal gAddr l 2).toNat)) xs) ∧
    (∃ xs, Reaches (sg gAddr) gAddr .atomicRead true false 8 ((active gAddr p0 always).map fun l => (l, (pairVal gAddr l 2).toNat)) xs) ∧
    (∃ xs, Reaches (sg gAddr) gAddr .atomic false true 4 ((active gAddr p0 always).map fun l => (l, (pairVal gAddr l 2).toNat)) xs) ∧
    NoForwarding (sg gAddr).ms :=
  ⟨⟨rfl, rfl⟩, ⟨by simp [dm], by simp [dm]⟩, by intro c; cases c <;> rfl, Or.inr (by decide), ⟨_, rfl, rfl, rfl⟩, ⟨_, rfl, rfl, rfl⟩,
    ⟨_, rfl, rfl, rfl⟩, by simp [NoForwarding, dm]⟩

/-- P1 set in lane 7 alone; its address is 112. -/
def gOne : Group := { gAddr with p := [(7, 2)] }
theorem witness_AtomicResults_one : Issues (sg gOne) gOne p0 {} ∧ active gOne p0 ⟨false, 1⟩ = [7] ∧ NoPoison (sg gOne).ms ∧
    NoForwarding (sg gOne).ms ∧ loadsOut gOne [7] = false ∧ (physOf false 112).isDram = true ∧ ({} : Attr).cm = 0 ∧
    (sg gOne).ms.dram.nRanges = [] ∧ 112 % 128 + 8 ≤ 128 ∧ (sg gOne).ms.cache.l1 = [] ∧ (sg gOne).ms.cache.team = [] ∧
    (sg gOne).ms.cache.wc = [] ∧ (sg gOne).ms.cache.homePins = [] ∧ (sg gOne).ms.cache.teamPins = [] ∧ (sg gOne).ms.cache.amsgs = [] ∧
    (sg gOne).ms.cache.peerWrites = [] ∧ VOk gOne [7] ([2, 3] ++ dataRegs 4 8 ++ dataRegs 6 8) ∧
    (∃ a, Reaches (sg gOne) gOne .atomic true true 8 [(7, (pairVal gOne 7 2).toNat)] [(7, 112, a)] ∧ a.cm = 0 ∧ a.n = false) ∧
    (∃ a, Reaches (sg gOne) gOne .atomicRead true false 8 [(7, (pairVal gOne 7 2).toNat)] [(7, 112, a)] ∧ a.cm = 0 ∧ a.n = false) ∧
    ∃ a, Reaches (sg gOne) gOne .atomic false true 8 [(7, (pairVal gOne 7 2).toNat)] [(7, 112, a)] ∧ a.cm = 0 ∧ a.n = false :=
  ⟨⟨rfl, rfl⟩, by decide, ⟨by simp [dm], by simp [dm]⟩, by simp [NoForwarding, dm], rfl, rfl, rfl, rfl, by decide, rfl, rfl, rfl, rfl,
    rfl, rfl, rfl, Or.inr (by decide), ⟨_, ⟨rfl, rfl, rfl⟩, rfl, rfl⟩, ⟨_, ⟨rfl, rfl, rfl⟩, rfl, rfl⟩, ⟨_, ⟨rfl, rfl, rfl⟩, rfl, rfl⟩⟩

/-- Messages that have been posted: the third waits for the first. The same where their atom is poisoned. -/
def sAmsg : State :=
  { s0 with ms := { s0.ms with cache := { s0.ms.cache with
      amsgs := [⟨0, 0, 0, 0x100, .add, 4, 1⟩, ⟨0, 1, 0, 0x100, .add, 4, 1⟩, ⟨0, 0, 0, 0x100, .add, 4, 1⟩] } } }
def sAmsgBad : State := { sAmsg with ms := { sAmsg.ms with dram := { sAmsg.ms.dram with flags := [(8, { p := true })] } } }

theorem witness_ActiveMessageResults : Issues (sg gAddr) gAddr p0 {} ∧
    VOk gAddr (active gAddr p0 always) ((List.range 4).map (· + 2 * 1)) ∧
    (∃ xs, checkLanes (sg gAddr) (whoOf (sg gAddr) gAddr) .amsg true 3 8 8
      ((active gAddr p0 always).map fun l => (l, (pairVal gAddr l ((1 : BitVec 5) ++ 0#1)).toNat)) = .ok xs) ∧
    watchTrap (sg gAddr) gAddr true true 8 ((active gAddr p0 always).map fun l => (l, (pairVal gAddr l ((1 : BitVec 5) ++ 0#1)).toNat)) =
      none ∧
    fenceHolds (sg gAddr) gAddr (active gAddr p0 always)
      (rangesOf 8 ((active gAddr p0 always).map fun l => (l, (pairVal gAddr l ((1 : BitVec 5) ++ 0#1)).toNat))) = false ∧
    NoForwarding (sg gAddr).ms ∧ sAmsg.ms.cache.amsgs[1]? = some ⟨0, 1, 0, 0x100, .add, 4, 1⟩ ∧
    (∀ e ∈ sAmsg.ms.cache.amsgs.take 1, ¬ (e.group = 0 ∧ e.lane = 1 ∧ sliceNo e.pa = sliceNo 0x100)) ∧
    sAmsg.ms.cache.amsgs[2]? = some ⟨0, 0, 0, 0x100, .add, 4, 1⟩ ∧
    (∃ e ∈ sAmsg.ms.cache.amsgs.take 2, e.group = 0 ∧ e.lane = 0 ∧ sliceNo e.pa = sliceNo 0x100) ∧ sAmsg.ms.cache.homePins = [] ∧
    NoPoison sAmsg.ms ∧ NoForwarding sAmsg.ms ∧ (physOf false 0x100).isDram = true ∧ sAmsgBad.ms.cache.homePins = [] ∧
    NoForwarding sAmsgBad.ms ∧ poisonedAtoms sAmsgBad.ms.dram 0x100 4 ≠ [] ∧
    sAmsgBad.ms.cache.amsgs[1]? = some ⟨0, 1, 0, 0x100, .add, 4, 1⟩ :=
  ⟨⟨rfl, rfl⟩, Or.inr (by decide), ⟨_, rfl⟩, rfl, rfl, by simp [NoForwarding, dm], rfl, by decide, rfl,
    ⟨⟨0, 0, 0, 0x100, .add, 4, 1⟩, by decide, rfl, rfl, rfl⟩, rfl, ⟨by simp [sAmsg, dm], by simp [sAmsg, dm]⟩,
    by simp [NoForwarding, sAmsg, dm], rfl, rfl, by simp [NoForwarding, sAmsgBad, sAmsg, dm],
    by decide, rfl⟩

theorem witness_StoreThenLoadResults : NoForwarding s0.ms ∧ (physOf false 0x17C).isDram = true ∧ ({} : Attr).cm = 0 ∧
    ({} : Attr).n = false ∧ s0.ms.dram.nRanges = [] ∧ ({} : Pol).code ≠ 2 ∧ 0x17C % 128 + [1, 2, 3, (4 : Byte)].length ≤ 128 ∧
    (∀ c, c ∈ s0.ms.cache.l1 ∨ c ∈ s0.ms.cache.team → c.bytes.length = 128) ∧ s0.ms.cache.homePins = [] ∧
    s0.ms.cache.teamPins = [] :=
  ⟨by simp [NoForwarding, dm], rfl, rfl, rfl, rfl, by decide, by decide, by simp [dm], rfl, rfl⟩

/-- S4:S5 names the byte barrier at 0 of the A store, or of memory; S6 and S8:S9 hold counts. -/
def gBar : Group := { g0 with s := [(6, 1), (8, 5)] }
/-- The barrier in memory with its phase at 1; with an error. -/
def sBar (b : Bar) : State := writeBar (sg gBar) (.dram 0) b

theorem witness_ByteBarrierResults : Issues (sg gBar) gBar p0 {} ∧ guardQ gBar always = true ∧ SOk gBar [4, 5] ∧
    (getS64 gBar 4).toNat = 0 ∧ fenceHolds (sg gBar) gBar (enabled gBar p0) [(0, 16)] = false ∧
    flushBar (sg gBar) (.dram 0) (some 0) = sg gBar ∧ findGroup (sg gBar) gBar.id = some gBar ∧
    placeBar (sg gBar) gBar (allOf gBar p0) 3 true 0 = .at (.dram 0) ∧
    placeBar (sg gBar) gBar (allOf gBar p0) 3 false 0 = .at (.astore 0 0) ∧
    (getS gBar 6).toNat = 1 ∧ (getS { gBar with s := [(6, 65535)] } 6).toNat < 65536 ∧ SOk gBar [6] ∧ SOk gBar [8, 9] ∧
    (readBar (sg gBar) (.dram 0)).pending + (getS64 gBar 8).toNat < 2 ^ 48 ∧
    (∀ gl, relHeld (sg gBar) gBar (enabled gBar p0) (barScope (sg gBar) gBar gl) = false) ∧
    placeBar (sg gBar) gBar (allOf gBar p0) 0 true 0 = .at (.dram 0) ∧ (readBar (sg gBar) (.dram 0)).err = 0 ∧
    (readBar (sg gBar) (.dram 0)).phase ≠ true ∧ (readBar (sg gBar) (.dram 0)).phase = false ∧
    (readBar (sBar { readBar (sg gBar) (.dram 0) with err := 3 }) (.dram 0)).err = 3 :=
  ⟨⟨rfl, rfl⟩, rfl, by simp only [SOk]; decide, rfl, rfl, rfl, rfl, by decide, by decide, by decide, by decide,
    by simp only [SOk]; decide, by simp only [SOk]; decide, by decide, by decide, by decide, by decide, by decide, by decide, by decide⟩

/-- Updates on their way to a barrier that waits for one arrival and 5 bytes. -/
def sUpd : State :=
  let s := writeBar s0 (.astore 0 0) { readBar s0 (.astore 0 0) with init := 1, arrivals := 1, pending := 5 }
  { s with copies := { s.copies with updates := [⟨.astore 0 0, .arrive, some 0⟩, ⟨.astore 0 0, .deliver 5, some 0⟩,
      ⟨.astore 0 0, .deliver 6, some 0⟩, ⟨.astore 1 0, .arrive, none⟩, ⟨.dram 0, .deliver 0, none⟩] } }

theorem witness_BarrierUpdateResults : sUpd.copies.updates[0]? = some ⟨.astore 0 0, .arrive, some 0⟩ ∧ (readBar sUpd (.astore 0 0)).arrivals ≠ 0 ∧
    sUpd.copies.updates[3]? = some ⟨.astore 1 0, .arrive, none⟩ ∧ (readBar sUpd (.astore 1 0)).arrivals = 0 ∧
    sUpd.copies.updates[1]? = some ⟨.astore 0 0, .deliver 5, some 0⟩ ∧ 5 ≤ (readBar sUpd (.astore 0 0)).pending ∧
    sUpd.copies.updates[2]? = some ⟨.astore 0 0, .deliver 6, some 0⟩ ∧ (readBar sUpd (.astore 0 0)).pending < 6 ∧
    (∀ h ∈ s0.sched.groups, ∀ q ∈ h.splits, ∀ pl a ph, q.wait ≠ .byteBarrier pl a ph) ∧
    (readBar sUpd (.astore 0 0)).high < 2 ^ 44 ∧ (readBar sUpd (.astore 0 0)).err < 8 ∧ (physOf false 0).isDram = true ∧
    NoForwarding s0.ms :=
  ⟨rfl, by decide, rfl, by decide, rfl, by decide, rfl, by decide, by simp [dm, g0, p0], by decide, by decide, rfl,
    by simp [NoForwarding, dm]⟩

/-- A fence that waits for nothing; one that waits for a load; the links are up. -/
def fence0 (rel : Bool) : FenceRec :=
  { id := 0, group := 0, core := 0, launch := 0, wg := 0, split := 0, lanes := 255, acq := true, rel := rel, scope := .dev, range := none,
    q := none, blocks := [], isView := false }
def sFence (g : Group) (f : FenceRec) : State :=
  let s := sg g
  { s with ms := { s.ms with cache := { s.ms.cache with fences := [f] } }, plat := { s.plat with linkUp := 1 } }

theorem witness_FenceResults : Issues s0 g0 p0 {} ∧ SOk g0 ((List.range 4).map (508 + ·)) ∧
    (getS64 g0 508).toNat + (getS64 g0 510).toNat ≤ 2 ^ 64 ∧ SOk g0 ((List.range 4).map (2 * 62 + ·)) ∧
    (getS64 { g0 with s := [(4, 0xFFFF_FFFF), (5, 0xFFFF_FFFF), (6, 1)] } 4).toNat +
      (getS64 { g0 with s := [(4, 0xFFFF_FFFF), (5, 0xFFFF_FFFF), (6, 1)] } 6).toNat ≤ 2 ^ 64 ∧
    (∀ rel, (sFence g0 (fence0 rel)).ms.cache.fences[0]? = some (fence0 rel)) ∧ (fence0 true).isView = false ∧
    (fence0 true).scope ≠ .sys ∧ (sFence g0 (fence0 true)).plat.linkUp ≠ 0 ∧ findGroup (sFence g0 (fence0 true)) 0 = some g0 ∧
    loadsOut g0 ((List.range 128).filter fun l => (255 : BitVec 128).getLsbD l) = false ∧
    findGroup (sFence gLoads (fence0 true)) 0 = some gLoads ∧
    loadsOut gLoads ((List.range 128).filter fun l => (255 : BitVec 128).getLsbD l) = true :=
  ⟨issues0 _ _ _, by simp only [SOk]; decide, by decide, by simp only [SOk]; decide, by decide, fun _ => rfl, rfl, by decide, by decide,
    rfl, by decide, rfl, by decide⟩

/-- Two groups of one workgroup, so that one alone does not complete a barrier; a launch whose workgroups run at once. -/
def g1 : Group := { g0 with id := 1, index := 1 }
def sTwo : State := { s0 with sched := { s0.sched with groups := [g0, g1] } }
def lCad : Launch := { l0 with desc := { l0.desc with cosched := true } }
/-- A group whose counter stands at 3, and one of whose splits waits for it. -/
def pPhase : Split := { p0 with wait := .phase 3 1 }
def gPhase : Group := { gp pPhase with phase := 3 }

theorem witness_GroupWaitResults : Issues s0 g0 p0 {} ∧ (∀ c, relHeld s0 g0 (enabled g0 p0) c = false) ∧ Issues sTwo g0 p0 {} ∧
    (∃ h ∈ sTwo.sched.groups, h.launch = g0.launch ∧ h.wg = g0.wg ∧ ∃ q ∈ h.splits, q.wait ≠ .bar) ∧
    (launchOf (sl lCad) 0).desc.cosched = true ∧ Issues (sl lCad) g0 p0 {} ∧ cadReach .team g0 g1 = true ∧ g0.phase < 1 ∧ 0 ≤ g0.phase ∧
    (∀ m ∈ segsOf p0, segOut s0 g0 m ≤ 0) ∧ g0.splits = [p0] ∧ p0.wait = .ready ∧ g0.pend = [] ∧
    findGroup (sg gPhase) 0 = some gPhase ∧ findSplit gPhase 0 = some pPhase ∧ pPhase.wait = .phase 3 1 ∧ 3 ≤ gPhase.phase :=
  ⟨issues0 _ _ _, by intro c; cases c <;> rfl, ⟨rfl, rfl⟩, ⟨g1, by decide, rfl, rfl, p0, by decide, by decide⟩, rfl, issues0 _ _ _, rfl, by decide,
    by decide,
    by decide, rfl, rfl, rfl, rfl, rfl, rfl, by decide⟩
/-- The states that BAR and CAD leave, with all arrived and with one group still to arrive. -/
theorem witness_GroupWaitResults_arrivals :
    (∀ h ∈ (putGroup s0 (putSplit g0 { p0 with wait := .bar })).sched.groups, ∀ q ∈ h.splits, q.wait = .bar) ∧
    (∀ h ∈ (putGroup (sl lCad) (putSplit g0 { p0 with wait := .cad .team })).sched.groups, ∀ q ∈ h.splits, q.wait = .cad .team) ∧
    ∃ h ∈ (putGroup sTwo (putSplit g0 { p0 with wait := .cad .die })).sched.groups, cadReach .die g0 h = true ∧
      ∃ q ∈ h.splits, q.wait ≠ .cad .die := by decide

/-- The state with bytes placed in memory. -/
def placing (s : State) (mem : List (Nat × List Byte)) : State :=
  { s with ms := { s.ms with mem := mem.foldl (fun m x => setBytes m x.1 x.2) s.ms.mem } }

/-- A ring of 16 records at 0x2000 with its header at 0x1000, WIDX and RIDX given, and the SEQ of its first record. -/
def sRing (widx ridx seq : Nat) (g : Group) : State :=
  placing (sg g) [(0x1000, leBytes 8 0x2000), (0x1008, leBytes 8 4), (0x1010, leBytes 8 widx), (0x1018, leBytes 8 ridx),
    (0x2004, leBytes 4 seq)]
/-- S4:S5 names the header; S6 is a timeout in microseconds; a split asleep with its time over. -/
def gRing : Group := { g0 with s := [(4, 0x1000), (6, 10)] }
def pSleep : Split := { p0 with wait := .sleep 0x1000 (some 0) }

theorem witness_RingResults : Issues (sRing 1 0 1 gRing) gRing p0 {} ∧ guardQ gRing always = true ∧
    SOk gRing (2 * 2 :: (2 * 2 + 1) :: (List.range 8).map (8 * 7 + ·)) ∧ (getS64 gRing 4).toNat = 0x1000 ∧
    (∃ t r, checkObject (sRing 1 0 1 gRing) (whoOf (sRing 1 0 1 gRing) gRing) (allOf gRing p0) .object true 5 64 64 0x1000 =
      .ok ((0, 0x1000, t) :: r)) ∧ leNat (readHome (sRing 1 0 1 gRing).ms 0x1008 1) = 4 ∧
    leNat (readHome (sRing 1 0 1 gRing).ms 0x1018 8) = 0 ∧ leNat (readHome (sRing 1 0 1 gRing).ms 0x1000 8) = 0x2000 ∧
    (∃ t r, checkObject (sRing 1 0 1 gRing) (whoOf (sRing 1 0 1 gRing) gRing) (allOf gRing p0) .read true 5 32 32 0x2000 =
      .ok ((0, 0x2000, t) :: r)) ∧
    fenceHolds (sRing 1 0 1 gRing) gRing (enabled gRing p0) [(0x1000, 64), (0x2000, 32)] = false ∧
    ((bytesWords (readHome (sRing 1 0 1 gRing).ms 0x2000 32)).getD 1 0).toNat = (0 + 1) % 2 ^ 32 ∧
    ((bytesWords (readHome (sRing 0 0 0 gRing).ms 0x2000 32)).getD 1 0).toNat ≠ (0 + 1) % 2 ^ 32 :=
  ⟨⟨rfl, rfl⟩, rfl, by simp only [SOk]; decide, by decide, ⟨_, _, rfl⟩, by decide, by decide, by decide, ⟨_, _, rfl⟩, rfl, by decide,
    by decide⟩
theorem witness_RingResults_sleep : Issues (sRing 0 0 0 gRing) gRing p0 {} ∧ SOk gRing [4, 5, 6] ∧
    (∃ t r, checkObject (sRing 0 0 0 gRing) (whoOf (sRing 0 0 0 gRing) gRing) (allOf gRing p0) .read true 5 64 64 0x1000 =
      .ok ((0, 0x1000, t) :: r)) ∧ findGroup (sp pSleep) 0 = some (gp pSleep) ∧ findSplit (gp pSleep) 0 = some pSleep ∧
    pSleep.wait = .sleep 0x1000 (some 0) ∧ 0 ≤ (sp pSleep).clock.ps ∧ Issues s0 g0 p0 {} ∧ guardQ g0 always = true ∧
    SOk g0 [2 * 63, 2 * 63 + 1] :=
  ⟨⟨rfl, rfl⟩, by simp only [SOk]; decide, ⟨_, _, rfl⟩, rfl, rfl, rfl, Nat.zero_le _, issues0 _ _ _, rfl, by simp only [SOk]; decide⟩
/-- A record of a producer that goes to the header's physical address. -/
def rec0 (index : Option Nat) : RingRec :=
  { header := 0x1000, asid := none, die := 0, words := List.replicate 8 1, source := 0, unit := 0, index := index }
def sRec (index : Option Nat) (widx : Nat) : State :=
  let s := sRing widx 0 0 g0
  { s with copies := { s.copies with rings := [rec0 index] } }
theorem witness_RingResults_record : (∀ i, (sRec i 15).copies.rings[0]? = some (rec0 i)) ∧ (rec0 none).parked = none ∧
    (rec0 none).stopped = false ∧ (rec0 none).words.length = 8 ∧ ringHeld (sRec none 15) 0 (rec0 none) = false ∧
    ringHeld (sRec (some 16) 17) 0 (rec0 (some 16)) = false ∧
    (∃ t, ringAddr (sRec none 15) (rec0 none) .object 0x1000 64 = .ok 0x1000 t) ∧ (takeIndex (sRec none 15) 0 (rec0 none) 0x1000).2 = 15 ∧
    15 - leNat (readHome (takeIndex (sRec none 15) 0 (rec0 none) 0x1000).1.ms 0x1018 8) < 2 ^ 4 ∧
    leNat (readHome (takeIndex (sRec none 15) 0 (rec0 none) 0x1000).1.ms 0x1008 1) = 4 ∧
    (∃ t, ringAddr (takeIndex (sRec none 15) 0 (rec0 none) 0x1000).1 (rec0 none) .object 0x21E0 32 = .ok 0x21E0 t) ∧
    (takeIndex (sRec (some 16) 17) 0 (rec0 (some 16)) 0x1000).2 = 16 ∧ 2 ^ 4 ≤ 16 - leNat (readHome (sRec (some 16) 17).ms 0x1018 8) ∧
    (physOf false 0x1010).isDram = true ∧ (physOf false 0x21E0).isDram = true ∧ NoForwarding (sRec none 15).ms :=
  ⟨fun _ => rfl, rfl, rfl, rfl, by decide, by decide, ⟨_, rfl⟩, by decide, by decide +kernel, by decide +kernel, ⟨_, rfl⟩, rfl, by decide, rfl, rfl,
    by simp [NoForwarding, sRec, sRing, placing, dm]⟩

/-- S16 on: a copy of 64 words from address 0 to 0x100 of the A store, with its barrier at 0 there; S14:S15 is its slice. S40 on: a
gather of four elements of 8 bytes, bound 100, with its indices in the A store. -/
def drayWords : List Word := [0, 0, 0x100, 0, 0x0A, 0, 0, 0, 63] ++ List.replicate 13 0
def gathWords : List Word := [0, 0, 0x800, 0, 0x100, 8, 4, 100, 0, 0]
def copyRegs : List (Nat × Word) := (15, 64) :: (drayWords.zipIdx.map fun x => (16 + x.2, x.1)) ++ gathWords.zipIdx.map fun x => (40 + x.2, x.1)
def gCopy : Group := { g0 with s := copyRegs }
def sCopyTwo : State := { sg gCopy with sched := { (sg gCopy).sched with groups := [gCopy, g1] } }

theorem witness_CopyStartResults : Issues (sg gCopy) gCopy p0 {} ∧ SOk gCopy ((List.range 22).map (16 + ·) ++ [14, 15]) ∧
    fullGang gCopy p0 = true ∧ (List.range 22).map (fun i => getS gCopy (16 + i)) = drayWords ∧ wgOf (sg gCopy) 0 0 = w0 ∧
    w0 ∈ (sg gCopy).sched.wgs ∧ w0.dray = [] ∧ drayCheck (sg gCopy) gCopy p0 drayWords false 0 64 = .ok (.astore 0 0) ∧
    fenceHolds (sg gCopy) gCopy (enabled gCopy p0) [] = false ∧ loadsOut gCopy (enabled gCopy p0) = false ∧
    (∀ x ∈ (sg gCopy).copies.updates, x.1 ≠ BarPlace.astore 0 0) ∧
    (∃ h ∈ sCopyTwo.sched.groups, h.launch = w0.launch ∧ h.wg = w0.wg ∧ h.index ≠ gCopy.index) ∧
    drayCheck sCopyTwo gCopy p0 drayWords false 0 64 = .ok (.astore 0 0) ∧ (readBar sCopyTwo (.astore 0 0)).arrivals < 65535 ∧
    (∀ h ∈ (sg gCopy).sched.groups, h.launch = w0.launch → h.wg = w0.wg → h.index = gCopy.index) ∧ w0.cores = [gCopy.core] ∧
    chanFull (sg gCopy) gCopy.core 0 = false ∧ (64 : Nat) ≠ 0 ∧ 0 < drLast drayWords ∧ 0 < drRow drayWords :=
  ⟨⟨rfl, rfl⟩, by simp only [SOk]; decide, rfl, by decide, rfl, by decide, rfl, by decide +kernel, rfl, rfl, by decide,
    ⟨g1, by decide, rfl, rfl, by decide⟩, by decide +kernel, by decide, by simp [dm], rfl, rfl, by decide, by decide, by decide⟩
theorem witness_CopyStartResults_gather : guardQ gCopy always = true ∧ SOk gCopy ((List.range 10).map (40 + ·)) ∧
    (List.range 10).map (fun i => getS gCopy (40 + i)) = gathWords ∧ gathAlign gathWords (allOf gCopy p0) = none ∧
    gathPerm (sg gCopy) gCopy gathWords (allOf gCopy p0) = none ∧ nbit (dw gathWords 5) 11 = false ∧ dw64 gathWords 8 = 0 ∧
    placeBar (sg gCopy) gCopy (allOf gCopy p0) 5 false 0 = .at (.astore 0 0) ∧ chanFull (sg gCopy) gCopy.core 5 = false ∧
    flushBar (sg gCopy) (.astore 0 0) (some 0) = sg gCopy ∧ findGroup (sg gCopy) gCopy.id = some gCopy ∧
    (readBar (sg gCopy) (.astore 0 0)).pending + dw gathWords 6 * stSize gathWords < 2 ^ 48 :=
  ⟨rfl, by simp only [SOk]; decide, by decide, by decide, by decide, by decide, by decide, by decide, rfl, rfl, rfl, by decide⟩

/-- Jobs at the head of a channel: the copy and the gather above, and a decompression of one stored block of 8 bytes at 0. -/
def jDray : CopyJob :=
  { launch := 0, wg := 0, core := 0, asid := 0, isSealed := false, gather := false, dec := false, words := drayWords,
    slices := [(0, 64)], bar := some (.astore 0 0) }
def jGath : CopyJob := { jDray with gather := true, words := gathWords, slices := [] }
def jDec : CopyJob := { jDray with dec := true, slices := [] }
/-- The indices are 7 and 250, one within the bound and one beyond; the page of the block is a compressed source. -/
def sJob (j : CopyJob) : State :=
  let s := placing (putChan s0 (chanKey 0 0) { jobs := [j] }) [(loadTable, leBytes 8 (0x1F + 2 ^ 56)), (0, leBytes 8 0x8_0000_0800),
    (8, [1, 2, 3, 4, 5, 6, 7, 8])]
  { s with cores := { s.cores with astore := (0x800, 7) :: (0x804, 250) :: s.cores.astore } }

/-- The read gives bytes. -/
def readOk : EngRead → Bool
  | .ok _ _ => true
  | _ => false

theorem witness_CopyDeliveryResults : (chanOf (sJob jDray) (chanKey 0 0)).jobs = [jDray] ∧ chanReady (sJob jDray) (chanKey 0 0) = true ∧
    jobSpot jDray = (0, 256) ∧ min 256 (128 - (jobDst jDray + 0) % 128) = 128 ∧
    readOk (engReads (whoJob jDray) 0 (jobCls (sJob jDray) jDray) false [] ((List.range (128 / drSize drayWords)).map fun i =>
      (drElem drayWords (0 / drSize drayWords + i), drSize drayWords)) (sJob jDray) []) = true ∧
    chanReady (sJob jGath) (chanKey 0 0) = true ∧
    (∃ u ib, gatherIndex (sJob jGath) jGath 0 = .ok u ib ∧ leNat ib = 7) ∧
    (∃ u ib, gatherIndex (sJob jGath) jGath 1 = .ok u ib ∧ leNat ib = 250) ∧ dw gathWords 7 = 100 ∧
    readOk (engReads (whoJob jGath) 0 (jobCls (sJob jGath) jGath) false [] ((List.range (stSize gathWords / 4)).map fun i =>
      ((dw64 gathWords 0 + 7 * stSize gathWords + 4 * i) % 2 ^ 64, 4)) (sJob jGath) []) = true :=
  ⟨rfl, rfl, by decide, by decide, by decide +kernel, rfl, ⟨_, _, rfl, by decide⟩, ⟨_, _, rfl, by decide⟩, by decide,
    by decide +kernel⟩

theorem witness_CopyDeliveryResults_blocks : chanReady (sJob jDec) (chanKey 0 0) = true ∧ jDec.dec = true ∧
    (∃ u hb, engReads (whoJob jDec) 0 (jobCls (sJob jDec) jDec) true [] (lineCuts 0 8) (sJob jDec) [] = .ok u hb ∧
      leNat hb = 0x8_0000_0800) ∧ hdrOk 0x8_0000_0800 = true ∧
    (∃ u pb, engReads (whoJob jDec) 0 (jobCls (sJob jDec) jDec) true [] (lineCuts 8 (hdrLen 0x8_0000_0800)) (sJob jDec) [] = .ok u pb ∧
      decodeBlock 0x8_0000_0800 pb = some [1, 2, 3, 4, 5, 6, 7, 8]) :=
  ⟨rfl, rfl, ⟨_, _, rfl, by decide⟩, by decide, ⟨_, _, rfl, by decide⟩⟩
/-- A chunk that a peer has not acknowledged; and a chunk for the A store. -/
def sAck : State := { sJob jDray with copies := { (sJob jDray).copies with peerChunks := [(chanKey 0 0, 128, 1)] } }
theorem witness_CopyDeliveryResults_places : sAck.copies.peerChunks[0]? = some (chanKey 0 0, 128, 1) ∧
    (chanOf { sAck with copies := { sAck.copies with peerChunks := [] } } (chanKey 0 0)).jobs = [jDray] ∧ jobSpace jDray = 0 ∧
    w0 = wgOf (sJob jDray) 0 0 ∧ w0.groupsLeft ≠ 0 ∧ w0.cores.Nodup ∧ (∀ c ∈ w0.cores, mget 0 c w0.aBase + w0.aBytes ≤ 2 ^ 24) ∧
    jobDst jDray + 0 + 128 ≤ aWindow w0 ∧ jDray.bar = some (.astore 0 0) :=
  ⟨rfl, rfl, by decide, rfl, by decide, by decide, by decide, by decide, rfl⟩

/-- E4M3 operands; the record of a stencil at S16, of A rows at S24, the tile's address at S32; one stencil and one tile. -/
def pYoke : Split := { p0 with fmt := 0x33 }
def stencilWords : List Word := [0, 0, 64, 130033, 0, 0, 0, 0]
def rowWords : List Word := [0, 0, 64, 1, 0, 0, 0, 0]
def yokeRegs : List (Nat × Word) := (stencilWords.zipIdx.map fun x => (16 + x.2, x.1)) ++ rowWords.zipIdx.map fun x => (24 + x.2, x.1)
def gYoke : Group := { gp pYoke with s := yokeRegs }
def lYoke : Launch := { l0 with desc := { l0.desc with stencils := 1, ctiles := 1 } }
def wYoke : Workgroup := { w0 with slots := [(0, [0])] }
/-- Slot 0 is loaded with a stencil of class 0; requests wait and run. -/
def req (id : Nat) (load : Bool) : YokeReq :=
  { id := id, no := id, core := 0, launch := 0, wg := 0, group := 0, seg := 0, isLoad := load, slot := 0, prio := 0, entered := 0, tile := 0,
    aReg := 0, record := if load then some stencilWords else none, fmt := 0x33, spa := 0, neg := false, nacc := false, had := 0,
    sat := false, uns := false, openA := false }
def sYoke (yk : Yoke) : State := let s := dm gYoke wYoke lYoke; { s with cores := { s.cores with yokes := [(0, yk)] } }
def ykLoaded : Yoke := { planes := [(0, { cls := 0 })] }

theorem witness_YokePostResults : Issues (sYoke ykLoaded) gYoke pYoke { z := true, had := true } ∧ guardQ gYoke always = true ∧
    SOk gYoke ((List.range 8).map (16 + ·)) ∧ yokeFmtCheck (.ldstn false always 0 16) gYoke pYoke (fmtB pYoke.fmt) = none ∧
    (0 : BitVec 5).toNat < (launchOf (sYoke ykLoaded) 0).desc.stencils ∧
    (List.range 8).map (fun i => getS gYoke (16 + i)) = stencilWords ∧
    ldstnShape (sYoke ykLoaded) gYoke (fmtB pYoke.fmt) pYoke.fmt stencilWords (allOf gYoke pYoke) = none ∧
    yokeRoom (yokeOf (sYoke ykLoaded) (teamOf 0)) 0 0 0 1 = true :=
  ⟨⟨rfl, rfl⟩, rfl, by simp only [SOk]; decide, by decide, by decide, by decide, by decide +kernel, by decide⟩
theorem witness_YokePostResults_mma : Issues (sYoke ykLoaded) gYoke pYoke { z := true, sat := true, had := true } ∧
    mmaSegs gYoke pYoke never = ([], []) ∧ mmaSegs gYoke pYoke always = ([0], []) ∧ (getS gYoke 32).toNat = 0 ∧
    SOk gYoke (32 :: (List.range 8).map (24 + ·)) ∧ VOk gYoke (active gYoke pYoke always) ((List.range (aSpan .e4m3 0)).map (48 + ·)) ∧
    fmtA pYoke.fmt = .e4m3 ∧ formatBad pYoke .e4m3 = false ∧ yokeHintBad pYoke .e4m3 = false ∧ 0 % 2048 = 0 ∧
    (List.range 8).map (fun k => getS gYoke (24 + k)) = rowWords ∧
    aShape (sYoke ykLoaded) gYoke .e4m3 pYoke.fmt rowWords [0] (laneBits (active gYoke pYoke always)) = none ∧
    tileTrap (sYoke ykLoaded) gYoke 0 [0] = none ∧
    classTrap (.mma false always 48 0 32 false false) (sYoke ykLoaded) gYoke pYoke .e4m3 0 = none ∧
    classTrap (.mmaAs false always 24 0 32 false false) (sYoke ykLoaded) gYoke pYoke .e4m3 0 = none ∧
    emptyTrap (sYoke ykLoaded) gYoke 0 (laneBits (active gYoke pYoke always)) = none :=
  ⟨⟨rfl, rfl⟩, by decide, by decide, by decide, by simp only [SOk]; decide, Or.inr (by decide), by decide, by decide, by decide, rfl,
    by decide, by decide +kernel, by decide, by decide, by decide, by decide⟩

theorem witness_YokeServiceResults : (yokeOf (sYoke { table := [req 0 true, req 1 false] }) 0).running = [] ∧
    (yokeOf (sYoke { table := [req 0 true, req 1 false] }) 0).table ≠ [] ∧
    (yokeOf (sYoke { running := [req 0 true, req 1 false] }) 0).running[1]? = some (req 1 false) ∧ (req 1 false).isLoad = false ∧
    (∀ x ∈ (yokeOf (sYoke { running := [req 0 true, req 1 false] }) 0).running.take 1, x.isLoad = true) ∧
    (yokeOf (sYoke { running := [req 0 true, req 1 false] }) 0).running[0]? = some (req 0 true) ∧ (req 0 true).isLoad = true :=
  ⟨rfl, by decide, rfl, rfl, by decide, rfl, rfl⟩
/-- A plane of one column of no elements. -/
def ykCols : Yoke := { planes := [(0, { cls := 0, cols := [[]] })], running := [req 1 false] }
/-- A row held in registers, without a record. -/
def reqPlain : YokeReq := { req 1 false with record := none }
theorem witness_YokeServiceResults_sums : aOpen (sYoke ykCols) (req 1 false) = false ∧
    findGroup (sYoke ykCols) (req 1 false).group = some gYoke ∧
    mget? (req 1 false).slot (yokeOf (sYoke ykCols) (teamOf (req 1 false).core)).planes = some { cls := 0, cols := [[]] } ∧
    ({ cls := 0, cols := [[]] } : Plane).cols[0]? = some [] ∧ fmtA reqPlain.fmt ≠ .s8 ∧ fmtA 0x99 = .s8 ∧
    [XVal.fin ⟨true, 2, 0⟩, .fin ⟨true, 0, 0⟩].map XVal.oneZero = [(-2 : Int), 0].map (fun i => .fin ⟨decide (i < 0), i.natAbs, 0⟩) ∧
    reqPlain.record = none ∧ fmtScale reqPlain.fmt = 0 ∧ reqPlain.had = 0 ∧ reqPlain.uns = false ∧ fmtSpare reqPlain.fmt = false ∧
    32 % (fmtA reqPlain.fmt).width = 0 ∧ 0 < kBlock (fmtA reqPlain.fmt) := by decide

/-- The engine's work comes to its end. -/
def engOk {α : Type} : Eng α → Bool
  | .ok _ _ => true
  | _ => false

/-- A lookup of a texture of one texel at address 0, by the descriptor of zeros at S16. -/
def wash0 : WashReq :=
  { id := 0, group := 0, lane := 0, launch := 0, wg := 0, asid := 0, stack := 0, words := List.replicate 8 0, coords := [0, 0, 0] }
def sWash : State := { s0 with render := { s0.render with washes := [wash0] } }
/-- S16 on: a batch whose structure descriptor is at 0x1000 and whose barrier is at 0x1100. -/
def rayWords : List Word := [0x1000, 0, 0, 0, 0x1100, 0, 0, 0, 0, 0, 0, 0]
def gRay : Group := { g0 with s := [(16, 0x1000), (20, 0x1100)] }
def lRay : Launch := { l0 with desc := { l0.desc with batchCount := 1 } }

theorem witness_RenderIssueResults : Issues s0 g0 p0 {} ∧ active g0 p0 always ≠ [] ∧
    (List.range (waLen (getS g0 (16 + 2)))).map (fun i => getS g0 (16 + i)) = List.replicate 8 0 ∧
    SOk g0 ((List.range (waLen (getS g0 (16 + 2)))).map (16 + ·)) ∧
    VOk g0 (active g0 p0 always) ((List.range (waCoords (List.replicate 8 0))).map (· + 61) ++
      (List.range (waDests (List.replicate 8 0))).map (· + 0)) ∧
    dw64 (List.replicate 8 0) 0 % 256 = 0 ∧ washBad (List.replicate 8 0) = false ∧ sWash.render.washes[0]? = some wash0 ∧
    wash0.stopped = false ∧ wash0.parked = none ∧ washStack sWash 0 (dw64 wash0.words 0) = some 0 ∧
    (∀ x ∈ sWash.render.washes, x.id = 0 → x = wash0) ∧ engOk (washLoad 0 0 [] (washReads wash0) sWash []) = true :=
  ⟨issues0 _ _ _, by decide, by decide, by simp only [SOk]; decide, Or.inr (by decide), by decide, by decide, rfl, rfl, rfl,
    by decide +kernel, by simp [sWash], by decide +kernel⟩
theorem witness_RenderIssueResults_raysend : Issues (dm gRay w0 lRay) gRay p0 {} ∧ active gRay p0 always ≠ [] ∧
    VOk gRay (active gRay p0 always) ((List.range 8).map (· + 56)) ∧ SOk gRay ((List.range 12).map (16 + ·)) ∧
    (List.range 12).map (fun i => getS gRay (16 + i)) = rayWords ∧ rayAlign rayWords (laneBits (active gRay p0 always)) = none ∧
    (∃ t r, checkObject (dm gRay w0 lRay) (whoOf (dm gRay w0 lRay) gRay) (laneBits (active gRay p0 always)) .object true 5 64 64 0x1000 =
      .ok ((0, 0x1000, t) :: r)) ∧
    (∃ t r, checkObject (dm gRay w0 lRay) (whoOf (dm gRay w0 lRay) gRay) (laneBits (active gRay p0 always)) .object true 5 16 16 0x1100 =
      .ok ((0, 0x1100, t) :: r)) ∧
    lRay.desc.batchBase ≤ dw rayWords 10 % 65536 ∧ dw rayWords 10 % 65536 < lRay.desc.batchBase + lRay.desc.batchCount ∧
    fenceHolds (dm gRay w0 lRay) gRay (active gRay p0 always) [(0x1000, 64), (0x1100, 16)] = false ∧
    descBad (readHome (noteAll (dm gRay w0 lRay) (whoOf (dm gRay w0 lRay) gRay) [0x1000, 0x1100]).ms 0x1000 64) = false ∧
    (∃ z, z = flushBar (noteAll (dm gRay w0 lRay) (whoOf (dm gRay w0 lRay) gRay) [0x1000, 0x1100]) (.dram 0x1100) (some 0) ∧
      findGroup z gRay.id = some gRay ∧ (readBar z (.dram 0x1100)).pending + 32 * 8 < 2 ^ 48) :=
  ⟨⟨rfl, rfl⟩, by decide, Or.inr (by decide), by simp only [SOk]; decide, by decide, by decide, ⟨_, _, rfl⟩, ⟨_, _, rfl⟩, by decide,
    by decide, rfl, by decide +kernel, _, rfl, rfl, by decide +kernel⟩
theorem witness_RenderIssueResults_answers : Issues s0 g0 p0 {} ∧ guardQ g0 always = true ∧ SOk g0 ((List.range 8).map (8 * 7 + ·)) ∧
    s0.plat.walk = false ∧ Issues (sg gRing) gRing p0 {} ∧ guardQ gRing always = true ∧ SOk gRing [4, 5] ∧
    (∃ t r, checkObject (sg gRing) (whoOf (sg gRing) gRing) (allOf gRing p0) .object true 5 64 64 0x1000 = .ok ((0, 0x1000, t) :: r)) ∧
    relHeld (sg gRing) gRing (enabled gRing p0) .dev = false ∧ fenceHolds (sg gRing) gRing (enabled gRing p0) [(0x1000, 64)] = false :=
  ⟨issues0 _ _ _, rfl, by simp only [SOk]; decide, rfl, ⟨rfl, rfl⟩, rfl, by simp only [SOk]; decide, ⟨_, _, rfl⟩, rfl, rfl⟩

/-- A ray with an empty interval, and one with the interval 0 to 1; paddocks; a ray that waits for an answer. -/
def ray (tmin tmax : Word) : RayMsg :=
  { geom := List.replicate 6 0, tmin := tmin, tmax := tmax, ray := 0, batch := 0, first := false, cullb := false, opq := false,
    bank := 0, back := false, proc := false, incomplete := false, terminated := false, bestPrim := 0, bestInst := 0, gen := 0,
    base := 0, desc := 0x1000, bar := 0x1100, launch := 0 }
def work (tmin tmax : Word) : RayWork := { msg := ray tmin tmax, tid := 0, stack := [] }
def sFlying (f : Flight) : State := { s0 with render := { s0.render with flying := [f], batches := [(0, ⟨rayWords, 0, 0, 0, 64⟩)] } }
def pad (no tid unserved n : Nat) : Paddock :=
  { no := no, treelet := 0, tid := tid, asid := 0, region := 0, fifo := List.replicate n (work 0 0x3F80_0000), unserved := unserved }
def sPads (ps : List Paddock) : State := { s0 with render := { s0.render with paddocks := [(0, ps)] } }
def waits0 : WaitingRay := ⟨0, work 0 0x3F80_0000, 0, some 1, 0, 0, 0, 0, 0, false, false⟩
/-- Its candidate lies beyond the interval. -/
def wonAlready : WaitingRay := { waits0 with t := 0x4000_0000 }
def ans0 (c : CbackCode) : Answer :=
  { core := 0, split := (0, 0), stack := 0, asid := 0, region := 0, words := [0, 1, 0, 0, 0, 0, 0, 0], code := c }
def sAnswer (rs : List WaitingRay) (c : CbackCode) : State :=
  { s0 with render := { s0.render with answers := [ans0 c], answering := rs, batches := [(0, ⟨rayWords, 0, 0, 0, 64⟩)] } }
def sSubs : State := { s0 with render := { s0.render with subs := [⟨0x1000, 1, 0, none⟩] } }
/-- A message routed to stack 0 and one that its sender still has to route; the paddock of its treelet. -/
def routed : Flight := { work := work 0 0x3F80_0000, stack := some 0, core := 0 }
def empty0 : Flight := { work := work 0x3F80_0000 0, stack := none, core := 0 }
def onlyPads (s : State) (ps : List Paddock) : State := { s with render := { s.render with paddocks := [(0, ps)] } }
/-- Every paddock of stack 0 has another treelet. -/
def sCrowded : State := onlyPads (sFlying routed) ((List.range 128).map fun k => { pad k (k + 1) 0 1 with treelet := 7 })

theorem witness_CourserResults : (sFlying routed).render.flying[0]? = some routed ∧ routed.parked = none ∧
    flightHeld (sFlying routed) 0 routed = false ∧ (sFlying routed).render.dying.contains 0 = false ∧
    treeletVa (work 0 0x3F80_0000).msg.base 0 = 0 ∧ pad 3 0 0 0 ∈ paddocksOf (onlyPads (sFlying routed) [pad 3 0 0 0]) 0 ∧
    (pad 3 0 0 0).fifo.length < (batchOf (sFlying routed) 0).depth ∧ (pad 3 0 0 0).asid = (batchOf (sFlying routed) 0).asid ∧
    paddocksOf (sFlying routed) 0 = [] ∧ roomFor (sFlying routed) 0 (batchOf (sFlying routed) 0) = true ∧
    roomFor sCrowded 0 (batchOf sCrowded 0) = false ∧
    (∀ p ∈ paddocksOf sCrowded 0, ¬ (p.treelet = 0 ∧ p.asid = (batchOf sCrowded 0).asid)) ∧
    (sFlying empty0).render.flying[0]? = some empty0 ∧ emptyRay (ray 0x3F80_0000 0) = true ∧
    engOk (finishRay (sFlying empty0) 0 (work 0x3F80_0000 0) false) = true :=
  ⟨rfl, rfl, rfl, rfl, by decide, by decide, by decide, by decide, rfl, by decide +kernel, by decide +kernel, by decide +kernel, rfl,
    by decide, by decide +kernel⟩
theorem witness_CourserResults_rounds : selectPaddock (paddocksOf (abortDying (sPads []) 0) 0) = none ∧
    (selectPaddock (paddocksOf (sPads [pad 0 5 8 1, pad 1 1 8 1]) 0)).map (·.no) = some 1 ∧
    (∀ b ∈ paddocksOf (sPads [pad 0 5 8 1, pad 1 1 8 1]) 0, b.ready = true → pad 1 1 8 1 ≠ b →
      (if 8 ≤ (pad 1 1 8 1).unserved ∨ 8 ≤ b.unserved then
        b.unserved < (pad 1 1 8 1).unserved ∨ (b.unserved = (pad 1 1 8 1).unserved ∧ (pad 1 1 8 1).tid < b.tid)
       else b.count < (pad 1 1 8 1).count ∨ (b.count = (pad 1 1 8 1).count ∧ (pad 1 1 8 1).tid < b.tid))) ∧
    (selectPaddock (paddocksOf (abortDying (sPads [pad 0 0 0 1, pad 1 1 0 2]) 0) 0)).map (·.no) = some 1 ∧
    (∀ b ∈ paddocksOf (sPads [pad 0 0 0 1, pad 1 1 8 1]) 0, b.ready = true → pad 1 1 8 1 ≠ b →
      (if 8 ≤ (pad 1 1 8 1).unserved ∨ 8 ≤ b.unserved then
        b.unserved < (pad 1 1 8 1).unserved ∨ (b.unserved = (pad 1 1 8 1).unserved ∧ (pad 1 1 8 1).tid < b.tid)
       else b.count < (pad 1 1 8 1).count ∨ (b.count = (pad 1 1 8 1).count ∧ (pad 1 1 8 1).tid < b.tid))) ∧
    pad 1 1 8 1 ∈ paddocksOf (sPads [pad 0 0 0 1, pad 1 1 8 1]) 0 ∧ (pad 1 1 8 1).ready = true ∧
    (work 0 0x3F80_0000).stack = [] ∧ (work 0 0x3F80_0000).exc = none ∧
    (∀ e ∈ (ray 0 0x3F80_0000).pend, pendNear (ray 0 0x3F80_0000) e.2 = false) ∧
    engOk (finishRay (sFlying routed) 0 (work 0 0x3F80_0000) false) = true :=
  ⟨by decide, by decide, by decide, by decide, by decide, by decide, by decide, rfl, rfl, by decide, by decide +kernel⟩
/-- A ray whose hit record lies on a page that has none; that an access parks. -/
def waitsFar : WaitingRay :=
  { wonAlready with work := { wonAlready.work with msg := { wonAlready.work.msg with ray := 0x0FFF_FFFF } } }
def engParks {α : Type} : Eng α → Bool
  | .park _ _ _ _ => true
  | _ => false
theorem witness_CourserResults_answers : (∀ rs c, (sAnswer rs c).render.answers[0]? = some (ans0 c)) ∧ (∀ c, (ans0 c).parked = none) ∧
    (∀ rs c, answerHeld (sAnswer rs c) 0 (ans0 c) = false) ∧ matchAnswer (sAnswer [] .ignore) (ans0 .ignore) = none ∧
    matchAnswer (sAnswer [waits0] .ignore) (ans0 .ignore) = some waits0 ∧
    matchAnswer (sAnswer [wonAlready] .terminate) (ans0 .terminate) = some wonAlready ∧
    passes wonAlready.work.msg (offered wonAlready (ans0 .terminate)) wonAlready.prim wonAlready.inst = false ∧
    engOk (finishRay (sAnswer [] .terminate) 0
      { wonAlready.work with msg := { wonAlready.work.msg with terminated := true, pend := [] } } false) = true ∧
    passes waitsFar.work.msg (offered waitsFar (ans0 .terminate)) waitsFar.prim waitsFar.inst = false ∧
    engParks (finishRay (sAnswer [] .terminate) 0
      { waitsFar.work with msg := { waitsFar.work.msg with terminated := true, pend := [] } } false) = true ∧
    subHeld sSubs 0 ⟨0x1000, 1, 0, none⟩ = false ∧ (∀ i < 64, (physOf false (0x1000 + i)).isDram = true) ∧
    sSubs.render.subs[0]? = some ⟨0x1000, 1, 0, none⟩ ∧ NoForwarding sSubs.ms ∧ sSubs.ms.cache.homePins = [] :=
  ⟨fun _ _ => rfl, fun _ => rfl, fun _ _ => rfl, rfl, by decide, by decide, by decide +kernel, by decide +kernel, by decide +kernel,
    by decide +kernel, by decide, by decide, rfl, by simp [NoForwarding, sSubs, dm], rfl⟩

/-- Pages of Vellum from 4 GiB on, and of host memory from 8 GiB on; a view table at 0x5000 whose view 0 has its master at 0x40000, its
elements at 0x2000 and its tags at 0x3000. -/
def sTier (g : Group) : State :=
  let s := placing (sg g) [(loadTable + 8, leBytes 8 (Config.vellumBase + 2 ^ 53 + 0x1F)),
    (loadTable + 16, leBytes 8 (Config.hostBase + 0x1F))]
  { s with plat := { s.plat with started := true } }
def tableBytes : List Byte :=
  leBytes 8 0x4_0000 ++ leBytes 8 4096 ++ leBytes 8 0x2000 ++ leBytes 8 0 ++ leBytes 8 0x3000 ++ leBytes 24 0 ++
    leBytes 4 (2 ^ 31 + 3 * 64 + 4) ++ leBytes 60 0
def sView (g : Group) : State :=
  let s := placing (sg g) [(0x5000, tableBytes)]
  { s with die0 := { s.die0 with viewTable := 0x5000 } }
def view0 : ViewEntry := readView (sView g0).ms 0x5000 0
/-- S4 to S7: two folios of Vellum. S16 on: an install of one folio from 0 to 4 GiB. S26 on: a checkpoint of one block, with its
table of hashes at 0x4000 and its stream to 8 GiB. -/
def gTier : Group := { g0 with s := [(5, 1), (6, 0x1_0001), (19, 1), (20, 65536), (28, 65536), (30, 0x4000), (33, 2)] }
def installWords : List Word := [0, 0, 0, 1, 65536, 0, 0, 0]
def ckptWords : List Word := [0, 0, 65536, 0, 0x4000, 0, 0, 2, 0, 0]

theorem witness_TierIssueResults : Issues (sTier gTier) gTier p0 {} ∧ guardQ gTier always = true ∧
    SOk gTier ((List.range 4).map (2 * 2 + ·)) ∧ (getS64 gTier 4).toNat = 0x1_0000_0000 ∧ (getS64 gTier 6).toNat = 0x1_0001 ∧
    tpfCheck (sTier gTier) gTier (allOf gTier p0) 0x1_0000_0000 0x1_0001 = .ok [folioOf Config.vellumBase, folioOf Config.vellumBase + 1]
      [0x1_0000_0000, 0x1_0001_0000] ∧
    SOk gTier [8, 9] ∧
    (getS64 gTier 8).toNat = 0 ∧ placeBar (noteAll (sTier gTier) (whoOf (sTier gTier) gTier) [0x1_0000_0000, 0x1_0001_0000]) gTier
      (allOf gTier p0) 5 false 0 = .at (.astore 0 0) ∧
    (∃ v, v = flushBar (noteAll (sTier gTier) (whoOf (sTier gTier) gTier) [0x1_0000_0000, 0x1_0001_0000]) (.astore 0 0) (some 0) ∧
      findGroup v gTier.id = some gTier ∧
      (readBar v (.astore 0 0)).pending + 65536 * [folioOf Config.vellumBase, folioOf Config.vellumBase + 1].dedup.length < 2 ^ 48 ∧
      (∀ f ∈ [folioOf Config.vellumBase, folioOf Config.vellumBase + 1], f ∉ v.tier.palette) ∧
      (∀ h ∈ v.sched.groups, ∀ q ∈ h.splits, ∀ pl a ph, q.wait ≠ .byteBarrier pl a ph)) :=
  ⟨⟨rfl, rfl⟩, rfl, by simp only [SOk]; decide, by decide, by decide, by decide +kernel, by simp only [SOk]; decide,
    by decide, by decide +kernel, _, rfl, rfl, by decide +kernel, by decide +kernel,
    fun h hh => by
      have hg : h ∈ [gTier] := hh
      rw [List.mem_singleton.1 hg]
      simp [gTier, g0, p0]⟩
theorem witness_TierIssueResults_queues : SOk gTier ((List.range 8).map (2 * 8 + ·)) ∧ relHeld (sTier gTier) gTier (enabled gTier p0) .dev = false ∧
    (List.range 8).map (fun k => getS gTier (16 + k)) = installWords ∧ dw64 installWords 0 % 65536 = 0 ∧
    dw64 installWords 2 % 65536 = 0 ∧ dw64 installWords 4 % 65536 = 0 ∧ 0 < dw64 installWords 4 ∧ dw64 installWords 4 ≤ 2 ^ 32 ∧
    vellumPage (sTier gTier) (whoOf (sTier gTier) gTier) (dw64 installWords 2) = some 0 ∧
    ((installsOf (sTier gTier) 0).filter fun j => j.ckpt.isNone).length < 16 ∧
    vellumPage (sTier gTier) (whoOf (sTier gTier) gTier) 0 = none ∧ SOk gTier ((List.range 10).map (2 * 13 + ·)) ∧
    (List.range 10).map (fun k => getS gTier (26 + k)) = ckptWords ∧ dw64 ckptWords 0 % 65536 = 0 ∧ dw64 ckptWords 2 % 65536 = 0 ∧
    dw64 ckptWords 4 % 16 = 0 ∧ dw64 ckptWords 6 % 64 = 0 ∧ 0 < dw64 ckptWords 2 ∧ dw64 ckptWords 2 ≤ 2 ^ 40 ∧
    ckptObjects (sTier gTier) (whoOf (sTier gTier) gTier) (allOf gTier p0) (dw64 ckptWords 0) (dw64 ckptWords 4) (dw64 ckptWords 6) =
      .ok [] ∧ (sTier gTier).tier.ckpts.length < 64 :=
  ⟨by simp only [SOk]; decide, rfl, by decide, by decide, by decide, by decide, by decide, by decide, by decide +kernel, by decide,
    by decide +kernel, by simp only [SOk]; decide, by decide, by decide, by decide, by decide, by decide, by decide, by decide,
    by decide +kernel, by decide⟩
/-- S4 names an address in view 0. -/
def gView : Group := { g0 with s := [(4, 0x2000)] }
/-- Physical address of the first part of an access that passes its checks. -/
def firstPlace : Checked → Option Nat
  | .ok ((_, pa, _) :: _) => some pa
  | _ => none

theorem witness_TierIssueResults_views : Issues (sView gView) gView p0 {} ∧ guardQ gView always = true ∧ SOk gView [4, 5, 56] ∧
    firstPlace (checkObject (sView gView) (whoOf (sView gView) gView) (allOf gView p0) .read false 1 1 1 0x2000) = some 0x2000 ∧
    (viewHits (sView gView) 0x2000 1).map (fun x => (x.1.idx, x.2)) = [(0, .elem, 0)] ∧
    fenceHolds (sView gView) gView (enabled gView p0) [(0x2000, 1)] = false :=
  ⟨⟨rfl, rfl⟩, rfl, by simp only [SOk]; decide, by decide +kernel, by decide +kernel, rfl⟩

/-- Units of the tier at work: a fill; an install and a stream folio at the head of a queue; a checkpoint to Vellum with a block left
and an entry to acknowledge; a dirty master block; a recomputation whose master has been read. -/
def inst0 (ckpt : Option Nat) : Install :=
  { ckpt := ckpt, launch := 0, region := 0, asid := 0, isSealed := false, src := 0, dst := 0x1_0000_0000, len := 65536, tag := 0 }
def ckpt0 : Ckpt :=
  { id := 0, launch := 0, region := 0, asid := 0, isSealed := false, src := 0, blocks := 1, htab := 0x4000, dst := 0x1_0000_0000,
    tag := 0, full := false, left := [0], vellum := some 0, programmed := 2 }
def ack0 : CkptAck := ⟨0, 0, List.replicate 16 7, 65600, none⟩
def job0 : ViewJob := { block := 0x40, version := 1, views := [(0, 0)], stopped := false, parked := none, data := some ([], false) }
def sUnits (ckpt : Option Nat) : State :=
  let s := placing (sView g0) [(loadTable + 8, leBytes 8 (Config.vellumBase + 2 ^ 53 + 0x1F))]
  { s with tier := { s.tier with fills := [5], installs := [(0, [inst0 ckpt])], ckpts := [ckpt0], acks := [ack0], jobs := [job0] }
           ms := { s.ms with dram := { s.ms.dram with blocks := [(3, ⟨true, 1, 0⟩)] } }
           clock := { s.clock with ps := 10_000_000 } }

/-- An install and a stream folio at the head of queue 0, with so many folio programs left and a place free. -/
def sInstall (ckpt : Option Nat) (endure : Nat) : State :=
  let s := placing (sTier g0) [(40, leBytes 8 endure)]
  { s with tier := { s.tier with installs := [(0, [inst0 ckpt])], ckpts := [ckpt0], placesFreed := [(0, 1)] } }
/-- After the read of the limit that counts. -/
def readLimit (ckpt : Option Nat) (endure : Nat) : State :=
  deviceRead (sInstall ckpt endure) (endureBlock (sInstall ckpt endure) 0 + 40) 8
/-- Its program finds a free place. -/
theorem place_free (ckpt : Option Nat) (e : Nat) (h : (readLimit ckpt e).tier.placesFreed = [(0, 1)]) (hu : (readLimit ckpt e).tier.placesUsed = []) :
    0 < freePlaces (readLimit ckpt e) 0 := by
  rw [freePlaces, h, hu]
  change 0 < Config.vellumFreePlaces 0 + 1 - 0
  omega

theorem witness_TierServiceResults : 5 ∈ (sUnits none).tier.fills ∧
    ((sUnits none).tier.palette.filter fun x => paletteStack x == paletteStack 5).length < paletteShare (sUnits none) ∧
    (∀ c e, installsOf (sInstall c e) 0 = [inst0 c]) ∧ endureLeft (readLimit none 0) 0 = 0 ∧ endureLeft (readLimit none 1) 0 ≠ 0 ∧
    endureLeft (readLimit (some 0) 1) 0 ≠ 0 ∧ 0 < freePlaces (readLimit none 1) 0 ∧ 0 < freePlaces (readLimit (some 0) 1) 0 ∧
    (∀ x ∈ [(none, 0), (none, 1), (some 0, 1)], srcPage (sInstall x.1 x.2) 0 (inst0 x.1) 0 = .inl 0 ∧
      dstFolio (sInstall x.1 x.2) 0 (inst0 x.1) 0x1_0000_0000 = .inl (folioOf Config.vellumBase)) :=
  ⟨by decide, by decide, fun _ _ => rfl, by decide +kernel, by decide +kernel, by decide +kernel, place_free _ _ rfl rfl,
    place_free _ _ rfl rfl, by decide +kernel⟩
theorem witness_TierServiceResults_blocks : nextBlockOf (sUnits none) 0 = some (ckpt0, 0) ∧ (sUnits none).tier.acks[0]? = some ack0 ∧
    ckptOf (sUnits none) 0 = some ckpt0 ∧ ack0.parked = none ∧ ackReady ckpt0 ack0 = true ∧
    engOk (blotPlaces ((blockStack (sUnits none) ckpt0 0).getD 0) ckpt0 .write true [((0x4000 + 16 * 0) % 2 ^ 64, ack0.hash)]
      (sUnits none)) = true ∧ (blockSt (sUnits none).ms.dram 3).dirty = true ∧
    (blockSt (sUnits none).ms.dram 3).marked + (ctlOf (sUnits none) (stackOf (3 * 4096))).settle * 100_000 ≤ (sUnits none).clock.ps :=
  ⟨by decide +kernel, rfl, by decide, rfl, by decide, by decide +kernel, by decide, by decide⟩
/-- A page's walk finds its leaf, or at least no absent entry. -/
def walkEnds (s : State) (va : Nat) : Bool :=
  match (findWalk s (whoStack 0 0 false) va).stop with
  | .absent _ => false
  | _ => true
theorem vellumPages_ok (s : State) : ∀ l : List (Nat × List Byte), (∀ x ∈ l, walkEnds s x.1 = true) →
    vellumPages 0 ckpt0 s l = .ok s ()
  | [], _ => rfl
  | (va, bs) :: r, h => by
    have h0 := h (va, bs) (List.mem_cons_self ..)
    have ih := vellumPages_ok s r fun x hx => h x (List.mem_cons_of_mem _ hx)
    simp only [walkEnds] at h0
    simp only [vellumPages, ckpt0] at ih ⊢
    split <;> simp_all
theorem pagePieces_at (l : List Byte) : ∀ k va, va % 65536 = 0 → va + 65536 * k ≤ 2 ^ 64 →
    ∀ x ∈ pagePieces k va l, ∃ i < k, x.1 = va + 65536 * i := by
  intro k
  induction k generalizing l with
  | zero => intro va _ _ x hx; simp [pagePieces] at hx
  | succ k ih =>
    intro va h0 h1 x hx
    have hv : va % 2 ^ 64 = va + 65536 * 0 := by omega
    simp only [pagePieces, h0, Nat.sub_zero] at hx
    by_cases hl : l.length ≤ 65536
    · rw [if_pos hl] at hx
      rw [List.mem_singleton.1 hx]
      exact ⟨0, by omega, hv⟩
    · rw [if_neg hl] at hx
      rcases List.mem_cons.1 hx with rfl | hx
      · exact ⟨0, by omega, hv⟩
      · obtain ⟨i, hi, he⟩ := ih (l.drop 65536) (va + 65536) (by omega) (by omega) x hx
        exact ⟨i + 1, by omega, by omega⟩
theorem streamEntry_ok (s : State) (hash bs : List Byte)
    (h : ((List.range 3).all fun i => walkEnds s (0x1_0000_0000 + 65536 * i)) = true) :
    engOk (streamEntry s 0 ckpt0 0 hash bs) = true := by
  have hp : ∀ x ∈ pagePieces 3 (ckpt0.dst + 65600 * ckpt0.entries) (ckptEntry 0 hash bs), walkEnds s x.1 = true := by
    intro x hx
    obtain ⟨i, hi, he⟩ := pagePieces_at _ 3 _ (by decide) (by decide) x hx
    rw [he]
    exact List.all_eq_true.1 h i (List.mem_range.2 hi)
  simp only [streamEntry, vellumPages_ok s _ hp]
  rfl
/-- State and answer of a read that comes to its end. -/
def engGet : Eng (Nat × List Byte) → State × Nat × List Byte
  | .ok s x => (s, x)
  | _ => (State.reset, 0, [])
/-- The unit at the stack, the block at a byte address marked as checked. -/
def afterScan (s : State) (st a : Nat) : State :=
  let c := ctlOf s st
  putCtl s st { c with scrubbed := insertKey (a % Config.stackBytes / 65536) c.scrubbed }
/-- Memory without poison or errors stays so where an engine reads, and the read comes to its end. -/
theorem touchAtoms_clean (hs : List HomeLine) (d : Meta) (pa n : Nat) (hf : d.flags = []) (he : d.errs = []) (hb : d.hostBias = []) :
    touchAtoms hs d pa n = d := by
  have h : ∀ a, (if homeHolds hs a then recallX d a else decodeAtom (recallX d a) a) = d := fun a => by
    cases d
    simp only at hf he hb
    subst hf; subst he; subst hb
    split <;> rfl
  unfold touchAtoms
  generalize atomsOf (forwarded d pa) n = as
  induction as with
  | nil => rfl
  | cons a r ih => rw [List.foldl_cons, h]; exact ih
theorem cleanHome_empty (l : Nat) (ms : MemSys) (hh : ms.cache.home = []) : cleanHome l ms = ms := by
  rcases ms with ⟨mem, d, cache⟩
  cases cache
  simp only at hh
  subst hh
  rfl
/-- A memory system without flags, errors, host bias, home lines or pins. -/
def quiet (ms : MemSys) : Bool :=
  ms.dram.flags.isEmpty && ms.dram.errs.isEmpty && ms.dram.hostBias.isEmpty && ms.dram.ueSeen.isEmpty && ms.cache.home.isEmpty &&
    ms.cache.homePins.isEmpty && ms.cache.reserved.isEmpty
theorem engineRead_clean (now pa n : Nat) (ms : MemSys) (hq : quiet ms = true) (hd : (physOf false pa).isDram = true) :
    (engineRead now pa n ms).1 = ms := by
  simp only [quiet, Bool.and_eq_true, List.isEmpty_iff] at hq
  obtain ⟨⟨⟨⟨⟨⟨hf, he⟩, hb⟩, -⟩, hh⟩, hp⟩, hv⟩ := hq
  have hl : ∀ ls : List Nat, ls.foldl (fun m l => cleanHome l m) ms = ms := by
    intro ls
    induction ls with
    | nil => rfl
    | cons a r ih => rw [List.foldl_cons, cleanHome_empty _ _ hh]; exact ih
  simp only [engineRead, hl]
  rcases ms with ⟨mem, d, cache⟩
  cases cache
  simp only at hf he hp hv hb
  subst hp; subst hv
  cases hph : physOf false pa <;> simp only [hph, Phys.isDram, Bool.false_eq_true] at hd
  simp [reachHome, promoteHome, hph, touchAtoms_clean _ _ _ _ hf he hb]
def xlatedTo : Xl → Nat → Bool
  | .ok pa _, q => pa == q
  | _, _ => false
theorem blotLoad_clean (s t : State) (st : Nat) (c : Ckpt) (va n pa : Nat) (hc : canonical va = true)
    (hx : xlatedTo (xlate s (whoStack st c.asid c.isSealed) .read true va n) pa = true)
    (ht : t = noteXlate s (whoStack st c.asid c.isSealed) va) (hq : quiet t.ms = true) (hd : (physOf false pa).isDram = true) :
    engOk (blotLoad s st c va n) = true ∧ (engGet (blotLoad s st c va n)).1 = t ∧ (engGet (blotLoad s st c va n)).2.1 = pa := by
  obtain ⟨a, hx⟩ : ∃ a, xlate s (whoStack st c.asid c.isSealed) .read true va n = .ok pa a := by
    revert hx
    cases xlate s (whoStack st c.asid c.isSealed) .read true va n <;> simp [xlatedTo]
  have hr := engineRead_clean t.clock.ps pa n t.ms hq hd
  simp only [quiet, Bool.and_eq_true, List.isEmpty_iff] at hq
  have hf : t.ms.dram.flags = [] := hq.1.1.1.1.1.1
  have hs : putMs t t.ms = t := by simp only [putMs, show t.ms.dram.ueSeen = [] from hq.1.1.1.2]
  have hn : poisonedAtoms t.ms.dram pa n = [] := by simp [poisonedAtoms, hf, mget]
  simp only [blotLoad, hc, hx, ← ht, Bool.not_true, Bool.false_eq_true, if_false, hr, hs, hn, List.isEmpty_nil, if_true]
  exact ⟨rfl, rfl, rfl⟩
theorem witness_TierServiceResults_reads : ∃ e1, e1 = blotLoad (sUnits none) 0 ckpt0 0 65536 ∧ engOk e1 = true ∧
    ∃ e2, e2 = blotLoad (afterScan (engGet e1).1 0 (engGet e1).2.1) 0 ckpt0 0x4000 16 ∧ engOk e2 = true ∧
      ∀ hash bs, engOk (streamEntry (engGet e2).1 0 ckpt0 0 hash bs) = true := by
  obtain ⟨h1, h2, h3⟩ := blotLoad_clean (sUnits none) _ 0 ckpt0 0 65536 0 rfl (by decide +kernel) rfl (by decide +kernel) rfl
  refine ⟨_, rfl, h1, _, rfl, ?_⟩
  rw [h2, h3]
  obtain ⟨h4, h5, -⟩ := blotLoad_clean (afterScan (noteXlate (sUnits none) (whoStack 0 ckpt0.asid ckpt0.isSealed) 0) 0 0) _ 0 ckpt0 0x4000 16 0x4000
    rfl (by decide +kernel) rfl (by decide +kernel) rfl
  exact ⟨h4, fun hash bs => streamEntry_ok _ hash bs (by rw [h5]; decide +kernel)⟩
/-- The places of a view block, none of a peer. -/
def placesHere (e : Eng (List (Nat × List Byte))) : Bool :=
  match e with
  | .ok s xs => (peerPlaces s xs).isEmpty
  | _ => false
theorem witness_TierServiceResults_views : (sUnits none).tier.jobs[0]? = some job0 ∧ job0.stopped = false ∧ job0.parked = none ∧
    jobHeld (sUnits none) 0 job0 = false ∧ job0.poison = [] ∧ job0.views.head? = some (0, 0) ∧
    view0 = readView (sUnits none).ms (sUnits none).die0.viewTable 0 ∧
    readMaster (sUnits none) 0 job0 = (sUnits none, ([], false)) ∧ viewCause (sUnits none) view0 ([], false) = none ∧
    placesHere (viewPlaces 0 view0.asid ((viewWrites view0 0 [] ++ tagWrites view0 0 1 true).flatMap fun x =>
      pagePieces (x.2.length / 65536 + 2) x.1 x.2) (sUnits none)) = true :=
  ⟨rfl, rfl, rfl, rfl, rfl, rfl, by decide +kernel, rfl, by decide +kernel, by decide +kernel⟩
/-- Region 0 has an install and a checkpoint at work, whose records have a ring. -/
def sTear : State :=
  { sUnits none with tier := { (sUnits none).tier with
      installs := [(0, [{ inst0 none with cring := some 0x9000 }])], ckpts := [{ ckpt0 with cring := some 0x9000 }] } }
theorem witness_TierServiceResults_teardown : (∃ x ∈ sTear.tier.installs, ∃ i ∈ x.2, i.region = 0 ∧ i.ckpt = none ∧ i.cring = some 0x9000) ∧
    (∃ c ∈ sTear.tier.ckpts, c.region = 0 ∧ c.cring = some 0x9000) ∧ deadStack (sUnits none) (stackOf (3 * 4096)) = false ∧
    job0.aborted = false := by decide

/-! ## Dispatch, registration, faults -/

/-- A region with every limit open; a block of its own fields; a queue of it, whose header stands at 0x1000, and a launch at its head. -/
def reg0 : Region :=
  { addr := 0x8000, parent := 0, prio := 3, quantum := 2, cls := 0, isSealed := false, privOk := false, landingPad := false,
    kill := false, domRoot := false, cores := 192, stencils := 1536, regKib := 2 ^ 20, astKib := 2 ^ 20, set := ⟨0, 0, 0, 0, 0⟩,
    bwShare := 1, paddocks := 1, endureHere := true, batchBase := 0, batchCount := 0, cring := 0, ering := 0, trapBase := 0,
    deadline0 := 7, deadline1 := 9 }
def queue0 : Queue := { num := 0, header := 0x1000, asid := 0, region := 0x8000, tail := 1 }
def lReg : Launch := { l0 with desc := { l0.desc with region := 0x8000 } }
def l1 : Launch := { id := 1, queue := 0, asid := 0, desc := { region := 0x8000, gridX := 2 } }
/-- The queue's header in memory: 16 entries from 0x2000 on, HEAD and TAIL given. -/
def sQueue (q : Queue) (head tail : Nat) (g : Group) : State :=
  let s := placing (dm g w0 lReg) [(0x1000, leBytes 8 0x2000 ++ leBytes 8 4 ++ leBytes 8 0x8000 ++ leBytes 8 head ++ leBytes 8 tail)]
  { s with sched := { s.sched with regions := [reg0], queues := [q], launches := [lReg, l1] }
           clock := { s.clock with cycle := 5000 } }
/-- S4 to S7: a descriptor at 0x3080 and the header at 0x1000. -/
def gLaunch : Group := { g0 with s := [(4, 0x3080), (6, 0x1000)] }

theorem witness_DispatchResults : Issues (sQueue queue0 0 1 gLaunch) gLaunch p0 {} ∧
    guardQ gLaunch always = true ∧ SOk gLaunch ((List.range 4).map (2 * (2 : BitVec 6).toNat + ·)) ∧
    (getS64 gLaunch 4).toNat = 0x3080 ∧ (getS64 gLaunch 6).toNat = 0x1000 ∧
    launchQueue (sQueue queue0 0 1 gLaunch) gLaunch 0x1000 = some queue0 ∧ relHeld (sQueue queue0 0 1 gLaunch) gLaunch (enabled gLaunch p0) .dev = false ∧
    fenceHolds (sQueue queue0 0 1 gLaunch) gLaunch (enabled gLaunch p0) [(0x3080, 128), (0x1000, 64)] = false :=
  ⟨⟨rfl, rfl⟩, rfl, by simp only [SOk]; decide, by decide, by decide, by decide, rfl, rfl⟩
theorem witness_DispatchResults_objects : firstPlace (checkObject (sQueue queue0 0 1 gLaunch) (whoOf (sQueue queue0 0 1 gLaunch) gLaunch)
      (allOf gLaunch p0) .read true 5 128 128 0x3080) = some 0x3080 ∧
    firstPlace (checkObject (sQueue queue0 0 1 gLaunch) (whoOf (sQueue queue0 0 1 gLaunch) gLaunch) (allOf gLaunch p0) .object true 5 64 64
      0x1000) = some 0x1000 ∧
    (hdrTail (sQueue queue0 0 1 gLaunch) 0x1000 + 2 ^ 64 - hdrHead (sQueue queue0 0 1 gLaunch) 0x1000) % 2 ^ 64 ≠
      2 ^ hdrLog (sQueue queue0 0 1 gLaunch) 0x1000 ∧
    (hdrTail (sQueue queue0 0 16 gLaunch) 0x1000 + 2 ^ 64 - hdrHead (sQueue queue0 0 16 gLaunch) 0x1000) % 2 ^ 64 =
      2 ^ hdrLog (sQueue queue0 0 16 gLaunch) 0x1000 :=
  by decide +kernel
/-- The queue with its launch of two workgroups at its head: the round places one. -/
theorem witness_DispatchResults_served : (serveOne (sQueue { queue0 with head := some 1 } 0 1 g0) [0]).2 = [0] ∧
    (serveQueue (sQueue { queue0 with head := some 1 } 0 1 g0) 0).isSome = true ∧
    queuePrio (sQueue { queue0 with head := some 1 } 0 1 g0) queue0 < 16 :=
  ⟨by decide +kernel, by decide +kernel, by decide⟩
theorem witness_DispatchResults_fit : queueNo (sQueue { queue0 with head := some 1, fitSince := some 904 } 0 1 g0) 0 =
      some { queue0 with head := some 1, fitSince := some 904 } ∧
    904 + 4096 ≤ (sQueue { queue0 with head := some 1, fitSince := some 904 } 0 1 g0).clock.cycle ∧
    spanSize (launchOf (sQueue { queue0 with head := some 1, fitSince := some 904 } 0 1 g0) 1).desc = some 1 :=
  ⟨rfl, by decide, by decide⟩

/-- A block of its own fields at 0x8000, and a queue's header at 0x1000 that names it. -/
def blockBytes : List Byte := leBytes 256 (2 ^ 80 + 2 ^ 288)
def sBlock : State := placing s0 [(0x8000, blockBytes)]
def sHdr : State := sQueue queue0 0 1 g0
theorem witness_RegistrationResults : deadDie s0 0 = false ∧ deadDie s0 1 = false ∧
    regionReasons (deviceRead sBlock 0x8000 256) 0x8000 = [] ∧ inDram sBlock.plat.walk 0x8000 256 = true ∧
    regionReasons (deviceRead sBlock 0x8010 256) 0x8010 = [6] ∧ regionReasons (deviceRead sBlock 0x8100 256) 0x8100 = [1] ∧
    queueReasons (deviceRead sHdr 0x1000 64) 0x1000 (dieRegs (deviceRead sHdr 0x1000 64) 0).queueAsid = [] ∧
    queueReasons (deviceRead sHdr 0x1010 64) 0x1010 (dieRegs (deviceRead sHdr 0x1010 64) 0).queueAsid = [6] ∧
    nbits (0x10001 : DWord).toNat 0 2 = 1 ∧ nbits (0x10002 : DWord).toNat 0 2 = 2 ∧
    { s0 with plat := { s0.plat with session := true } }.plat.session = true ∧
    96 < nbits (61 : DWord).toNat 0 16 + nbits (61 * 65536 : DWord).toNat 16 16 ∧ deadStack s0 0 = false ∧ deadStack s0 7 = false :=
  ⟨rfl, rfl, by decide +kernel, by decide, by decide +kernel, by decide +kernel, by decide +kernel, by decide +kernel, by decide,
    by decide, rfl, by decide, rfl, rfl⟩

/-- A split that waits for page 5 of address space 0; a lookup that has stopped. -/
def tr0 : Trap := { cause := 0x0B, info := 3 + 16 * 1 }
def pWait : Split := { p0 with wait := .replay 0 0 5 tr0 0x40 }
def sWait : State :=
  let s := dm (gp pWait) { w0 with trapBase := 0x1_0000 } l0
  { s with xlat := { s.xlat with records := [⟨0, 0, 5⟩], invals := [(0, 0, 5, 1)] } }
def washStopped : WashReq := { wash0 with stopped := true }
def sStopped : State := { s0 with render := { s0.render with washes := [washStopped] } }
/-- The page, engine and operation of the words written. -/
def page5 (op : Nat) : DWord := BitVec.ofNat 64 (5 * 65536 + op)
def job0Word (op : Nat) : DWord := BitVec.ofNat 64 (op * 2 ^ 62 + 2 * 65536)
theorem witness_FaultServiceResults : deadDie sWait 0 = false ∧ sWait.xlat.invals = [(0, 0, 5, 1)] ∧ invalBusy sWait 0 5 1 = false ∧
    0 = (dieRegs sWait 0).faultAsid % 2 ^ 32 ∧ nbits (page5 1).toNat 16 41 = 5 ∧ nbits (page5 2).toNat 16 41 = 5 ∧
    nbits (page5 1).toNat 0 2 = 1 ∧ nbits (page5 2).toNat 0 2 = 2 ∧ sWait.render.paddocks = [] ∧ sWait.render.waiting = [] ∧
    sWait.tier.blocked = [] ∧ sWait.sched.groups = [gp pWait] ∧ (gp pWait).splits = [pWait] ∧ pWait.wait = .replay 0 0 5 tr0 0x40 ∧
    outstanding (gp pWait) pWait = [] ∧ pWait.resume = none ∧ (wgOf sWait 0 0).trapBase ≠ 0 ∧
    regionOf sWait (launchOf sWait 0).desc.region = none ∧
    sWait.render = {} ∧ sWait.tier = {} ∧ sWait.copies = {} ∧ sWait.sched.queues = [] ∧
    nbits (job0Word 1).toNat 16 3 = 2 ∧ nbits (job0Word 1).toNat 62 2 = 1 ∧ nbits (job0Word 2).toNat 16 3 = 2 ∧
    nbits (job0Word 2).toNat 62 2 = 2 ∧ stoppedWash sStopped 0 (nbits (job0Word 1).toNat 0 16) = some washStopped :=
  ⟨rfl, rfl, by decide, rfl, by decide, by decide, by decide, by decide, rfl, rfl, rfl, rfl, rfl, rfl, rfl, rfl, by decide, rfl,
    rfl, rfl, rfl, rfl, by decide, by decide, by decide, by decide, by decide⟩
/-- One waiter of each kind on page 5 of address space 0. -/
def park5 : Option (Nat × Nat × Nat) := some (0, 0, 5 * 65536)
def key5 : PageKey := ⟨0, 0, 5⟩
def washWaits : WashReq := { wash0 with parked := park5 }
def padWaits : Paddock := { pad 3 0 0 1 with parked := park5 }
def flightWaits : Flight := { routed with parked := park5 }
def chanWaits : Channel := { jobs := [jDray], parked := park5 }
def viewWaits : ViewJob := { job0 with parked := park5 }
def blockWaits : BlockJob := ⟨0, 0, 0, false, park5⟩
def ringWaits : RingRec := { header := 0x1000, asid := some 0, die := 0, words := [], source := 0, unit := 0, parked := park5 }
def queueWaits : Queue := { queue0 with condWait := [(1, 5)] }
theorem witness_FaultServiceResults_waiters : waiters sWait key5 = [.split 0 0] ∧
    waiters { s0 with render := { s0.render with paddocks := [(0, [padWaits])] } } key5 = [.paddock 0 padWaits] ∧
    ((padWaits.fifo ++ padWaits.spill).head?).map (fun w => w.msg) = some (ray 0 0x3F80_0000) ∧
    waiters { s0 with render := { s0.render with washes := [washWaits] } } key5 = [.wash washWaits] ∧
    waiters { s0 with render := { s0.render with flying := [flightWaits] } } key5 = [.flight flightWaits] ∧
    waiters { s0 with copies := { s0.copies with chans := [(0, chanWaits)] } } key5 = [.chan 0 chanWaits] ∧
    waiters { s0 with tier := { s0.tier with jobs := [viewWaits] } } key5 = [.view 0 viewWaits] ∧ viewWaits.now.map (·.2) = some 0 ∧
    waiters { s0 with tier := { s0.tier with blocked := [blockWaits] } } key5 = [.block blockWaits] ∧
    waiters { s0 with copies := { s0.copies with rings := [ringWaits] } } key5 = [.ring ringWaits] ∧
    waiters { s0 with sched := { s0.sched with queues := [queueWaits] } } key5 = [.cond queueWaits] ∧
    termsOf sWait 0 0 = none := by decide
/-- Stopped jobs: a paddock with a spill chain and without, a waiting chain, a view block and a checkpoint block. -/
def sJobs (ps : List Paddock) (c : WaitChain) : State :=
  { sUnits none with
    render := { s0.render with paddocks := [(0, ps)], waiting := [(0, c)], batches := [(0, ⟨rayWords, 0, 0, 0, 64⟩)] }
    tier := { (sUnits none).tier with jobs := [{ job0 with stopped := true }], blocked := [⟨0, 0, 0, true, none⟩] } }
def padStopped : Paddock := { pad 3 0 0 1 with stopped := true }
def spilled1 : List RayWork := [work 0 0x3F80_0000]
theorem witness_FaultServiceResults_jobs : paddockOf (sJobs [padStopped] {}) 0 3 = some padStopped ∧ padStopped.spill = [] ∧
    padStopped.parked = none ∧ (3 : Nat) ≠ chainJob ∧ (sJobs [padStopped] {}).copies.rings = [] ∧
    paddockOf (sJobs [pad 3 0 0 1] {}) 0 3 = some (pad 3 0 0 1) ∧ (pad 3 0 0 1).stopped = false ∧
    engOk (storeChain 0 spilled1 (putPaddock (sJobs [{ padStopped with spill := spilled1 }] {}) 0
      { padStopped with spill := spilled1, stopped := false })) = true ∧
    (chainAt (sJobs [] { rays := spilled1.map (0, ·), stopped := true }) 0).stopped = true ∧
    engOk (storeChain 0 spilled1 (putChain (sJobs [] { rays := spilled1.map (0, ·), stopped := true }) 0
      { rays := spilled1.map (0, ·) })) = true ∧
    stoppedView (sJobs [] {}) 0 0 = some 0 ∧ job0.now = some (0, 0) ∧
    engOk (poisonView (sJobs [] {}) 0 (readView (sJobs [] {}).ms (sJobs [] {}).die0.viewTable 0) 0 1 4) = true ∧
    stoppedBlock (sJobs [] {}) 0 0 = some ⟨0, 0, 0, true, none⟩ ∧ (sJobs [] {}).tier.ckpts = [ckpt0] := by decide +kernel

/-- An aged split; a result whose value is known; a deferred publication of an item without a predecessor, and of one whose
predecessor has published; a late trap of lane 0; a pin; a line of the L1 cache in a page whose leaf a core holds. -/
def pAged : Split := { p0 with age := 256 }
def val0 : LongResult := { kind := .value, pc := 0x3_0000, owner := 0xFF, lanes := 0xFF, v := [(5, 9)] }
def bad0 : LateBad := ⟨0, 0x0D, 0x40, 0, 0⟩
def late0 : LongResult := { kind := .late [bad0], pc := 0x3_0000, owner := 0xFF, lanes := 0xFF }
def gOut (r : LongResult) : Group := { g0 with pend := [r], published := [(4, 77)] }
def sLater : State :=
  let s := dm (gOut val0) w0 { l0 with desc := { l0.desc with kmax := 1 } }
  { s with sched := { s.sched with deferred := [⟨0, 0, 1, 0, 0⟩, ⟨0, 2, 0, 0, 0⟩] } }
def pin0 : Pin := ⟨8, .core, 0, 0, 0⟩
def line0 (n : Nat) : CacheLine :=
  { owner := 0, line := n, bytes := List.replicate 128 0, dirty := 0, way := 0, cls := 0, prio := 0, used := 0, count := none }
def sHeld : State :=
  let s := dm g0 w0 l0
  { s with ms := { s.ms with cache := { s.ms.cache with homePins := [pin0], l1 := [line0 5, line0 3], team := [line0 6] } }
           xlat := { s.xlat with tlb := [⟨.core 0, 0, 0, 0, 0x1F⟩] } }
theorem witness_SplitEventResults : (∃ x, (coreCands (dm (gp pAged) w0 l0) 0).find?
      (fun x => decide ((coreSt (dm (gp pAged) w0 l0) 0).ageLimit ≤ x.age)) = some x) ∧
    findGroup (dm (gOut val0) w0 l0) 0 = some (gOut val0) ∧ findSplit (gOut val0) 0 = some p0 ∧
    (outstanding (gOut val0) p0)[0]? = some val0 ∧ val0.kind = .value ∧ val0.clobbered = [] ∧ val0.s = [] ∧ val0.q = none ∧
    sLater.sched.deferred[0]? = some ⟨0, 0, 1, 0, 0⟩ ∧ sLater.sched.deferred[1]? = some ⟨0, 2, 0, 0, 0⟩ ∧
    peersDue sLater.ms 0 0 [] (launchOf sLater 0).desc.chainScope = false ∧
    (slotOf sLater 0 (2 - 1) 0).map (·.1) = some 77 ∧
    findGroup (dm (gOut late0) w0 l0) 0 = some (gOut late0) ∧ findSplit (gOut late0) 0 = some p0 ∧ p0.wait = .ready ∧
    outstanding (gOut late0) p0 = [late0] ∧ lateTrapOf (ownLanes p0) [bad0] = some { cause := 0x0D, addr := 0x40, lanes := 1 } ∧
    (∃ p ∈ sHeld.ms.cache.homePins, p.atom = 8) ∧ NoForwarding sHeld.ms ∧ trained sHeld 0 7 false = some (line0 5) ∧
    trained sHeld 0 7 true = some (line0 6) ∧
    heldLeaf sHeld 0 (7 * 128) = some (leafAttr 0x1F) ∧ (leafAttr 0x1F).cm = 0 ∧ (leafAttr 0x1F).n = false ∧
    (physOf sHeld.plat.walk (7 * 128)).isDram = true ∧ sHeld.ms.dram.nRanges.any (inRange (7 * 128)) = false :=
  ⟨⟨_, rfl⟩, rfl, rfl, by decide, rfl, rfl, rfl, rfl, rfl, rfl, by decide, by decide, rfl, rfl, rfl, by decide, by decide,
    ⟨pin0, by decide, rfl⟩, by simp [NoForwarding, sHeld, dm], by decide, by decide, by decide, rfl, rfl, rfl, rfl⟩
/-! ## Pre-emption, DRAM, migration, host, peers, start -/
/-- The result is of the pair's own load, which has moved a register already; or of an instruction before it. -/
def pMoved : Split := { p0 with progress := 2 }
theorem witness_SplitEventResults_late : (late0.pc = startPc pMoved ∧ pMoved.progress ≠ 0) ∧
    ¬ (late0.pc = startPc p0 ∧ p0.progress ≠ 0) ∧ outstanding { gOut late0 with splits := [pMoved] } pMoved = [late0] ∧
    findSplit { gOut late0 with splits := [pMoved] } 0 = some pMoved ∧ pMoved.wait = .ready ∧ pMoved.redo = none ∧ p0.redo = none := by
  decide

/-- A record at 0x1000 that names every workgroup of launch 0, with areas from 8 MiB on; one whose COUNT is too large; one that names
workgroup 0 with its area. -/
def recBytes (count : Nat) : List Byte :=
  leBytes 4 0 ++ leBytes 4 count ++ leBytes 8 0x80_0000 ++ leBytes 4 0 ++ leBytes 4 0x77 ++ leBytes 40 0
def sPre (count : Nat) (l : Launch) : State :=
  placing (dm g0 w0 l) [(0x1000, recBytes count ++ leBytes 8 0 ++ leBytes 8 0x80_0000)]
def lGremund : Launch := { l0 with desc := { l0.desc with pclass := 2 } }
/-- What was asked for, once the record has been read. -/
def reqOf (s : State) : Request := readRequest (deviceRead s 0x1000 64) 0x1000
theorem witness_PreemptionResults : deadDie (sPre 0 l0) 0 = false ∧ requestHere (sPre 0 l0) 0x1004 = false ∧
    requestHere (sPre 0 l0) 0x1000 = true ∧ requestHere (sPre 5000 l0) 0x1000 = true ∧ (reqOf (sPre 5000 l0)).bad = true ∧
    (reqOf (sPre 0 l0)).bad = false ∧ areasOut (deviceRead (sPre 0 l0) 0x1000 64) (reqOf (sPre 0 l0)) = false ∧
    preemptReasons (deviceRead (sPre 0 l0) 0x1000 64) (reqOf (sPre 0 l0)) = [] ∧
    namedAreas (deviceRead (sPre 0 l0) 0x1000 64) (reqOf (sPre 0 l0)) = [(0, 0x80_0000)] ∧
    (reqOf (sPre 0 lGremund)).bad = false ∧ areasOut (deviceRead (sPre 0 lGremund) 0x1000 64) (reqOf (sPre 0 lGremund)) = false ∧
    preemptReasons (deviceRead (sPre 0 lGremund) 0x1000 64) (reqOf (sPre 0 lGremund)) = [5] :=
  by decide +kernel
/-- The save of workgroup 0 in its area, of a launch of a region; its header's SIZE is there, or is not. -/
def saved0 : Saved :=
  { firmware := State.reset.plat.firmware, area := 0x80_0000, region := 0x8000, launch := 0, desc := lReg.desc, wg := w0, groups := [],
    size := 64, astore := [], wstore := [], cstore := [], planes := [], copies := [], wps := [], washes := [], tpf := [], deferred := [], relay := [] }
def sSaved (size : Nat) : State :=
  let s := placing (sPre 1 lReg) [(0x80_0000, leBytes 4 size)]
  { s with pre := { s.pre with saved := [saved0] }, sched := { s.sched with regions := [reg0], groups := [], wgs := [] } }
theorem witness_PreemptionResults_restore : requestHere (sSaved 64) 0x1000 = true ∧ (reqOf (sSaved 64)).bad = false ∧
    (reqOf (sSaved 64)).count ≠ 0 ∧ (reqOf (sSaved 64)).entries.map (·.2) = [0x80_0000] ∧
    inDram (sSaved 64).plat.walk 0x80_0000 ((savedIn (deviceRead (sSaved 64) 0x1000 64) 0x80_0000).elim 0x40_0000
      fun x => areaBytes x.wg) = true ∧
    restoreReasons (deviceRead (sSaved 64) 0x1000 64) [0x80_0000] = [] ∧ requestHere (sSaved 0) 0x1000 = true ∧
    restoreReasons (deviceRead (sSaved 0) 0x1000 64) [0x80_0000] = [8] :=
  by decide +kernel
def req0 (passed : Bool) : PreReq :=
  { tag := 0x77, die := 0, launch := 0, left := [(0, 0x80_0000)], done := 0, deadline := 0, passed := passed, late := [],
    lateSaves := false }
def sReq (passed : Bool) : State :=
  let s := dm g0 w0 l0
  { s with pre := { s.pre with reqs := [req0 passed], results := [(0, 5)] } }
theorem witness_PreemptionResults_save : (sReq false).pre.reqs[0]? = some (req0 false) ∧ (req0 false).deadline ≤ (sReq false).clock.ps ∧
    (req0 false).passed = false ∧ (∀ st, (ctlOf (sReq false) st).retrainDue = false) ∧ (req0 false).left = [(0, 0x80_0000)] ∧
    w0 = wgOf (sReq false) 0 0 ∧ w0 ∈ (sReq false).sched.wgs ∧ w0.launch = (req0 false).launch ∧ w0.wg = 0 ∧
    saveBlocked (sReq false) false w0 = false ∧ (sReq false).pre.results.find? (fun x => x.1 == 0) = some (0, 5) ∧
    (sReq false).pre.results.find? (fun x => x.1 == 1) = none ∧
    deadStack (sReq false) 0 = false ∧
    (∃ r ∈ (sReq false).pre.reqs, r.passed = false ∧ ∃ x ∈ r.left, 0 ∈ areaStacks (sReq false) r.launch x) ∧
    (∀ r ∈ (sReq true).pre.reqs, ∀ x ∈ r.left, 0 ∈ areaStacks (sReq true) r.launch x → r.passed = true) ∧
    ∃ x ∈ (req0 true).left, 0 ∈ areaStacks (sReq true) 0 x :=
  ⟨rfl, by decide, rfl, fun _ => rfl, rfl, rfl, by decide, rfl, rfl, by decide, by decide, by decide, rfl,
    ⟨req0 false, by decide, rfl, (0, 0x80_0000), by decide, by decide⟩, by decide, ⟨(0, 0x80_0000), by decide, by decide⟩⟩
theorem witness_PreemptionResults_deadline : (sReq false).pre.aborted = [] ∧
    (∀ x ∈ (req0 false).left, ∀ w ∈ ({ sReq false with sched := {} } : State).sched.wgs,
      ¬ (w.launch = (req0 false).launch ∧ w.wg = x.1)) ∧ ({ sReq false with sched := {} } : State).pre.reqs[0]? = some (req0 false) := by
  decide

/-- A controller with a bank in back-off and a count below its threshold; one whose pass is due; one whose pass is under way; an atom
of stack 0 with an error. -/
def sCtl (c : Stack) (ps : Nat) : State :=
  let s := putCtl s0 0 c
  { s with clock := { s.clock with ps := ps } }
def backoff0 : Stack := { inBackoff := [(3, 9)], act := [(5 * 2 ^ 32 + 1, (0, 1023))] }
theorem witness_DramResults : deadStack (sCtl backoff0 0) 0 = false ∧ backoff0 = ctlOf (sCtl backoff0 0) 0 ∧
    mget (0, 0) (5 * 2 ^ 32 + 1) backoff0.act = (0, 1023) ∧ 1024 = min ((if 0 = 0 / 32_000_000_000 % 4 then 1023 else 0) + 1) 65535 ∧
    backoff0.thresh ≤ 1024 ∧ (∀ b ∈ backoff0.inBackoff, b.1 ≠ 5) ∧ backoff0.inBackoff.find? (fun b => b.1 == 3) = some (3, 9) ∧
    (∃ b ∈ backoff0.inBackoff, b.1 = 3) ∧ lockStepRead (sCtl backoff0 0) 0 = false ∧
    { backoff0 with scrubEn := true }.scrubEn = true ∧ ({} : Stack).passAt + ({} : Stack).period * 3_600_000_000_000_000 ≤
      (sCtl {} 86_400_000_000_000_000).clock.ps ∧ ({} : Stack).passOn = false ∧ ({ passOn := true } : Stack).passOn = true ∧
    (sCtl {} 0).ms.dram.errs = [] ∧ (sCtl {} 0).ms.dram.ueSeen = [] :=
  ⟨rfl, rfl, rfl, by decide, by decide, by decide, by decide, ⟨(3, 9), by decide, rfl⟩, rfl, rfl, by decide, rfl, rfl, rfl, rfl⟩
/-- A view block is being read; four refreshes of a bank in back-off, and of one that is not, are postponed. -/
def sReading (c : Stack) : State :=
  let s := sCtl c 0
  { s with tier := { s.tier with jobs := [{ job0 with block := 0, data := none }] } }
def late3 : Stack := { backoff0 with postponed := [(3, 4), (5, 4)] }
theorem witness_DramResults_lock_step : lockStepRead (sReading late3) 0 = true ∧ late3 = ctlOf (sReading late3) 0 ∧
    4 ≤ mget 0 3 late3.postponed ∧ 4 ≤ mget 0 5 late3.postponed ∧ mget 0 7 late3.postponed < 4 ∧ (∃ b ∈ late3.inBackoff, b.1 = 3) ∧
    (∀ b ∈ late3.inBackoff, b.1 ≠ 5) ∧ (∀ b ∈ late3.inBackoff, b.1 ≠ 7) ∧ lockStepRead (sCtl late3 0) 0 = false ∧
    mget 0 3 backoff0.postponed < 4 := by decide

/-- A migration of the 64 KiB at 1 MiB to 2 MiB: to be started, refused, under way with few marks, and with many after one pass or
eight; forwarding. A bias flip. -/
def ctlMig : Stack := { migSrc := 0x10_0000, migDst := 0x20_0000, biasBase := 0x30_0000 }
def mig0 (status pass n : Nat) : Mig :=
  { status := status, pass := pass, src := 0x10_0000, dst := 0x20_0000, len := 65536, marks := List.replicate n 0x8000 }
def sMig (m : Mig) : State := putMig (putCtl s0 0 ctlMig) 0 m
theorem witness_MigrationAndBiasResults : deadStack (sMig {}) 0 = false ∧ ctlMig = ctlOf (sMig {}) 0 ∧ nbits (4 : DWord).toNat 2 2 = 1 ∧
    Memory.wf (sMig {}).ms.mem = true ∧ migRefused (sMig {}) 0 (nbits (4 : DWord).toNat 0 2) = false ∧
    nbits (7 : DWord).toNat 2 2 = 1 ∧ migRefused (sMig {}) 0 (nbits (7 : DWord).toNat 0 2) = true ∧
    mig0 1 1 3 = migOf (sMig (mig0 1 1 3)) 0 ∧ (mig0 1 1 3).status = 1 ∧ (mig0 1 1 3).marks.length ≤ 1024 ∧
    (∀ p ∈ (sMig (mig0 1 1 3)).ms.cache.homePins ++ (sMig (mig0 1 1 3)).ms.cache.teamPins,
      inRange (p.atom * 32) ((mig0 1 1 3).src, (mig0 1 1 3).len) = false) ∧
    1024 < (mig0 1 8 1025).marks.length ∧ 8 ≤ (mig0 1 8 1025).pass ∧ 1024 < (mig0 1 7 1025).marks.length ∧ (mig0 1 7 1025).pass < 8 ∧
    (migOf (sMig (mig0 3 2 0)) 0).status = 3 ∧ (migOf (sMig {}) 0).status ≠ 3 ∧ nbits (9 : DWord).toNat 2 2 = 2 :=
  ⟨rfl, rfl, by decide, by decide, by decide, by decide, by decide, rfl, rfl, by decide, by decide,
    by rw [mig0, List.length_replicate]; decide, by decide, by rw [mig0, List.length_replicate]; decide, by decide, rfl, by decide,
    by decide⟩
theorem witness_MigrationAndBiasResults_bias : deadStack (sCtl { biasStatus := 1 } 0) 0 = false ∧
    (ctlOf (sCtl { biasStatus := 1 } 0) 0).biasStatus = 1 ∧ ctlMig.biasStatus ≠ 1 ∧
    inDram (sMig {}).plat.walk (ctlMig.biasBase / 65536 * 65536) ((nbits (5 : DWord).toNat 2 16 + 1) * 65536) = true ∧
    inDram (sMig {}).plat.walk (2 ^ 50 / 65536 * 65536) ((nbits (5 : DWord).toNat 2 16 + 1) * 65536) = false ∧
    nbits (5 : DWord).toNat 0 2 = 1 ∧ nbits (6 : DWord).toNat 0 2 = 2 :=
  ⟨rfl, rfl, by decide, by decide, by decide, by decide, by decide⟩

/-- The machine with port 0 up, and with port 0 retraining. -/
def sPort (up again : BitVec 18) : State :=
  let s := s0
  { s with plat := { s.plat with started := true, linkUp := up, linkRetraining := again }, clock := { s.clock with ps := 10 ^ 9 } }
theorem witness_HostAndPeerResults : (sPort 1 0).plat.started = true ∧ s0.plat.started = false ∧ (sPort 1 0).plat.walk = false ∧
    outsideOk (sPort 1 0) 0x1000 4 = true ∧
    outsideOk (sPort 1 0) (2 ^ 50) 4 = false ∧ NoForwarding (sPort 1 0).ms ∧ (sPort 1 0).plat.linkUp ≠ 0 ∧
    (sPort 1 0).ms.cache.homePins = [] ∧ (sPort 1 0).plat.linkUp.getLsbD 0 = true ∧ (sPort 1 0).copies.peerChunks = [] ∧
    (sPort 2 1).plat.linkRetraining.getLsbD 0 = true ∧
    mget 0 0 (sPort 2 1).plat.retrainSince + (sPort 2 1).plat.retrainLimit * 1_000_000 ≤ (sPort 2 1).clock.ps ∧
    (sPort 2 1).plat.linkUp ≠ 0 ∧ (sPort 0 1).ms.cache.peerWrites = [] ∧ (sPort 0 1).copies.peerChunks = [] :=
  ⟨rfl, rfl, rfl, by decide, by decide, by simp [NoForwarding, sPort, s0, dm], by decide, rfl, by decide, rfl, by decide, by decide, by decide,
    rfl, rfl⟩
/-- No port is up, and port 0, the last that retrained, is to go; a release of all lanes of group 0 waits with a posted write. -/
def fenceSys : FenceRec :=
  { id := 0, group := 0, core := 0, launch := 0, wg := 0, split := 0, lanes := 0xFF, acq := false, rel := true, scope := .sys, range := none,
    q := some 1, blocks := [], isView := false }
def sLast : State :=
  let s := sPort 0 1
  { s with ms := { s.ms with cache := { s.ms.cache with fences := [fenceSys], peerWrites := [⟨1, 0x40, [7], [(0, 0)], none⟩] } } }
theorem witness_HostAndPeerResults_limit : sLast.plat.linkUp = 0 ∧ sLast.plat.linkRetraining &&& ~~~ BitVec.twoPow 18 0 = 0 ∧
    sLast.plat.linkRetraining.getLsbD 0 = true ∧ sLast.copies.peerChunks = [] ∧ sLast.ms.cache.fences = [fenceSys] ∧
    fenceWaits { sLast with plat := { sLast.plat with linkRetraining := 0 } } fenceSys = false ∧
    (∃ w ∈ (fenceRelease { sLast with plat := { sLast.plat with linkRetraining := 0 } } fenceSys).ms.cache.peerWrites,
      w.lost = none ∧ fenceSys.owns w = true) ∧
    mget 0 0 sLast.plat.retrainSince + sLast.plat.retrainLimit * 1_000_000 ≤ sLast.clock.ps := by decide

/-- The machine before its start, and after failures; with images that do not verify. -/
def sStart (n : Nat) (i : FwImage) : State :=
  { State.reset with plat := { State.reset.plat with attempts := n, mainSlot := i, recoverySlot := i } }
/-- A millisecond after reset. -/
def s1ms : State := { State.reset with clock := { State.reset.clock with ps := 1_000_000_000 } }
theorem witness_StartAndSecurityResults : (sStart 0 {}).plat.started = false ∧ (sStart 0 {}).plat.attempts ≠ 3 ∧
    verifyImage (sStart 0 {}).plat.fuses {} = none ∧ (sStart 3 {}).plat.attempts = 3 ∧
    verifyImage (sStart 0 {}).plat.fuses { edSigned := false } = some 1 ∧ verifyImage (sStart 0 {}).plat.fuses { mlSigned := false } = some 2 ∧
    verifyImage { rollback := 1 } {} = some 3 ∧ [(0x1_0000, 65536)].length ≤ 16 ∧
    (∀ r ∈ [(0x1_0000, 65536)], 0 < r.2 ∧ inDram State.reset.plat.walk r.1 r.2 = true) ∧
    State.reset.clock.ps < State.reset.plat.windowAt + 1_000_000_000 ∧ s1ms.plat.windowAt + 1_000_000_000 ≤ s1ms.clock.ps :=
  ⟨rfl, by decide, by decide, rfl, by decide, by decide, by decide, by decide, by decide, by decide, by decide⟩
theorem witness_StartAndSecurityResults_reset : (sStart 3 { mlSigned := false }).plat.attempts = 3 ∧
    verifyImage (sStart 3 { mlSigned := false }).plat.fuses (sStart 3 { mlSigned := false }).plat.recoverySlot = some 2 ∧
    State.reset.plat.inReset = false ∧ ({ State.reset with plat := { State.reset.plat with inReset := true } } : State).plat.inReset = true := by
  decide

end Sys2Proof.Tests
end

section
/-! PROOFS. What SETFMT, SETSPARE and the two forms of SETWB do (R53, R59, R60, R396). -/

namespace Sys2Proof.Machine

open Sys2Proof.Safety

/-- The check that SETFMT makes is the rule of R59 on reserved bits and codes. -/
theorem fmtLegal_iff (w : Word) : fmtLegal w = true ↔ fmtValid w := by
  have hw : w.toNat < 2 ^ 32 := w.isLt
  simp only [fmtLegal, Bool.and_eq_true, beq_iff_eq, bne_iff_ne, decide_eq_true_eq]
  simp only [fmtValid, fmtQrnd, fmtScale, nbits]
  omega

/-- A scalar register below the declared count passes its check (R55). -/
theorem sCheck_singleton {g : Group} {p : Split} {r : Nat} (h : r < g.sregs) : sCheck g p [r] = none :=
  sCheck_of_SOk (by simpa [SOk] using h)

/-- A window of w registers of eight (R53). -/
theorem append_zero_eq_eight_mul (w : BitVec 5) : w ++ 0#3 = BitVec.ofNat 8 (8 * w.toNat) := by
  apply BitVec.eq_of_toNat_eq
  rw [BitVec.toNat_append, BitVec.toNat_ofNat]
  simp [Nat.shiftLeft_eq]
  omega

section
variable {s : State} {g : Group} {p : Split} {y : Bool} {gd : Guard} {a : BitVec 7}

theorem exec_setfmt_of_valid (hi : Issues s g p {}) (hg : guardQ g gd = true) (ha : a.toNat < g.sregs)
    (hv : fmtValid (getS g a.toNat)) :
    exec (.setfmt y gd a) s = .next (finish s g { p with fmt := getS g a.toNat } y) := by
  show execSetfmt y gd a s = _
  rw [execSetfmt, issueQ_next _ hi.issuing hi.pair hg, sCheck_singleton ha, if_pos ((fmtLegal_iff _).2 hv)]
  rfl

/-- A reserved bit or code is an illegal instruction (R59). -/
theorem exec_setfmt_of_not_valid (hi : Issues s g p {}) (hg : guardQ g gd = true) (ha : a.toNat < g.sregs)
    (hv : ¬ fmtValid (getS g a.toNat)) :
    exec (.setfmt y gd a) s = .next (takeTrap s g p (illegal (.setfmt y gd a) g p) none) := by
  show execSetfmt y gd a s = _
  rw [execSetfmt, issueQ_next _ hi.issuing hi.pair hg, sCheck_singleton ha, if_neg (mt (fmtLegal_iff _).1 hv)]
  rfl

theorem exec_setspare (hi : Issues s g p {}) (hg : guardQ g gd = true) (ha : a.toNat < g.sregs) :
    exec (.setspare y gd a) s = .next (finish s { g with spa := (getS g a.toNat).setWidth 16 } p y) := by
  show execSetspare y gd a s = _
  rw [execSetspare, issueQ_next _ hi.issuing hi.pair hg, sCheck_singleton ha]
  rfl

theorem exec_setwb (w : BitVec 5) (hi : Issues s g p {}) (hg : guardQ g gd = true) :
    exec (.setwb y gd w) s = .next (finish s { g with wb := w ++ 0#3 } p y) :=
  issueQ_next _ hi.issuing hi.pair hg

theorem exec_setwbReg (hi : Issues s g p {}) (hg : guardQ g gd = true) (ha : a.toNat < g.sregs) :
    exec (.setwbReg y gd a) s =
      .next (finish s { g with wb := (fld (getS g a.toNat) 3 5 : BitVec 5) ++ 0#3 } p y) := by
  show execSetwbReg y gd a s = _
  rw [execSetwbReg, issueQ_next _ hi.issuing hi.pair hg, sCheck_singleton ha]
  rfl

end

/-- Settles O19, one instruction at a time. -/
theorem formatResults : Obligations.FormatResults := by
  unfold Obligations.FormatResults
  refine ⟨fun s g p y gd a w hi hg => ⟨exec_setfmt_of_valid hi hg, fun ha => ?_, ?_, fun ha => ?_⟩,
    fun s g p y gd a hi hg ha hv => ⟨_, rfl, exec_setfmt_of_not_valid hi hg ha hv⟩, rfl, rfl, rfl, rfl⟩
  · rw [exec_setspare hi hg ha, BitVec.ofNat_toNat]
  · rw [exec_setwb w hi hg, append_zero_eq_eight_mul]
  · have hfield : (fld (getS g a.toNat) 3 5).toNat = (getS g a.toNat).toNat / 8 % 32 := by
      rw [fld, BitVec.extractLsb'_toNat, Nat.shiftRight_eq_div_pow]
    rw [exec_setwbReg hi hg ha, append_zero_eq_eight_mul, hfield]

end Sys2Proof.Machine
end

section
/-! PROOFS. What SHFL and VOTE do (R399, R415), and the state in which SHFL does not. -/

namespace Sys2Proof.Machine

open Sys2Proof.Safety

/-! ## Masks of lanes and runs of scalar registers -/

theorem getLsbD_foldl_twoPow (ls : List Nat) (m : BitVec 128) (i : Nat) :
    (ls.foldl (fun m l => m ||| BitVec.twoPow 128 l) m).getLsbD i =
      (m.getLsbD i || decide (i < 128 ∧ i ∈ ls)) := by
  induction ls generalizing m with
  | nil => simp
  | cons l ls ih =>
    rw [List.foldl_cons, ih, BitVec.getLsbD_or, BitVec.getLsbD_twoPow, Bool.or_assoc]
    congr 1
    rw [Bool.eq_iff_iff]
    simp only [Bool.or_eq_true, Bool.and_eq_true, decide_eq_true_eq, List.mem_cons]
    constructor <;> grind

/-- A mask has the bits of its lanes. -/
theorem getLsbD_laneBits (ls : List Nat) (i : Nat) : (laneBits ls).getLsbD i = decide (i < 128 ∧ i ∈ ls) := by
  rw [laneBits, getLsbD_foldl_twoPow]
  simp

/-- Scalar registers d to d + n - 1 at the values of f, one after the other. -/
def setSRun (g : Group) (d n : Nat) (f : Nat → Word) : Group :=
  (List.range n).foldl (fun h k => setS h (d + k) (f k)) g

theorem setSRun_succ (g : Group) (d n : Nat) (f : Nat → Word) :
    setSRun g d (n + 1) f = setS (setSRun g d n f) (d + n) (f n) := by
  simp [setSRun, List.range_succ]

theorem getS_setSRun_of_lt (g : Group) (d n : Nat) (f : Nat → Word) {k : Nat} (hk : k < n) :
    getS (setSRun g d n f) (d + k) = f k := by
  induction n with
  | zero => omega
  | succ n ih =>
    rw [setSRun_succ, getS_setS]
    split
    · congr 1; omega
    · exact ih (by omega)

theorem getS_setSRun_of_ne (g : Group) (d n : Nat) (f : Nat → Word) {r : Nat} (hr : ∀ k < n, r ≠ d + k) :
    getS (setSRun g d n f) r = getS g r := by
  induction n with
  | zero => rfl
  | succ n ih =>
    rw [setSRun_succ, getS_setS, if_neg (hr n (by omega))]
    exact ih fun k hk => hr k (by omega)

theorem setSRun_rest (g : Group) (d n : Nat) (f : Nat → Word) :
    setSRun g d n f = { g with s := (setSRun g d n f).s, pend := (setSRun g d n f).pend } := by
  induction n with
  | zero => rfl
  | succ n ih => rw [setSRun_succ, setS, ih]

theorem pendBut_setSRun (g : Group) (d n : Nat) (f : Nat → Word) : pendBut (setSRun g d n f).pend = pendBut g.pend := by
  induction n with
  | zero => rfl
  | succ n ih => rw [setSRun_succ]; exact (pendBut_clobber _ _).trans ih

/-- A number at or above the limit is found. -/
theorem lowestOver_some {limit r : Nat} {rs : List Nat} (hr : r ∈ rs) (h : limit ≤ r) :
    ∃ k, lowestOver limit rs = some k := by
  unfold lowestOver
  split
  · next hnil => exact absurd (List.filter_eq_nil_iff.1 hnil r hr) (by simpa using h)
  · exact ⟨_, rfl⟩

theorem vRange_no_registers (g : Group) (ls : List Nat) : vRange g ls [] = none := vRange_none (.inr (by simp))

/-! ## SHFL (R399) -/

section
variable {s : State} {g : Group} {p : Split} {y : Bool} {gd : Guard} {d a : BitVec 6}

/-- SHFL of a split that forwards nothing takes a from the active lane that b names, and else from its own lane. -/
theorem exec_shfl_of_not_forwarded {b : Src} {m : ShflMode} (hi : Issues s g p {}) (hf : p.hints.hfwd = none)
    (hr : VOk g (active g p gd) [a.toNat, d.toNat]) (hb : BOk g (active g p gd) b) :
    ∃ h, exec (.shfl y gd d a b m) s = .next (finish s h p y) ∧
      WroteV g h (active g p gd) (eff g d.toNat) fun l =>
        let q := shuffleFrom m l (bVal g l b)
        if 0 ≤ q ∧ q < g.width ∧ q.toNat ∈ active g p gd then aVal g q.toNat a else aVal g l a := by
  have hexec : exec (.shfl y gd d a b m) s = _ :=
    vecOp_next hi.issuing hi.pair hf (opRange_of_ok hr (b := some b) (by simpa using hb))
  refine ⟨_, hexec.trans (by rw [noteFlags_none]), wroteV_congr (wroteV_setLanes _ _ _ _) fun l _ => ?_⟩
  have hq : shflFrom m l (bVal g l b) = shuffleFrom m l (bVal g l b) := by cases m <;> rfl
  simp [bArg, hq, and_assoc]

/-- SHFL under an HFWD hint whose words the pair still holds is an illegal hint (R305, R306). -/
theorem exec_shfl_of_hint {b : Src} {m : ShflMode} (hc : curSplit s = some (g, p)) (hf : p.hints.hfwd.isSome = true)
    (hw : p.hints.words ≠ []) :
    ∃ t : Trap, t.cause = 0x02 ∧ exec (.shfl y gd d a b m) s = .next (takeTrap s g p t none) := by
  obtain ⟨w, ws, hws⟩ := List.exists_cons_of_ne_nil hw
  have hbad : badHint {} p.hints = some w := by simp [badHint, hf, hws]
  refine ⟨hintTrap (.shfl y gd d a b m) g p w, rfl, ?_⟩
  show execShfl y gd d a b m s = _
  simp [execShfl, vecOp, issueAt, hc, hbad]

end

/-! ## VOTE (R415) -/

section
variable {s : State} {g : Group} {p : Split} {y : Bool} {gd : Guard} {d a : BitVec 6} {b : BitVec 7}

theorem voteAns_any (ls : List Nat) (v : Nat → Bool) : voteAns .any (ls.map v) = decide (∃ l ∈ ls, v l = true) := by
  rw [Bool.eq_iff_iff]; simp [voteAns]

theorem voteAns_all (ls : List Nat) (v : Nat → Bool) : voteAns .all (ls.map v) = decide (∀ l ∈ ls, v l = true) := by
  rw [Bool.eq_iff_iff]; simp [voteAns]

theorem voteAns_eq (ls : List Nat) (v : Nat → Bool) :
    voteAns .eq (ls.map v) = decide (∀ l ∈ ls, ∀ k ∈ ls, v l = v k) := by
  rw [Bool.eq_iff_iff]
  simp only [voteAns, Bool.or_eq_true, List.all_map, List.all_eq_true, Function.comp, id, Bool.not_eq_true',
    decide_eq_true_eq]
  constructor
  · rintro (h | h) l hl k hk <;> rw [h l hl, h k hk]
  · intro h
    cases hls : ls.any v with
    | false => exact .inr (by simpa using hls)
    | true =>
      obtain ⟨k, hk, hv⟩ := List.any_eq_true.1 hls
      exact .inl fun l hl => (h l hl k hk).trans hv

/-- Without an active lane VOTE has no effect. -/
theorem exec_vote_of_idle {m : VoteMode} (hi : Issues s g p {}) (hl : active g p gd = []) :
    exec (.vote y gd d a b m) s = .next (finish s g p y) := by
  show execVote y gd d a b m s = _
  rw [execVote, vecChecked_next hi.issuing hi.pair (vRange_no_registers _ _) (.inl hl), noteFlags_none, hl]
  rfl

/-- any, all and eq write their answer to one predicate of every active lane. -/
theorem exec_vote_predicate {m : VoteMode} (hi : Issues s g p {}) (hl : active g p gd ≠ []) (hm : m ≠ .ballot) :
    ∃ h, exec (.vote y gd d a b m) s = .next (finish s h p y) ∧
      WroteP g h (active g p gd) (d.toNat / 8) fun _ => voteAns m ((active g p gd).map (voteVal g a)) := by
  refine ⟨_, ?_, wroteP_setPreds g _ _ _ (by omega)⟩
  show execVote y gd d a b m s = _
  rw [execVote, vecChecked_next hi.issuing hi.pair (vRange_no_registers _ _) (.inr (if_neg hm)), noteFlags_none]
  simp [hl, hm]

/-- ballot writes four scalar registers, with a bit for each active lane whose predicate holds. -/
theorem exec_vote_ballot (hi : Issues s g p {}) (hl : active g p gd ≠ [])
    (hs : SOk g [d.toNat, d.toNat + 1, d.toNat + 2, d.toNat + 3]) :
    ∃ h, exec (.vote y gd d a b .ballot) s = .next (finish s h p y) ∧
      (∀ k < 4, ∀ i < 32, (getS h (d.toNat + k)).getLsbD i =
        decide (32 * k + i ∈ active g p gd ∧ voteVal g a (32 * k + i) = true)) ∧
      (∀ r, (∀ k < 4, r ≠ d.toNat + k) → getS h r = getS g r) ∧
      h = { g with s := h.s, pend := h.pend } ∧ pendBut h.pend = pendBut g.pend := by
  have hexec : exec (.vote y gd d a b .ballot) s = .next (finish s (setSRun g d.toNat 4 fun k =>
      fld (laneBits ((active g p gd).filter (voteVal g a))) (32 * k) 32) p y) := by
    show execVote y gd d a b .ballot s = _
    rw [execVote, vecChecked_next hi.issuing hi.pair (vRange_no_registers _ _)
      (.inr ((if_pos rfl).trans (sRange_none hs))), noteFlags_none]
    simp [hl, setSRun]
  refine ⟨_, hexec, fun k hk i hlt => ?_, fun r => getS_setSRun_of_ne _ _ _ _, setSRun_rest .., pendBut_setSRun ..⟩
  have hlane : 32 * k + i < 128 := by omega
  rw [getS_setSRun_of_lt _ _ _ _ hk, fld, BitVec.getLsbD_extractLsb', getLsbD_laneBits]
  simp [hlt, hlane]

/-- A ballot whose fourth register is not declared is out of range (R55). -/
theorem exec_vote_ballot_of_undeclared (hi : Issues s g p {}) (hl : active g p gd ≠ []) (hs : g.sregs ≤ d.toNat + 3) :
    ∃ t : Trap, t.cause = 0x03 ∧ exec (.vote y gd d a b .ballot) s = .next (takeTrap s g p t none) := by
  obtain ⟨r, hr⟩ := lowestOver_some (rs := [d.toNat, d.toNat + 1, d.toNat + 2, d.toNat + 3]) (by simp) hs
  refine ⟨{ cause := 0x03, lanes := laneBits (active g p gd), info := BitVec.ofNat 64 (r % 512 + 512) }, rfl, ?_⟩
  show execVote y gd d a b .ballot s = _
  rw [execVote, vecChecked, issueAt_next _ hi.issuing hi.pair]
  simp [hl, vRange_no_registers, sRange, hr]

end

/-! ## The refutation -/

/-- SHFL of a pair that tells a forwarding but holds none of its words passes the check of hints, and takes the trap of the
chain's check. -/
theorem exec_shfl_of_chainCheck {s : State} {g : Group} {p : Split} {y : Bool} {gd : Guard} {d a : BitVec 6} {b : Src}
    {m : ShflMode} {k : BitVec 4} {slot : BitVec 2} {t : Trap} (hi : Issues s g p {}) (hf : p.hints.hfwd = some (k, slot))
    (hr : VOk g (active g p gd) [a.toNat, d.toNat])
    (ht : chainCheck s g (active g p gd) (k.toNat + 1) slot.toNat = some t) :
    exec (.shfl y gd d a b m) s = .next (takeTrap s g p t none) := by
  show execShfl y gd d a b m s = _
  rw [execShfl, vecOp, issueAt_next _ hi.issuing hi.pair]
  simp [hf, opRange_of_ok hr (b := none) (by simp), runForwarded, ht]

/-- A split whose pair tells a forwarding without its word. -/
def strayForward : Split := { id := 0, slices := [0], pc := 0, fmt := 0, hints := { hfwd := some (0, 0) } }

/-- Its group, of four lanes. -/
def strayGroup : Group :=
  { id := 0, launch := 0, wg := 0, index := 0, core := 0, pos := 0, width := 4, vregs := 8, sregs := 8, octet := 0,
    regOffset := 0, itemBase := 0, slices := [⟨15, 15, [], 0⟩], splits := [strayForward] }

/-- The machine with that group, of a launch that is not chained, and a handler at 0x1000. -/
def strayState : State := { sched := { groups := [strayGroup], wgs := [{ noWg with trapBase := 0x1000 }] } }

/-- Refutes O14: its clause on SHFL admits a split whose pair tells a forwarding but holds no word, which `badHint` passes.
No run builds such a pair, since HFWD notes its word. SHFL then makes the chain's check and enters the handler at 0x1000, where
the clause has it go on at 4. With `hfwd = none` the clause holds, by `exec_shfl_of_not_forwarded`; the clauses on VOTE and on
traps hold as they stand, by the lemmas above. -/
theorem not_crossLaneResults : ¬ Obligations.CrossLaneResults := by
  unfold Obligations.CrossLaneResults
  rintro ⟨hshfl, -⟩
  have hi : Issues strayState strayGroup strayForward {} := ⟨rfl, rfl⟩
  have hr : VOk strayGroup (active strayGroup strayForward ⟨false, 0⟩) [0, 1] := .inr (by decide)
  obtain ⟨h, hgoes, hw⟩ := hshfl strayState strayGroup strayForward false ⟨false, 0⟩ 1 0 (.v 0) .idx hi hr (.inr (by decide))
  have htrap : finish strayState h strayForward false =
      takeTrap strayState strayGroup strayForward (chainTrap 15 3) none := by
    rw [exec_shfl_of_chainCheck hi rfl hr rfl] at hgoes
    exact (Host.Outcome.next.inj hgoes).symm
  have hpassed : (curSplit (finish strayState h strayForward false)).map (·.2.pc) = some 4 := by
    have hid : h.id = strayGroup.id := by rw [hw.rest]
    have hsplits : h.splits = strayGroup.splits := by rw [hw.rest]
    rw [curSplit_finish false hi.issuing hid hsplits rfl]
    rfl
  have hentered : (curSplit (takeTrap strayState strayGroup strayForward (chainTrap 15 3) none)).map (·.2.pc) =
      some 0x1000 := by decide
  rw [htrap, hentered] at hpassed
  exact absurd hpassed (by decide)

end Sys2Proof.Machine
end
